-- ==== Sys2Proof/Word.lean ====
section
/-! DEFINITION. The words of the Svetlor SZ4 (spec/00_scope.md R6, spec/01_machine_state.md R14): the bit vectors that registers, addresses and fields hold, and the two shapes of sparse data that State uses. -/
namespace Sys2Proof

/-- A byte of any store of the device (R6). -/
abbrev Byte := BitVec 8
/-- A 16-bit value: a header, a half-width lane, a physical core number (R10). -/
abbrev Half := BitVec 16
/-- A 32-bit value: an operation word, an FP32 element. -/
abbrev Word := BitVec 32
/-- A 64-bit value: a scalar register, a local-store word (R14, R29). -/
abbrev DWord := BitVec 64
/-- A 256-bit vector register (R152). -/
abbrev Vec := BitVec 256

/-- A 6-bit scalar register field: 0 to 31 name x0 to x31, 32 to 63 name k0 to k31 (R14). -/
abbrev SReg := BitVec 6
/-- A 6-bit vector register field: 0 to 31 name v0 to v31, 32 to 63 name w0 to w31 (R14). -/
abbrev VReg := BitVec 6
/-- A predicate q0 to q7 (R14). -/
abbrev PReg := BitVec 3
/-- An accumulator m0 to m7 (R14). -/
abbrev Acc := BitVec 3

/-- Sparse data: listed keys in strictly rising order. -/
abbrev Sparse (α : Type) := List (Nat × α)

end Sys2Proof
end

