-- ==== Sys2Proof/Syntax.lean ====
section
/-! DEFINITION. The operations and events of the SZ4: one constructor of Instr per row of spec/opcode_table.json. Operations carry the fields of their encoding (spec/02_bundles_and_opcode_map.md R47 to R60); events carry the core, command, packet or queue they concern. -/
namespace Sys2Proof

/-! ## Modifier codes -/

/-- MULH operand signedness (R100): signed × signed, natural × natural, signed a × natural b. -/
inductive MulSign | ss | nn | sn
  deriving DecidableEq, Repr
/-- The eight integer conditions of CMP (R102). -/
inductive Cond | eq | ne | lt | ge | ltu | geu | tst | ntst
  deriving DecidableEq, Repr
/-- The shift kinds of SHI (R105). -/
inductive ShiftKind | sll | srl | sra | ror
  deriving DecidableEq, Repr
/-- The counts of BITC and VBITC (R108, R164). -/
inductive BitKind | pop | clz | ctz
  deriving DecidableEq, Repr
/-- The wide floating-point types (R70, R48). -/
inductive FpTy | f32 | bf16 | f16
  deriving DecidableEq, Repr
/-- The integer lane types in the order of R48's codes. -/
inductive IntTy | i32 | i16 | i8 | i64
  deriving DecidableEq, Repr
/-- The operations of FOP (R114). -/
inductive FopKind | add | sub | mul | div | sqrt | min | max
  deriving DecidableEq, Repr
/-- The forms of FFMA (R116). -/
inductive FmaForm | ma | ms | nma | nms
  deriving DecidableEq, Repr
/-- The conditions of FCMP and VCMP (R117). -/
inductive FCond | eq | ne | lt | le | un
  deriving DecidableEq, Repr
/-- The types of FCVT (R118). -/
inductive CvtTy | f32 | bf16 | f16 | s32 | n32 | s64 | n64
  deriving DecidableEq, Repr
/-- The mode field of FCVT (R118) : FCR's mode, RTZ or RNE. -/
inductive CvtMode | fcr | rtz | rne
  deriving DecidableEq, Repr
/-- The operations of ALOG (R150). -/
inductive LogOp | and | or | xor
  deriving DecidableEq, Repr
/-- The scopes of FENCE (R139). -/
inductive Scope | ctx | core | shore | die | pkg | sys
  deriving DecidableEq, Repr
/-- Element sizes of LDGV and STSV (R143). -/
inductive GatherSize | n32 | n64 | n16
  deriving DecidableEq, Repr
/-- The RMO field of R156: FCR's mode or one named mode. -/
inductive Rmo | fcr | rne | rtz | rdn | rup | sr
  deriving DecidableEq, Repr
/-- VABSN (R157). -/
inductive AbsOp | abs | neg | nabs
  deriving DecidableEq, Repr
/-- The SAT field of VIADD and VISUB (R159): modular, signed clamp, natural clamp. -/
inductive SatMode | wrap | signed | natural
  deriving DecidableEq, Repr
/-- The HI field of VIMUL (R160). -/
inductive HiMode | low | hiSigned | hiNatural
  deriving DecidableEq, Repr
/-- The MODE field of VSATN (R165). -/
inductive NarrowMode | signed | signedToNatural | natural
  deriving DecidableEq, Repr
/-- Destination types that VSATN admits (R165). -/
inductive NarrowTy | i32 | i16 | i8
  deriving DecidableEq, Repr
/-- VMASKQ's results (R173): any and all write a predicate, bits a scalar. -/
inductive MaskDest | any (q : PReg) | all (q : PReg) | bits (d : SReg)
  deriving DecidableEq, Repr
/-- The operations of VRED (R174). -/
inductive RedOp | add | min | max
  deriving DecidableEq, Repr
/-- VRED's reading of its type field (R174): floating point, or integer with the natural compare. -/
inductive RedTy | fp (t : FpTy) | int (t : IntTy) (natural : Bool)
  deriving DecidableEq, Repr
/-- VRED's destination (R174): lane 0 of a vector, or a scalar. -/
inductive RedDest | vec (d : VReg) | scalar (d : SReg)
  deriving DecidableEq, Repr
/-- VSFU's functions (R176). -/
inductive SfuFn | exp2 | log2 | rcp | rsqrt | sigmoid | tanh
  deriving DecidableEq, Repr
/-- VDOT's element formats (R175). -/
inductive DotTy | e4m3 | e5m2 | mixed | mxint8
  deriving DecidableEq, Repr
/-- A lane index: an immediate, or bits of a scalar register (R171). -/
inductive LaneSel | imm (i : BitVec 5) | reg (r : SReg)
  deriving DecidableEq, Repr
/-- VBCAST's source (R170): a scalar, or one lane of a vector. -/
inductive BcastSrc | scalar (a : SReg) | lane (a : VReg) (i : BitVec 5)
  deriving DecidableEq, Repr
/-- A vector shift amount: per lane, or one immediate (R162). -/
inductive ShiftAmt | lanes (b : VReg) | imm (n : BitVec 6)
  deriving DecidableEq, Repr
/-- The format codes of R49: element formats 0 to 5, then BF16 and FP16. -/
inductive Fmt | e4m3 | e5m2 | e3m2 | e2m3 | e2m1 | mxint8 | bf16 | fp16
  deriving DecidableEq, Repr
/-- Scale formats (R74, R75). -/
inductive ScaleFmt | e8m0 | e8m12
  deriving DecidableEq, Repr
/-- The RND field of VQMX (R187). -/
inductive QRnd | fcr | rne | sr
  deriving DecidableEq, Repr
/-- VCMPR's element kinds (R192): the formats of R49, and FP32. -/
inductive CmprKind | fmt (f : Fmt) | f32
  deriving DecidableEq, Repr
/-- MRD's OUT and MWR's IN (R202). -/
inductive MemFmt | f32 | bf16 | f16
  deriving DecidableEq, Repr
/-- The operations of SIGS and SIGNAL (R235). -/
inductive SigOp | set | add | max
  deriving DecidableEq, Repr

/-- The start of an M or N command (R51): F and OFFSET. -/
structure Start where
  f : Bool
  off : BitVec 24
  deriving DecidableEq, Repr
/-- What an engine command carries besides its operands (R214, R216): tag, dependency, start. -/
structure Eng where
  tag : BitVec 6
  dep : Option (BitVec 6)
  start : Start
  deriving DecidableEq, Repr
/-- The tile operands that MMA, MMAS, MMAZ and MSEQ share (R202). -/
structure Tiles where
  fa : Fmt
  fb : Fmt
  a : SReg
  b : SReg
  s : SReg
  sf : ScaleFmt
  deriving DecidableEq, Repr

/-! ## Parameters of events -/

/-- Lighthouse privilege modes (R377), and the management port (R385, R428). -/
inductive HartMode | machine | supervisor | user | port
  deriving DecidableEq, Repr
/-- A hart's access to memory (R378, R379). -/
inductive HartOp
  | load (bytes : Nat) | store (data : List (BitVec 8)) | fetch (bytes : Nat)
  | lr (wide : Bool) | sc (wide : Bool) (v : BitVec 64)
  | amo (wide : Bool) (op : BitVec 5) (v : BitVec 64)
  deriving DecidableEq, Repr
/-- What the management port asks for (R428). -/
inductive PortOp
  | readLs (a n : Nat) | writeLs (a : Nat) (data : List (BitVec 8))
  | readX (c : Nat) (r : BitVec 5) | writeX (c : Nat) (r : BitVec 5) (v : BitVec 64)
  | readV (c : Nat) (r : BitVec 5) | writeV (c : Nat) (r : BitVec 5) (v : BitVec 256)
  | readQ (c : Nat) | writeQ (c : Nat) (v : BitVec 8)
  | readPc (c : Nat) | writePc (c : Nat) (v : BitVec 64)
  | readSpr (c : Nat) (n : BitVec 6) | writeSpr (c : Nat) (n : BitVec 6) (v : BitVec 64)
  | readK (r : BitVec 5) | writeK (r : BitVec 5) (v : BitVec 64) | readW (r : BitVec 5) | writeW (r : BitVec 5) (v : BitVec 256)
  | haltHart (h : Nat) | readCliff (pa n : Nat) | writeCliff (pa : Nat) (data : List (BitVec 8))
  deriving DecidableEq, Repr

/-- One constructor per row of spec/opcode_table.json: the operations, then the events. -/
inductive Instr
  -- The pure wait bundle (R45).
  | pureWaitBundle (w : BitVec 4) (g : BitVec 3) (n : Bool)
  -- S slot: integer operations (R100 to R109).
  | add (d a b : SReg) (w : Bool)
  | sub (d a b : SReg) (w : Bool)
  | and (d a b : SReg)
  | or (d a b : SReg)
  | xor (d a b : SReg)
  | sll (d a b : SReg) (w : Bool)
  | srl (d a b : SReg) (w : Bool)
  | sra (d a b : SReg) (w : Bool)
  | mul (d a b : SReg) (w : Bool)
  | mulh (d a b : SReg) (sg : MulSign)
  | div (d a b : SReg) (w u : Bool)
  | rem (d a b : SReg) (w u : Bool)
  | minmax (d a b : SReg) (max u : Bool)
  | cmp (q : PReg) (a b : SReg) (c : Cond)
  | sel (d a b : SReg) (q : PReg) (inv : Bool)
  | addi (d a : SReg) (imm : BitVec 14)
  | andi (d a : SReg) (imm : BitVec 14)
  | ori (d a : SReg) (imm : BitVec 14)
  | xori (d a : SReg) (imm : BitVec 14)
  | shi (d a : SReg) (kind : ShiftKind) (w : Bool) (amt : BitVec 6)
  | lui (d : SReg) (imm : BitVec 20)
  | cmpi (q : PReg) (a : SReg) (imm : BitVec 14)
  | bfx (d a : SReg) (sx : Bool) (wm1 pos : BitVec 6)
  | bfi (d a : SReg) (wm1 pos : BitVec 6)
  | bitc (d a : SReg) (kind : BitKind)
  | adda (d a b : SReg) (s : BitVec 3)
  -- S slot: control (R110 to R128).
  | br (imm : BitVec 20)
  | jal (d : SReg) (imm : BitVec 20)
  | jalr (d a : SReg) (imm : BitVec 14)
  | loop (d a : SReg) (stride : BitVec 7) (lo fo : Bool) (len : BitVec 5)
  | loopx (d a b : SReg) (lo fo : Bool) (len : BitVec 5)
  -- S slot: special registers (R112).
  | mfs (d : SReg) (spr : BitVec 6)
  | mts (spr : BitVec 6) (a : SReg)
  | timerWrite (a : SReg)
  | xvalWrite (a : SReg)
  -- S slot: scalar floating point (R114 to R118).
  | fop (op : FopKind) (t : FpTy) (d a b : SReg)
  | ffma (form : FmaForm) (t : FpTy) (d a b : SReg)
  | fcmp (c : FCond) (t : FpTy) (q : PReg) (a b : SReg)
  | fcvt (src dst : CvtTy) (m : CvtMode) (d a : SReg)
  -- S slot: system (R261).
  | trap (imm : BitVec 20)
  | brk (imm : BitVec 20)
  | rett
  | rettW (a : SReg)
  | halt
  | phase
  | start (a b : SReg)
  | stop (a : SReg)
  | swap (d a b : SReg) (ph : Bool)
  | resume (a : SReg)
  | migrArm (d a : SReg)
  | migrFreeze
  | migrCommit (d a : SReg)
  | migrAbort
  -- L slot (R140 to R151).
  | ld8 (d a : SReg) (imm : BitVec 14)
  | ld8z (d a : SReg) (imm : BitVec 14)
  | ld16 (d a : SReg) (imm : BitVec 14)
  | ld16z (d a : SReg) (imm : BitVec 14)
  | ld32 (d a : SReg) (imm : BitVec 14)
  | ld32z (d a : SReg) (imm : BitVec 14)
  | ld64 (d a : SReg) (imm : BitVec 14)
  | st8 (d a : SReg) (imm : BitVec 14)
  | st16 (d a : SReg) (imm : BitVec 14)
  | st32 (d a : SReg) (imm : BitVec 14)
  | st64 (d a : SReg) (imm : BitVec 14)
  | ldv (d : VReg) (a : SReg) (imm : BitVec 14)
  | stv (d : VReg) (a : SReg) (imm : BitVec 14)
  | ldbit (d a b : SReg) (sx : Bool) (wm1 : BitVec 6)
  | stbit (d a b : SReg) (wm1 : BitVec 6)
  | ldf (d a : SReg) (imm : BitVec 14)
  | ldff (d a : SReg) (imm : BitVec 14)
  | ste (d a : SReg) (imm : BitVec 14)
  | stf (d a : SReg) (imm : BitVec 14)
  | aswp (d a b : SReg) (w : Bool)
  | acas (d a b : SReg) (w : Bool)
  | aadd (d a b : SReg) (w : Bool)
  | alog (op : LogOp) (d a b : SReg) (w : Bool)
  | aminmax (d a b : SReg) (max u w : Bool)
  | afadd (d a b : SReg) (bf16 : Bool)
  | fence (s : Scope)
  | waitm
  | ldgv (d : VReg) (a : SReg) (b : VReg) (sz : GatherSize) (sh : BitVec 3)
  | stsv (d : VReg) (a : SReg) (b : VReg) (sz : GatherSize) (sh : BitVec 3)
  | febit (a b : SReg) (full : Bool)
  | sigw (d a b : SReg) (c : Cond)
  -- V slot (R154 to R194).
  | vadd (t : FpTy) (d a b : VReg) (m : Rmo)
  | vsub (t : FpTy) (d a b : VReg) (m : Rmo)
  | vmul (t : FpTy) (d a b : VReg) (m : Rmo)
  | vfma (t : FpTy) (d a b c : VReg)
  | vfms (t : FpTy) (d a b c : VReg)
  | vmin (t : FpTy) (d a b : VReg)
  | vmax (t : FpTy) (d a b : VReg)
  | vabsn (op : AbsOp) (t : FpTy) (d a : VReg)
  | viadd (t : IntTy) (s : SatMode) (d a b : VReg)
  | visub (t : IntTy) (s : SatMode) (d a b : VReg)
  | vimul (t : IntTy) (h : HiMode) (d a b : VReg)
  | vimad (t : IntTy) (d a b c : VReg)
  | vand (d a b : VReg) (inv : Bool)
  | vor (d a b : VReg) (inv : Bool)
  | vxor (d a b : VReg) (inv : Bool)
  | vshl (t : IntTy) (d a : VReg) (n : ShiftAmt)
  | vshr (t : IntTy) (d a : VReg) (n : ShiftAmt)
  | vsar (t : IntTy) (d a : VReg) (n : ShiftAmt)
  | vcmp (c : FCond) (t : FpTy) (d a b : VReg)
  | vicmp (c : Cond) (t : IntTy) (d a b : VReg)
  | vsel (d a b c : VReg)
  | vpermb (d a b : VReg) (upper hi : Bool)
  | vshuf (d a b c : VReg)
  | vslide (t : IntTy) (d a b : VReg) (n : BitVec 6)
  | vbcast (t : IntTy) (d : VReg) (src : BcastSrc)
  | vext (t : IntTy) (d : SReg) (a : VReg) (i : LaneSel)
  | vins (t : IntTy) (d : VReg) (a : SReg) (i : LaneSel)
  | vred (op : RedOp) (t : RedTy) (d : RedDest) (a : VReg)
  | vsfu (fn : SfuFn) (t : FpTy) (d a : VReg)
  | vcvt (t : FpTy) (other : Fmt) (into : Bool) (pos : BitVec 2) (sat : Bool) (m : Rmo) (d a : VReg)
  | vcvti (t : FpTy) (toFp u : Bool) (m : Rmo) (d a : VReg)
  | vqmx (f : Fmt) (sf : ScaleFmt) (r : QRnd) (d a : VReg) (c : SReg)
  | vdqmx (t : FpTy) (f : Fmt) (sf : ScaleFmt) (pos : BitVec 2) (d a : VReg) (c : SReg)
  | vcmpr (k : CmprKind) (pos : Bool) (d a : VReg) (c : SReg)
  | vpack (w4 : Bool) (d a : VReg)
  | vunpk (w4 : Bool) (d a : VReg)
  | vrng (unif : Bool) (d : VReg)
  | vdot (f : DotTy) (d a b c : VReg)
  | vbitc (k : BitKind) (t : IntTy) (d a : VReg)
  | vsatn (t : NarrowTy) (m : NarrowMode) (d a b : VReg)
  | vmaskq (t : IntTy) (d : MaskDest) (a : VReg)
  | viota (t : IntTy) (d : VReg) (a b : SReg)
  | vscl (t : FpTy) (sf : ScaleFmt) (pair : Bool) (m : Rmo) (d a : VReg) (c : SReg)
  -- M slot (R202).
  | mma (m : Acc) (t : Tiles) (st : Start)
  | mmas (m : Acc) (t : Tiles) (st : Start)
  | mmaz (m : Acc) (t : Tiles) (st : Start)
  | mclr (m : Acc) (st : Start)
  | mrd (m : Acc) (a b : SReg) (q : BitVec 2) (clr : Bool) (out : MemFmt) (st : Start)
  | mwr (m : Acc) (a b : SReg) (q : BitVec 2) (addTo : Bool) (inp : MemFmt) (st : Start)
  | mrdv (m : Acc) (a : SReg) (v : BitVec 5) (st : Start)
  | mscl (m : Acc) (a : SReg) (row : Bool) (st : Start)
  | mtrn (m : Acc) (st : Start)
  | mseq (m : Acc) (t : Tiles) (z : Bool) (n : BitVec 4) (st : Start)
  | msync
  -- N slot (R214, R250, R262).
  | cpyi (a b c : SReg) (p : Bool) (e : Eng)
  | cpyo (a b c : SReg) (p : Bool) (e : Eng)
  | cpyl (a b c : SReg) (e : Eng)
  | foot (a b : SReg) (wr : Bool)
  | twait (a : SReg)
  | tany (a b : SReg)
  | tffr (a b : SReg)
  | tclr (a : SReg)
  | tsnd (a : SReg) (ch : BitVec 8) (st : Start)
  | trcv (a : SReg) (ch : BitVec 8) (tag : Option (BitVec 6)) (st : Start)
  | esnd (a b c : SReg) (mb : BitVec 7) (wake : Bool) (tag : BitVec 6) (st : Start)
  | ercv (a b : SReg) (mb : BitVec 7)
  | bari (a : SReg) (bar : BitVec 5)
  | barw (a : SReg) (bar : BitVec 5)
  | bara (b : SReg) (bar : BitVec 5) (wait : Bool)
  | spawn (a b c : SReg)
  | quit
  | fork (a : SReg)
  | join (a : SReg)
  | popd (q : PReg)
  | steal (a : SReg) (q : PReg)
  | rpsh (a c : SReg) (ring : BitVec 5)
  | rpop (a b c : SReg) (ring : BitVec 5)
  | sdldCell (a b c : SReg) (e : Eng)
  | sdldCoup (a b : SReg) (e : Eng)
  | sdldBridge (a b : SReg) (e : Eng)
  | sdldClear (e : Eng)
  | sdclpClamp (a b c : SReg) (e : Eng)
  | sdclpRelease (a b c : SReg) (e : Eng)
  | sdclpSet (a b c : SReg) (e : Eng)
  | sdswp (a b : SReg) (ent br : Bool) (e : Eng)
  | sdrd (a b c : SReg) (clp : Bool) (e : Eng)
  | sdcnt (a b c : SReg) (clr : Bool) (e : Eng)
  | sdseed (a : SReg) (e : Eng)
  | sdseedStore (a : SReg) (e : Eng)
  | sdtbl (a : SReg) (e : Eng)
  | sdbeta (a b : SReg) (e : Eng)
  | sigs (a b : SReg) (op : SigOp) (e : Eng)
  | swait (a b c : SReg) (cond : Cond)
  | codel (a b : SReg) (e : Eng)
  | codei (a b : SReg)
  | bankr (a : SReg)
  | bankw (a : SReg)
  | lsnd (a c : SReg) (e : Eng)
  | lrcv (a c : SReg) (e : Eng)
  | lred (a c : SReg) (e : Eng)
  | hnfy (a b : SReg) (e : Eng)
  | movc (a b c : SReg) (e : Eng)
  | tide (a : SReg) (e : Eng)
  | tideRetide (a : SReg)
  | rdyqPush (a c : SReg) (p : BitVec 2)
  | rdyqPushh (a c : SReg) (p : BitVec 2)
  | rdyqPop (b c : SReg)
  | rdyqCount (b : SReg)
  | rdyqSpill (a c : SReg)
  | rdyqRefill (b : SReg)
  | rdyqFlush (c : SReg) (p : BitVec 2)
  | rdyqRpst (b : SReg)
  -- Emonef only (R420).
  | send (a : SReg) (ch : BitVec 8)
  | recv (a : SReg) (ch : BitVec 8)
  -- Events of a core's accesses and waits (R134 to R147, R234).
  | relaxedAccessPerform (core ctx id : Nat)
  | remoteAccessPerform (pkt : Nat)
  | remoteResponseArrival (pkt : Nat)
  | retryResend (pkt : Nat)
  | watchSlotRetest (core slot : Nat)
  | localRetry (core ctx : Nat)
  | felimExpiry (core ctx : Nat)
  | rpopLimitExpiry (core ctx : Nat)
  -- Matrix unit (R195 to R212).
  | matrixQueueEnter (core ctx : Nat)
  | matrixCommandStart (core cmd : Nat)
  | matrixStartRefused (core cmd : Nat)
  | mseqStepStart (core cmd : Nat)
  | matrixCommandComplete (core cmd : Nat)
  -- Engines and copies (R216, R323, R343 to R348).
  | engineQueueEnter (core ctx : Nat)
  | engineCommandStart (core cmd : Nat)
  | engineStartRefused (core cmd : Nat)
  | copyServiceRequest (copy : Nat)
  | copyTranslate (quay : Nat)
  | translationWalk (id : Nat)
  | pieceServe (quay : Nat)
  | stagingWriteback (quay : Nat)
  | channelPairRound (quay : Nat)
  | copyWordWrite (copy : Nat)
  | copyComplete (copy : Nat)
  | copyFault (copy : Nat)
  -- Networks (R228 to R237, R362, R371).
  | tidalFlitHop (core : Nat)
  | tidalFlitDelivery (core : Nat)
  | strayFlitDiscard (core input : Nat)
  | esndMessageArrival (pkt : Nat)
  | ercvDelivery (core ctx : Nat)
  | barrierRequest (pkt : Nat)
  | ringRemoteOp (pkt : Nat)
  | signalWordPerform (core cmd : Nat)
  | linkFlitSend (port : Nat)
  | linkFlitArrival (port ch : Nat) (data : List (BitVec 8))
  | linkCreditReturn (port ch : Nat)
  | bankHandover (core : Nat)
  | stealRequest (pkt : Nat)
  | stealResponse (pkt : Nat)
  | spawnRequest (pkt : Nat)
  | remoteJoin (pkt : Nat)
  -- Contexts and traps (R23, R266 to R288, R327, R328).
  | swapComplete (core ctx : Nat)
  | resumeComplete (core entry : Nat)
  | movcComplete (core cmd : Nat)
  | haltDrainComplete (core ctx : Nat)
  | workerTrapTaken (core ctx : Nat)
  | c0TrapEntry (core : Nat)
  | c0TrapToLighthouse (core : Nat)
  | c0TimerExpiry (core : Nat)
  | uncorrectableLsError (core ctx addr : Nat)
  | retideInstant (core : Nat)
  | codelLineWrite (copy : Nat)
  -- Spindrift (R245, R249, R252).
  | sdldRecordApply (cove : Nat)
  | spindriftSweep (cove : Nat)
  | spindriftCommandComplete (cove cmd : Nat)
  | migrationStateCopy (core : Nat)
  -- Launches (R307 to R319, R386, R393).
  | launchPacket (q : Nat)
  | launchResourceGrant (launch : Nat)
  | hnfyNoticeAccept (pkt : Nat)
  | launchLatchWrite (launch : Nat)
  | launchDeadlineExpiry (launch : Nat)
  | launchInstant (launch : Nat)
  | slackWaterSample
  -- Queue packets and the Ebb wheel (R392, R404).
  | barrierAnd (q : Nat)
  | barrierAndRecheck
  | signalPacket (q : Nat)
  | armPacket (q : Nat)
  | disarmPacket (q : Nat)
  | resetqPacket (q : Nat)
  | ebbWheelTick
  -- Peers (R374, R396).
  | queueNotify (port off : Nat) (data : List (BitVec 8))
  | peerWrite (port : Nat) (addr : BitVec 64) (data : List (BitVec 8))
  | peerRead (port : Nat) (addr : BitVec 64) (bytes : Nat)
  -- The hub control space (R383 to R402).
  | queueCreate (q : Nat)
  | queueReset (q : Nat)
  | resetAcknowledge (q core : Nat)
  | queueDestroy (q : Nat)
  | wridxWrite (q : Nat) (v : BitVec 32)
  | queueKeyWrite (q i : Nat) (v : BitVec 64)
  | coreControlRestartEpc (mode : HartMode) (core : Nat)
  | coreControlRestartData (mode : HartMode) (core : Nat)
  | coreControlSetDeleg (mode : HartMode) (core : Nat)
  | coreControlMigration (mode : HartMode) (core : Nat)
  | shootdownGo
  | shootdownComplete
  | hubRegisterWrite (mode : HartMode) (off : Nat) (v : BitVec 64)
  | dieParkRequest (park : BitVec 4)
  | diePark (die : Nat)
  | dieUnpark (die : Nat)
  | clockStepRequest (next : BitVec 2)
  -- Watches, bring-up, links, temperature (R370, R373, R381, R405, R432 to R434).
  | heartbeat (hart : Nat) (v : BitVec 64)
  | watchFailure (watch : Nat)
  | packageReset
  | watchBoot (watch : Nat) (slot0 slot1 : List (BitVec 8))
  | linkTraining (k : Nat) (lats : List (BitVec 12)) (align : Option Nat)
  | linkFailure (k : Nat)
  | thermalSample (temps : List (Nat × BitVec 8))
  | degradedCoreDetect (core : Nat)
  -- Identity, debug, lifecycle (R382, R426, R427).
  | attestationReport (nonce : List (BitVec 8))
  | debugToken (token : List (BitVec 8))
  | ownerKeyFuse (hash : List (BitVec 8))
  | tenantLock
  | tenantUnlock
  -- Errors, logs, replay, harts and the management port (R337 to R339, R360, R378, R379, R399, R428).
  | cliffstackScrub (pa : Nat)
  | logDrain (core : Nat)
  | hubSnapshot (core : Nat)
  | replayReceive (core : Nat)
  | mtimecmpMatch (hart : Nat)
  | lighthouseLoadStore (hart : Nat) (mode : HartMode) (pa : Nat) (op : HartOp)
  | portAccess (core : Nat) (op : PortOp)
  | queueError (q : Nat) (err : BitVec 8)
  deriving DecidableEq, Repr

end Sys2Proof
end

