-- ==== Sys2Proof/WellFormed.lean ====
section
/-! DEFINITION. Which operations an encoding can hold: the limits of the rules that the field types of Instr do not already state (R51, R54, R99, R105, R107, R109, R118, R143, R162, R169 to R174, R182, R183, R187, R190, R198, R202). An operation that is not well formed is what a reserved encoding would say; it traps 0x03 at decode step 6. -/
namespace Sys2Proof

/-- Lane width in bits (R152). -/
def IntTy.width : IntTy → Nat
  | .i32 => 32 | .i16 => 16 | .i8 => 8 | .i64 => 64
/-- Lane count of a 256-bit register (R152). -/
def IntTy.lanes (t : IntTy) : Nat := 256 / t.width
/-- Width of a wide floating-point type (R70). -/
def FpTy.width : FpTy → Nat
  | .f32 => 32 | .bf16 => 16 | .f16 => 16
/-- Lane count of a 256-bit register (R152). -/
def FpTy.lanes (t : FpTy) : Nat := 256 / t.width
/-- Width of a narrowed lane (R165). -/
def NarrowTy.width : NarrowTy → Nat
  | .i32 => 32 | .i16 => 16 | .i8 => 8
/-- An element format of 8 bits or fewer: codes 0 to 5 (R49). -/
def Fmt.isElem : Fmt → Bool
  | .bf16 => false | .fp16 => false | _ => true
/-- Element width in bits (R199). -/
def Fmt.width : Fmt → Nat
  | .e4m3 => 8 | .e5m2 => 8 | .mxint8 => 8 | .e3m2 => 6 | .e2m3 => 6 | .e2m1 => 4 | .bf16 => 16 | .fp16 => 16
/-- The numbers of the special-register table (R20). -/
def sprListed (n : BitVec 6) : Bool :=
  n.toNat ∈ [0x00, 0x01, 0x02, 0x03, 0x04, 0x08, 0x09, 0x0A, 0x10, 0x11, 0x12, 0x13, 0x14, 0x15, 0x16, 0x18, 0x19,
    0x1A, 0x1C, 0x1D, 0x20, 0x21, 0x28]
/-- The registers whose MTS depends on the context that issues it, and that have no row of their own: TIMER (0x15) and XVAL (0x21) do (R20). DELEG (0x14) is RO to C0 and closed to a worker, so its trap is made at issue. -/
def sprWritable (n : BitVec 6) : Bool :=
  n.toNat ∈ [0x08, 0x09, 0x0A, 0x10, 0x11, 0x12, 0x13, 0x14, 0x16, 0x1C, 0x20, 0x28]
/-- The rows of the format table of R198: K, or none for a pair outside it. -/
def pairK (a b : Fmt) : Option Nat :=
  match a, b with
  | .bf16, .bf16 => some 16
  | .fp16, .fp16 => some 16
  | .mxint8, .mxint8 => some 32
  | _, _ =>
    let small (f : Fmt) : Bool := f == .e3m2 || f == .e2m3 || f == .e2m1
    let fp8 (f : Fmt) : Bool := f == .e4m3 || f == .e5m2
    if small a && small b then some 64
    else if (small a || fp8 a) && (small b || fp8 b) then some 32
    else none

/-- With F = 0 the OFFSET must be zero (R51). -/
def Start.wf (s : Start) : Bool := s.f || s.off == 0
/-- The start of an engine command (R51). -/
def Eng.wf (e : Eng) : Bool := e.start.wf
/-- The format pair is one of R198's; pairs 6 and 7 name no scale (R202). -/
def Tiles.wf (t : Tiles) : Bool :=
  (pairK t.fa t.fb).isSome && (t.fa.isElem || (t.s == 0 && t.sf == .e8m0))
/-- The format that a wide type is called by in VCVT's OTHER field (R183). -/
def FpTy.asFmt : FpTy → Option Fmt
  | .f32 => none | .bf16 => some .bf16 | .f16 => some .fp16
/-- Units of a register for an OTHER format: byte containers or 16-bit lanes (R182). -/
def Fmt.units (f : Fmt) : Nat := if f.isElem then 32 else 16
/-- A VCVT pair that R90 makes exact (R183). -/
def vcvtExact (t : FpTy) (other : Fmt) (into : Bool) : Bool :=
  into && !(t == .bf16 && other == .fp16)
/-- VCVT's field limits (R182, R183). `into` is DIR = 1, OTHER to T. -/
def vcvtWf (t : FpTy) (other : Fmt) (into : Bool) (pos : BitVec 2) (sat : Bool) (m : Rmo) : Bool :=
  t.asFmt != some other
  && !(t == .f16 && other == .bf16)
  && ((pos.toNat + 1) * t.lanes ≤ other.units)
  && (!sat || (!into && (other == .e4m3 || other == .e5m2)))
  && (!vcvtExact t other into || m == .fcr)

/-- A float type of FCVT (R118). -/
def CvtTy.isFp : CvtTy → Bool
  | .f32 => true | .bf16 => true | .f16 => true | _ => false

/-- Whether an operation is one that an encoding can hold. Events are always well formed: their operands name objects of State, which the event looks up. -/
def Instr.wf : Instr → Bool
  | .shi _ _ _ w amt => !w || amt.toNat < 32
  | .bfx _ _ _ wm1 pos => pos.toNat + wm1.toNat + 1 ≤ 64
  | .bfi _ _ wm1 pos => pos.toNat + wm1.toNat + 1 ≤ 64
  | .adda _ _ _ s => s.toNat ≤ 5
  | .mfs _ n => sprListed n
  | .mts n _ => sprWritable n
  | .fop op _ _ _ b => op != .sqrt || b == 0
  | .fcvt s d _ _ _ => s != d && (s.isFp || d.isFp)
  | .ldgv _ _ _ _ sh => sh.toNat ≤ 4
  | .stsv _ _ _ _ sh => sh.toNat ≤ 4
  | .vshl t _ _ (.imm n) => n.toNat < t.width
  | .vshr t _ _ (.imm n) => n.toNat < t.width
  | .vsar t _ _ (.imm n) => n.toNat < t.width
  | .vslide t _ _ _ n => n.toNat ≤ t.lanes
  | .vbcast t _ (.lane _ i) => i.toNat < t.lanes
  | .vext t _ _ (.imm i) => i.toNat < t.lanes
  | .vins t _ _ (.imm i) => i.toNat < t.lanes
  | .vred .add (.int _ u) _ _ => !u
  | .vcvt t o i p s m _ _ => vcvtWf t o i p s m
  | .vqmx f _ _ _ a _ => f.isElem && (a.extractLsb' 0 5).toNat ≤ 28
  | .vdqmx t f _ pos _ _ _ => f.isElem && ((pos.toNat + 1) * t.lanes ≤ 32)
  | .mma _ t st => t.wf && st.wf
  | .mmas _ t st => t.wf && t.fa.isElem && st.wf
  | .mmaz _ t st => t.wf && st.wf
  | .mclr _ st => st.wf
  | .mrd _ _ _ _ _ _ st => st.wf
  | .mwr _ _ _ _ _ _ st => st.wf
  | .mrdv _ _ _ st => st.wf
  | .mscl _ _ _ st => st.wf
  | .mtrn _ st => st.wf
  | .mseq _ t _ _ st => t.wf && st.wf
  | .cpyi _ _ _ _ e => e.wf
  | .cpyo _ _ _ _ e => e.wf
  | .cpyl _ _ _ e => e.wf
  | .tsnd _ _ st => st.wf
  | .trcv _ _ _ st => st.wf
  | .esnd _ _ _ _ _ _ st => st.wf
  | .sdldCell _ _ _ e => e.wf
  | .sdldCoup _ _ e => e.wf
  | .sdldBridge _ _ e => e.wf
  | .sdldClear e => e.wf
  | .sdclpClamp _ _ _ e => e.wf
  | .sdclpRelease _ _ _ e => e.wf
  | .sdclpSet _ _ _ e => e.wf
  | .sdswp _ _ _ _ e => e.wf
  | .sdrd _ _ _ _ e => e.wf
  | .sdcnt _ _ _ _ e => e.wf
  | .sdseed _ e => e.wf
  | .sdseedStore _ e => e.wf
  | .sdtbl _ e => e.wf
  | .sdbeta _ _ e => e.wf
  | .sigs _ _ _ e => e.wf
  | .codel _ _ e => e.wf
  | .lsnd _ _ e => e.wf
  | .lrcv _ _ e => e.wf
  | .lred _ _ e => e.wf
  | .hnfy _ _ e => e.wf
  | .movc _ _ _ e => e.wf
  | .tide _ e => e.wf
  | _ => true

end Sys2Proof
end

