-- ==== Sys2Proof/Decode.lean ====
section
/-! DEFINITION. Bundles and their decoding (spec/02_bundles_and_opcode_map.md R39 to R61) and the encoder written from the same tables. Decoding is total on any bytes and refuses by name: `truncated`, `badHeader`, `badOpcode`, `reserved`. -/
namespace Sys2Proof

/-! ## Modifier codes -/

/-- The code of R100. -/
def MulSign.code : MulSign → Nat
  | .ss => 0 | .nn => 1 | .sn => 2
/-- The value a code names, if any (R100). -/
def MulSign.ofCode : Nat → Option MulSign
  | 0 => some .ss | 1 => some .nn | 2 => some .sn | _ => none
/-- The code of R102. -/
def Cond.code : Cond → Nat
  | .eq => 0 | .ne => 1 | .lt => 2 | .ge => 3 | .ltu => 4 | .geu => 5 | .tst => 6 | .ntst => 7
/-- The value a code names, if any (R102). -/
def Cond.ofCode : Nat → Option Cond
  | 0 => some .eq | 1 => some .ne | 2 => some .lt | 3 => some .ge | 4 => some .ltu | 5 => some .geu | 6 => some .tst | 7 => some .ntst | _ => none
/-- The code of R105. -/
def ShiftKind.code : ShiftKind → Nat
  | .sll => 0 | .srl => 1 | .sra => 2 | .ror => 3
/-- The value a code names, if any (R105). -/
def ShiftKind.ofCode : Nat → Option ShiftKind
  | 0 => some .sll | 1 => some .srl | 2 => some .sra | 3 => some .ror | _ => none
/-- The code of R108. -/
def BitKind.code : BitKind → Nat
  | .pop => 0 | .clz => 1 | .ctz => 2
/-- The value a code names, if any (R108). -/
def BitKind.ofCode : Nat → Option BitKind
  | 0 => some .pop | 1 => some .clz | 2 => some .ctz | _ => none
/-- The code of R48. -/
def FpTy.code : FpTy → Nat
  | .f32 => 0 | .bf16 => 1 | .f16 => 2
/-- The value a code names, if any (R48). -/
def FpTy.ofCode : Nat → Option FpTy
  | 0 => some .f32 | 1 => some .bf16 | 2 => some .f16 | _ => none
/-- The code of R48. -/
def IntTy.code : IntTy → Nat
  | .i32 => 0 | .i16 => 1 | .i8 => 2 | .i64 => 3
/-- The value a code names, if any (R48). -/
def IntTy.ofCode : Nat → Option IntTy
  | 0 => some .i32 | 1 => some .i16 | 2 => some .i8 | 3 => some .i64 | _ => none
/-- The code of R114. -/
def FopKind.code : FopKind → Nat
  | .add => 0 | .sub => 1 | .mul => 2 | .div => 3 | .sqrt => 4 | .min => 5 | .max => 6
/-- The value a code names, if any (R114). -/
def FopKind.ofCode : Nat → Option FopKind
  | 0 => some .add | 1 => some .sub | 2 => some .mul | 3 => some .div | 4 => some .sqrt | 5 => some .min | 6 => some .max | _ => none
/-- The code of R116. -/
def FmaForm.code : FmaForm → Nat
  | .ma => 0 | .ms => 1 | .nma => 2 | .nms => 3
/-- The value a code names, if any (R116). -/
def FmaForm.ofCode : Nat → Option FmaForm
  | 0 => some .ma | 1 => some .ms | 2 => some .nma | 3 => some .nms | _ => none
/-- The code of R117. -/
def FCond.code : FCond → Nat
  | .eq => 0 | .ne => 1 | .lt => 2 | .le => 3 | .un => 4
/-- The value a code names, if any (R117). -/
def FCond.ofCode : Nat → Option FCond
  | 0 => some .eq | 1 => some .ne | 2 => some .lt | 3 => some .le | 4 => some .un | _ => none
/-- The code of R118. -/
def CvtTy.code : CvtTy → Nat
  | .f32 => 0 | .bf16 => 1 | .f16 => 2 | .s32 => 3 | .n32 => 4 | .s64 => 5 | .n64 => 6
/-- The value a code names, if any (R118). -/
def CvtTy.ofCode : Nat → Option CvtTy
  | 0 => some .f32 | 1 => some .bf16 | 2 => some .f16 | 3 => some .s32 | 4 => some .n32 | 5 => some .s64 | 6 => some .n64 | _ => none
/-- The code of R118. -/
def CvtMode.code : CvtMode → Nat
  | .fcr => 0 | .rtz => 1 | .rne => 2
/-- The value a code names, if any (R118). -/
def CvtMode.ofCode : Nat → Option CvtMode
  | 0 => some .fcr | 1 => some .rtz | 2 => some .rne | _ => none
/-- The code of R150. -/
def LogOp.code : LogOp → Nat
  | .and => 0 | .or => 1 | .xor => 2
/-- The value a code names, if any (R150). -/
def LogOp.ofCode : Nat → Option LogOp
  | 0 => some .and | 1 => some .or | 2 => some .xor | _ => none
/-- The code of R139. -/
def Scope.code : Scope → Nat
  | .ctx => 0 | .core => 1 | .shore => 2 | .die => 3 | .pkg => 4 | .sys => 5
/-- The value a code names, if any (R139). -/
def Scope.ofCode : Nat → Option Scope
  | 0 => some .ctx | 1 => some .core | 2 => some .shore | 3 => some .die | 4 => some .pkg | 5 => some .sys | _ => none
/-- The code of R143. -/
def GatherSize.code : GatherSize → Nat
  | .n32 => 0 | .n64 => 1 | .n16 => 2
/-- The value a code names, if any (R143). -/
def GatherSize.ofCode : Nat → Option GatherSize
  | 0 => some .n32 | 1 => some .n64 | 2 => some .n16 | _ => none
/-- The code of R156. -/
def Rmo.code : Rmo → Nat
  | .fcr => 0 | .rne => 1 | .rtz => 2 | .rdn => 3 | .rup => 4 | .sr => 5
/-- The value a code names, if any (R156). -/
def Rmo.ofCode : Nat → Option Rmo
  | 0 => some .fcr | 1 => some .rne | 2 => some .rtz | 3 => some .rdn | 4 => some .rup | 5 => some .sr | _ => none
/-- The code of R157. -/
def AbsOp.code : AbsOp → Nat
  | .abs => 0 | .neg => 1 | .nabs => 2
/-- The value a code names, if any (R157). -/
def AbsOp.ofCode : Nat → Option AbsOp
  | 0 => some .abs | 1 => some .neg | 2 => some .nabs | _ => none
/-- The code of R159. -/
def SatMode.code : SatMode → Nat
  | .wrap => 0 | .signed => 1 | .natural => 3
/-- The value a code names, if any (R159). -/
def SatMode.ofCode : Nat → Option SatMode
  | 0 => some .wrap | 1 => some .signed | 3 => some .natural | _ => none
/-- The code of R160. -/
def HiMode.code : HiMode → Nat
  | .low => 0 | .hiSigned => 1 | .hiNatural => 2
/-- The value a code names, if any (R160). -/
def HiMode.ofCode : Nat → Option HiMode
  | 0 => some .low | 1 => some .hiSigned | 2 => some .hiNatural | _ => none
/-- The code of R165. -/
def NarrowMode.code : NarrowMode → Nat
  | .signed => 0 | .signedToNatural => 1 | .natural => 2
/-- The value a code names, if any (R165). -/
def NarrowMode.ofCode : Nat → Option NarrowMode
  | 0 => some .signed | 1 => some .signedToNatural | 2 => some .natural | _ => none
/-- The code of R165. -/
def NarrowTy.code : NarrowTy → Nat
  | .i32 => 0 | .i16 => 1 | .i8 => 2
/-- The value a code names, if any (R165). -/
def NarrowTy.ofCode : Nat → Option NarrowTy
  | 0 => some .i32 | 1 => some .i16 | 2 => some .i8 | _ => none
/-- The code of R174. -/
def RedOp.code : RedOp → Nat
  | .add => 0 | .min => 1 | .max => 2
/-- The value a code names, if any (R174). -/
def RedOp.ofCode : Nat → Option RedOp
  | 0 => some .add | 1 => some .min | 2 => some .max | _ => none
/-- The code of R176. -/
def SfuFn.code : SfuFn → Nat
  | .exp2 => 0 | .log2 => 1 | .rcp => 2 | .rsqrt => 3 | .sigmoid => 4 | .tanh => 5
/-- The value a code names, if any (R176). -/
def SfuFn.ofCode : Nat → Option SfuFn
  | 0 => some .exp2 | 1 => some .log2 | 2 => some .rcp | 3 => some .rsqrt | 4 => some .sigmoid | 5 => some .tanh | _ => none
/-- The code of R175. -/
def DotTy.code : DotTy → Nat
  | .e4m3 => 0 | .e5m2 => 1 | .mixed => 2 | .mxint8 => 3
/-- The value a code names, if any (R175). -/
def DotTy.ofCode : Nat → Option DotTy
  | 0 => some .e4m3 | 1 => some .e5m2 | 2 => some .mixed | 3 => some .mxint8 | _ => none
/-- The code of R49. -/
def Fmt.code : Fmt → Nat
  | .e4m3 => 0 | .e5m2 => 1 | .e3m2 => 2 | .e2m3 => 3 | .e2m1 => 4 | .mxint8 => 5 | .bf16 => 6 | .fp16 => 7
/-- The value a code names, if any (R49). -/
def Fmt.ofCode : Nat → Option Fmt
  | 0 => some .e4m3 | 1 => some .e5m2 | 2 => some .e3m2 | 3 => some .e2m3 | 4 => some .e2m1 | 5 => some .mxint8 | 6 => some .bf16 | 7 => some .fp16 | _ => none
/-- The code of R49. -/
def ScaleFmt.code : ScaleFmt → Nat
  | .e8m0 => 0 | .e8m12 => 1
/-- The value a code names, if any (R49). -/
def ScaleFmt.ofCode : Nat → Option ScaleFmt
  | 0 => some .e8m0 | 1 => some .e8m12 | _ => none
/-- The code of R187. -/
def QRnd.code : QRnd → Nat
  | .fcr => 0 | .rne => 1 | .sr => 2
/-- The value a code names, if any (R187). -/
def QRnd.ofCode : Nat → Option QRnd
  | 0 => some .fcr | 1 => some .rne | 2 => some .sr | _ => none
/-- The code of R202. -/
def MemFmt.code : MemFmt → Nat
  | .f32 => 0 | .bf16 => 1 | .f16 => 2
/-- The value a code names, if any (R202). -/
def MemFmt.ofCode : Nat → Option MemFmt
  | 0 => some .f32 | 1 => some .bf16 | 2 => some .f16 | _ => none
/-- The code of R235. -/
def SigOp.code : SigOp → Nat
  | .set => 0 | .add => 1 | .max => 2
/-- The value a code names, if any (R235). -/
def SigOp.ofCode : Nat → Option SigOp
  | 0 => some .set | 1 => some .add | 2 => some .max | _ => none

/-- A kind of VCMPR (R192): codes 0 to 7 of R49, then 8 FP32. -/
def CmprKind.code : CmprKind → Nat
  | .fmt f => f.code | .f32 => 8
/-- The kind a code names (R192). -/
def CmprKind.ofCode (n : Nat) : Option CmprKind :=
  if n = 8 then some .f32 else (Fmt.ofCode n).map .fmt

/-! ## Fields of words (R47 to R50) -/

/-- Opcode, [31:26] of every word 0. -/
def fOp (w : Word) : BitVec 6 := w.extractLsb' 26 6
/-- d of S and L words, a of N words, [25:20]. -/
def fD (w : Word) : BitVec 6 := w.extractLsb' 20 6
/-- a of S and L words, b of N words, [19:14]. -/
def fA (w : Word) : BitVec 6 := w.extractLsb' 14 6
/-- b of S and L words, c of N words, [13:8]. -/
def fB (w : Word) : BitVec 6 := w.extractLsb' 8 6
/-- The modifier of RRR, IMM8 of N words, [7:0]. -/
def fMod (w : Word) : BitVec 8 := w.extractLsb' 0 8
/-- imm14 of RRI. -/
def fImm14 (w : Word) : BitVec 14 := w.extractLsb' 0 14
/-- imm20 of RI. -/
def fImm20 (w : Word) : BitVec 20 := w.extractLsb' 0 20
/-- The type field of V words, [25:24]. -/
def vTy (w : Word) : BitVec 2 := w.extractLsb' 24 2
/-- d of V words. -/
def vD (w : Word) : BitVec 6 := w.extractLsb' 18 6
/-- a of V words. -/
def vA (w : Word) : BitVec 6 := w.extractLsb' 12 6
/-- b of V words. -/
def vB (w : Word) : BitVec 6 := w.extractLsb' 6 6
/-- c of V words. -/
def vC (w : Word) : BitVec 6 := w.extractLsb' 0 6
/-- ACC of M words. -/
def mAcc (w : Word) : BitVec 3 := w.extractLsb' 23 3
/-- FMTA of M words. -/
def mFa (w : Word) : BitVec 3 := w.extractLsb' 20 3
/-- FMTB of M words. -/
def mFb (w : Word) : BitVec 3 := w.extractLsb' 17 3
/-- AREG of M words. -/
def mA (w : Word) : BitVec 6 := w.extractLsb' 11 6
/-- BREG of M words. -/
def mB (w : Word) : BitVec 6 := w.extractLsb' 5 6
/-- MOD of M words. -/
def mMod (w : Word) : BitVec 5 := w.extractLsb' 0 5
/-- F of word 1. -/
def w1F (w : Word) : Bool := w.getLsbD 31
/-- SREG of an M word 1. -/
def m1S (w : Word) : BitVec 6 := w.extractLsb' 25 6
/-- SFMT of an M word 1. -/
def m1Sf (w : Word) : BitVec 1 := w.extractLsb' 24 1
/-- IMM7 of an N word 1. -/
def n1Imm7 (w : Word) : BitVec 7 := w.extractLsb' 24 7
/-- OFFSET of word 1. -/
def w1Off (w : Word) : BitVec 24 := w.extractLsb' 0 24
/-- The start that word 1 holds (R51). -/
def w1Start (w : Word) : Start := ⟨w1F w, w1Off w⟩
/-- A bit as a one-bit field. -/
def bit (b : Bool) : BitVec 1 := BitVec.ofBool b

/-- An RRR word (R47). -/
def encRRR (op : Nat) (d a b : BitVec 6) (m : BitVec 8) : Word := BitVec.ofNat 6 op ++ d ++ a ++ b ++ m
/-- An RRI word (R47). -/
def encRRI (op : Nat) (d a : BitVec 6) (imm : BitVec 14) : Word := BitVec.ofNat 6 op ++ d ++ a ++ imm
/-- An RI word (R47). -/
def encRI (op : Nat) (d : BitVec 6) (imm : BitVec 20) : Word := BitVec.ofNat 6 op ++ d ++ imm
/-- A V word (R48). -/
def encV (op ty : Nat) (d a b c : BitVec 6) : Word := BitVec.ofNat 6 op ++ BitVec.ofNat 2 ty ++ d ++ a ++ b ++ c
/-- Word 0 of an M operation (R49). -/
def encM0 (op : Nat) (acc : BitVec 3) (fa fb : Nat) (a b : BitVec 6) (m : BitVec 5) : Word :=
  BitVec.ofNat 6 op ++ acc ++ BitVec.ofNat 3 fa ++ BitVec.ofNat 3 fb ++ a ++ b ++ m
/-- Word 1 of an M operation (R49). -/
def encM1 (s : BitVec 6) (sf : Nat) (st : Start) : Word := bit st.f ++ s ++ BitVec.ofNat 1 sf ++ st.off
/-- Word 0 of an N operation (R50). -/
def encN0 (op : Nat) (a b c : BitVec 6) (imm : BitVec 8) : Word := BitVec.ofNat 6 op ++ a ++ b ++ c ++ imm
/-- Word 1 of an N operation (R50). -/
def encN1 (imm7 : BitVec 7) (st : Start) : Word := bit st.f ++ imm7 ++ st.off
/-- IMM7 of a dependency (R216). -/
def encDep : Option (BitVec 6) → BitVec 7
  | none => 0 | some t => (1 : BitVec 1) ++ t
/-- The dependency that IMM7 names; any other value with [6] = 0 is reserved (R216). -/
def decDep (i : BitVec 7) : Option (Option (BitVec 6)) :=
  if i.getLsbD 6 then some (some (i.extractLsb' 0 6)) else if i = 0 then some none else none
/-- A word without a start: F, IMM7 and OFFSET zero (R51). -/
def noStart (w1 : Word) : Bool := w1 == 0

/-- What decoding one operation answers. -/
inductive Decoded
  | ok (i : Instr)
  | badOpcode
  | reserved (word : Nat)
  deriving DecidableEq, Repr

/-- Keep a value only under a condition. -/
def keep {α : Type} (c : Bool) (x : α) : Option α := if c then some x else none

/-! ## S slot (R55) -/

/-- A loop's fields (R119): stride [13:7], LO [6], FO [5], LEN [4:0] of imm14, or of the modifier. -/
def decLoopLen (m : BitVec 7) : Bool × Bool × BitVec 5 := (m.getLsbD 6, m.getLsbD 5, m.extractLsb' 0 5)

/-- The operation of an S word, before the limits of Instr.wf. -/
def rawS (w : Word) : Option Instr :=
  let d := fD w; let a := fA w; let b := fB w; let m := fMod w; let i := fImm14 w; let i20 := fImm20 w
  let m0 := m.getLsbD 0; let m1 := m.getLsbD 1
  let q : PReg := d.extractLsb' 0 3
  let isQ : Bool := d.toNat < 8
  match (fOp w).toNat with
  | 0x01 => keep (m.toNat < 2) (.add d a b m0)
  | 0x02 => keep (m.toNat < 2) (.sub d a b m0)
  | 0x03 => keep (m == 0) (.and d a b)
  | 0x04 => keep (m == 0) (.or d a b)
  | 0x05 => keep (m == 0) (.xor d a b)
  | 0x06 => keep (m.toNat < 2) (.sll d a b m0)
  | 0x07 => keep (m.toNat < 2) (.srl d a b m0)
  | 0x08 => keep (m.toNat < 2) (.sra d a b m0)
  | 0x09 => keep (m.toNat < 2) (.mul d a b m0)
  | 0x0A => (MulSign.ofCode m.toNat).map (.mulh d a b)
  | 0x0B => keep (m.toNat < 4) (.div d a b m0 m1)
  | 0x0C => keep (m.toNat < 4) (.rem d a b m0 m1)
  | 0x0D => keep (m.toNat < 4) (.minmax d a b m0 m1)
  | 0x0E => if isQ then (Cond.ofCode m.toNat).map (.cmp q a b) else none
  | 0x0F => keep (m.toNat < 16) (.sel d a b (m.extractLsb' 0 3) (m.getLsbD 3))
  | 0x10 => some (.addi d a i)
  | 0x11 => some (.andi d a i)
  | 0x12 => some (.ori d a i)
  | 0x13 => some (.xori d a i)
  | 0x14 =>
    if i.extractLsb' 9 5 = 0 then
      (ShiftKind.ofCode (i.extractLsb' 6 2).toNat).map fun k => .shi d a k (i.getLsbD 8) (i.extractLsb' 0 6)
    else none
  | 0x15 => some (.lui d i20)
  | 0x16 => keep isQ (.cmpi q a i)
  | 0x17 => keep (!i.getLsbD 13) (.bfx d a (i.getLsbD 12) (i.extractLsb' 6 6) (i.extractLsb' 0 6))
  | 0x18 => keep (i.extractLsb' 12 2 == 0) (.bfi d a (i.extractLsb' 6 6) (i.extractLsb' 0 6))
  | 0x19 => if b = 0 then (BitKind.ofCode m.toNat).map (.bitc d a) else none
  | 0x1A => keep (m.toNat < 8) (.adda d a b (m.extractLsb' 0 3))
  | 0x1B => keep (d == 0) (.br i20)
  | 0x1C => some (.jal d i20)
  | 0x1D => some (.jalr d a i)
  | 0x1E => some (.loop d a (i.extractLsb' 7 7) (i.getLsbD 6) (i.getLsbD 5) (i.extractLsb' 0 5))
  | 0x1F => keep (!m.getLsbD 7) (.loopx d a b (m.getLsbD 6) (m.getLsbD 5) (m.extractLsb' 0 5))
  | 0x20 => keep (a == 0 && i.extractLsb' 6 8 == 0) (.mfs d (i.extractLsb' 0 6))
  | 0x21 =>
    let n := i.extractLsb' 0 6
    keep (d == 0 && i.extractLsb' 6 8 == 0)
      (if n = 0x15 then .timerWrite a else if n = 0x21 then .xvalWrite a else .mts n a)
  | 0x22 =>
    if m.extractLsb' 0 2 = 0 then
      match FopKind.ofCode (m.extractLsb' 4 4).toNat, FpTy.ofCode (m.extractLsb' 2 2).toNat with
      | some o, some t => some (.fop o t d a b)
      | _, _ => none
    else none
  | 0x23 =>
    if m.extractLsb' 0 2 = 0 && m.extractLsb' 6 2 = 0 then
      match FmaForm.ofCode (m.extractLsb' 4 2).toNat, FpTy.ofCode (m.extractLsb' 2 2).toNat with
      | some o, some t => some (.ffma o t d a b)
      | _, _ => none
    else none
  | 0x24 =>
    if m.extractLsb' 0 2 = 0 && isQ then
      match FCond.ofCode (m.extractLsb' 4 4).toNat, FpTy.ofCode (m.extractLsb' 2 2).toNat with
      | some o, some t => some (.fcmp o t q a b)
      | _, _ => none
    else none
  | 0x25 =>
    if b = 0 then
      match CvtTy.ofCode (m.extractLsb' 5 3).toNat, CvtTy.ofCode (m.extractLsb' 2 3).toNat,
          CvtMode.ofCode (m.extractLsb' 0 2).toNat with
      | some s, some t, some r => some (.fcvt s t r d a)
      | _, _, _ => none
    else none
  | 0x26 => keep (d == 0) (.trap i20)
  | 0x27 => keep (d == 0 && b == 0 && m.toNat < 2 && (m0 || a == 0)) (if m0 then .rettW a else .rett)
  | 0x28 => keep (d == 0 && a == 0 && b == 0 && m == 0) .halt
  | 0x29 => keep (d == 0 && a == 0 && b == 0 && m == 0) .phase
  | 0x2A => keep (d == 0 && m == 0) (.start a b)
  | 0x2B => keep (d == 0 && b == 0 && m == 0) (.stop a)
  | 0x2C => keep (m.toNat < 2) (.swap d a b m0)
  | 0x2D => keep (d == 0 && b == 0 && m == 0) (.resume a)
  | 0x2E =>
    match m.toNat with
    | 0 => keep (b == 0) (.migrArm d a)
    | 1 => keep (d == 0 && a == 0 && b == 0) .migrFreeze
    | 2 => keep (b == 0) (.migrCommit d a)
    | 3 => keep (d == 0 && a == 0 && b == 0) .migrAbort
    | _ => none
  | 0x2F => keep (d == 0) (.brk i20)
  | _ => none

/-- An allocated S opcode (R55, R60). -/
def sAllocated (w : Word) : Bool := 0x01 ≤ (fOp w).toNat && (fOp w).toNat ≤ 0x2F

/-! ## L slot (R56) -/

/-- The operation of an L word, before the limits of Instr.wf. -/
def rawL (w : Word) : Option Instr :=
  let d := fD w; let a := fA w; let b := fB w; let m := fMod w; let i := fImm14 w
  let m0 := m.getLsbD 0
  match (fOp w).toNat with
  | 0x01 => some (.ld8 d a i)
  | 0x02 => some (.ld8z d a i)
  | 0x03 => some (.ld16 d a i)
  | 0x04 => some (.ld16z d a i)
  | 0x05 => some (.ld32 d a i)
  | 0x06 => some (.ld32z d a i)
  | 0x07 => some (.ld64 d a i)
  | 0x08 => some (.st8 d a i)
  | 0x09 => some (.st16 d a i)
  | 0x0A => some (.st32 d a i)
  | 0x0B => some (.st64 d a i)
  | 0x0C => some (.ldv d a i)
  | 0x0D => some (.stv d a i)
  | 0x0E => keep (!m.getLsbD 7) (.ldbit d a b (m.getLsbD 6) (m.extractLsb' 0 6))
  | 0x0F => keep (m.toNat < 64) (.stbit d a b (m.extractLsb' 0 6))
  | 0x10 => some (.ldf d a i)
  | 0x11 => some (.ldff d a i)
  | 0x12 => some (.ste d a i)
  | 0x13 => some (.stf d a i)
  | 0x14 => keep (m.toNat < 2) (.aswp d a b m0)
  | 0x15 => keep (m.toNat < 2) (.acas d a b m0)
  | 0x16 => keep (m.toNat < 2) (.aadd d a b m0)
  | 0x17 =>
    if m.toNat < 16 && !m.getLsbD 1 then (LogOp.ofCode (m.extractLsb' 2 2).toNat).map fun o => .alog o d a b m0
    else none
  | 0x18 => keep (m.toNat < 16 && !m.getLsbD 1) (.aminmax d a b (m.getLsbD 2) (m.getLsbD 3) m0)
  | 0x19 => keep (m.toNat < 2) (.afadd d a b m0)
  | 0x1A => if d = 0 then (Scope.ofCode (fImm20 w).toNat).map .fence else none
  | 0x1B => keep (d == 0 && a == 0 && b == 0 && m == 0) .waitm
  | 0x1C =>
    if m.toNat < 32 then (GatherSize.ofCode (m.extractLsb' 0 2).toNat).map fun s => .ldgv d a b s (m.extractLsb' 2 3)
    else none
  | 0x1D =>
    if m.toNat < 32 then (GatherSize.ofCode (m.extractLsb' 0 2).toNat).map fun s => .stsv d a b s (m.extractLsb' 2 3)
    else none
  | 0x1E => keep (d == 0 && m.toNat < 2) (.febit a b m0)
  | 0x1F => (Cond.ofCode m.toNat).map (.sigw d a b)
  | _ => none

/-- An allocated L opcode (R56, R60). -/
def lAllocated (w : Word) : Bool := 0x01 ≤ (fOp w).toNat && (fOp w).toNat ≤ 0x1F
/-- The L opcodes that admit the relaxed form (R56). -/
def lRelaxable (w : Word) : Bool :=
  let o := (fOp w).toNat
  (0x01 ≤ o && o ≤ 0x0F) || (0x14 ≤ o && o ≤ 0x19) || o == 0x1C || o == 0x1D

/-! ## V slot (R57, R154, R180) -/

/-- A shift amount: c[0] IMM, c[5:1] zero (R162). -/
def decShiftAmt (b c : BitVec 6) : Option ShiftAmt :=
  if c = 0 then some (.lanes b) else if c = 1 then some (.imm b) else none
/-- A lane selector: c[5] = 0 with b zero, or c[5] = 1 with c[4:0] zero (R171). -/
def decLaneSel (b c : BitVec 6) : Option LaneSel :=
  if c.getLsbD 5 then keep (c.extractLsb' 0 5 == 0) (.reg b) else keep (b == 0) (.imm (c.extractLsb' 0 5))
/-- VRED's c field (R174): OP [1:0], INT [2], U [3], SC [4], [5] zero. -/
def decRed (ty : BitVec 2) (d a c : BitVec 6) : Option Instr :=
  let dest : RedDest := if c.getLsbD 4 then .scalar d else .vec d
  if c.getLsbD 5 then none else
  match RedOp.ofCode (c.extractLsb' 0 2).toNat with
  | none => none
  | some op =>
    if c.getLsbD 2 then (IntTy.ofCode ty.toNat).map fun t => .vred op (.int t (c.getLsbD 3)) dest a
    else if c.getLsbD 3 then none
    else (FpTy.ofCode ty.toNat).map fun t => .vred op (.fp t) dest a

/-- The operation of a V word, before the limits of Instr.wf. -/
def rawV (w : Word) : Option Instr :=
  let d := vD w; let a := vA w; let b := vB w; let c := vC w
  let ft := FpTy.ofCode (vTy w).toNat
  let it := IntTy.ofCode (vTy w).toNat
  let t0 : Bool := vTy w == 0
  let rmo3 (m : BitVec 3) := Rmo.ofCode m.toNat
  match (fOp w).toNat with
  | 0x01 => match ft, Rmo.ofCode c.toNat with | some t, some m => some (.vadd t d a b m) | _, _ => none
  | 0x02 => match ft, Rmo.ofCode c.toNat with | some t, some m => some (.vsub t d a b m) | _, _ => none
  | 0x03 => match ft, Rmo.ofCode c.toNat with | some t, some m => some (.vmul t d a b m) | _, _ => none
  | 0x04 => ft.map fun t => .vfma t d a b c
  | 0x05 => ft.map fun t => .vfms t d a b c
  | 0x06 => if c = 0 then ft.map fun t => .vmin t d a b else none
  | 0x07 => if c = 0 then ft.map fun t => .vmax t d a b else none
  | 0x08 =>
    if b = 0 then match ft, AbsOp.ofCode c.toNat with | some t, some o => some (.vabsn o t d a) | _, _ => none
    else none
  | 0x09 => match it, SatMode.ofCode c.toNat with | some t, some s => some (.viadd t s d a b) | _, _ => none
  | 0x0A => match it, SatMode.ofCode c.toNat with | some t, some s => some (.visub t s d a b) | _, _ => none
  | 0x0B => match it, HiMode.ofCode c.toNat with | some t, some h => some (.vimul t h d a b) | _, _ => none
  | 0x0C => it.map fun t => .vimad t d a b c
  | 0x0D => keep (t0 && c.toNat < 2) (.vand d a b (c.getLsbD 0))
  | 0x0E => keep (t0 && c.toNat < 2) (.vor d a b (c.getLsbD 0))
  | 0x0F => keep (t0 && c.toNat < 2) (.vxor d a b (c.getLsbD 0))
  | 0x10 => match it, decShiftAmt b c with | some t, some n => some (.vshl t d a n) | _, _ => none
  | 0x11 => match it, decShiftAmt b c with | some t, some n => some (.vshr t d a n) | _, _ => none
  | 0x12 => match it, decShiftAmt b c with | some t, some n => some (.vsar t d a n) | _, _ => none
  | 0x13 => match ft, FCond.ofCode c.toNat with | some t, some k => some (.vcmp k t d a b) | _, _ => none
  | 0x14 => match it, Cond.ofCode c.toNat with | some t, some k => some (.vicmp k t d a b) | _, _ => none
  | 0x15 => keep t0 (.vsel d a b c)
  | 0x16 => keep (t0 && c.toNat < 4) (.vpermb d a b (c.getLsbD 1) (c.getLsbD 0))
  | 0x17 => keep t0 (.vshuf d a b c)
  | 0x18 => it.map fun t => .vslide t d a b c
  | 0x19 =>
    if b = 0 then
      if c.getLsbD 5 then it.map fun t => .vbcast t d (.lane a (c.extractLsb' 0 5))
      else if c = 0 then it.map fun t => .vbcast t d (.scalar a) else none
    else none
  | 0x1A => match it, decLaneSel b c with | some t, some i => some (.vext t d a i) | _, _ => none
  | 0x1B => if b = 0 then decRed (vTy w) d a c else none
  | 0x1C =>
    if b = 0 then match ft, SfuFn.ofCode c.toNat with | some t, some f => some (.vsfu f t d a) | _, _ => none
    else none
  | 0x1D =>
    if b.extractLsb' 0 2 = 0 then
      match ft, Fmt.ofCode (c.extractLsb' 3 3).toNat, rmo3 (b.extractLsb' 2 3) with
      | some t, some o, some m => some (.vcvt t o (c.getLsbD 2) (c.extractLsb' 0 2) (b.getLsbD 5) m d a)
      | _, _, _ => none
    else none
  | 0x1E =>
    if b = 0 && !c.getLsbD 0 then
      match ft, rmo3 (c.extractLsb' 1 3) with
      | some t, some m => some (.vcvti t (c.getLsbD 5) (c.getLsbD 4) m d a)
      | _, _ => none
    else none
  | 0x1F =>
    if t0 then
      match Fmt.ofCode (b.extractLsb' 3 3).toNat, QRnd.ofCode (b.extractLsb' 0 2).toNat with
      | some f, some r => some (.vqmx f (if b.getLsbD 2 then .e8m12 else .e8m0) r d a c)
      | _, _ => none
    else none
  | 0x20 =>
    match ft, Fmt.ofCode (b.extractLsb' 3 3).toNat with
    | some t, some f => some (.vdqmx t f (if b.getLsbD 2 then .e8m12 else .e8m0) (b.extractLsb' 0 2) d a c)
    | _, _ => none
  | 0x21 =>
    if t0 && !b.getLsbD 5 then (CmprKind.ofCode (b.extractLsb' 0 4).toNat).map fun k => .vcmpr k (b.getLsbD 4) d a c
    else none
  | 0x22 => keep (t0 && b == 0 && c.toNat < 2) (.vpack (c.getLsbD 0) d a)
  | 0x23 => keep (t0 && b == 0 && c.toNat < 2) (.vunpk (c.getLsbD 0) d a)
  | 0x24 => keep (t0 && a == 0 && b == 0 && c.toNat < 2) (.vrng (c.getLsbD 0) d)
  | 0x25 => (DotTy.ofCode (vTy w).toNat).map fun t => .vdot t d a b c
  | 0x26 =>
    if b = 0 then match it, BitKind.ofCode c.toNat with | some t, some k => some (.vbitc k t d a) | _, _ => none
    else none
  | 0x27 =>
    match NarrowTy.ofCode (vTy w).toNat, NarrowMode.ofCode c.toNat with
    | some t, some m => some (.vsatn t m d a b) | _, _ => none
  | 0x28 =>
    if b = 0 then
      match it, c.toNat with
      | some t, 0 => keep (d.toNat < 8) (.vmaskq t (.any (d.extractLsb' 0 3)) a)
      | some t, 1 => keep (d.toNat < 8) (.vmaskq t (.all (d.extractLsb' 0 3)) a)
      | some t, 2 => some (.vmaskq t (.bits d) a)
      | _, _ => none
    else none
  | 0x29 => if c = 0 then it.map fun t => .viota t d a b else none
  | 0x2A => match it, decLaneSel b c with | some t, some i => some (.vins t d a i) | _, _ => none
  | 0x2B =>
    if !b.getLsbD 3 then
      match ft, rmo3 (b.extractLsb' 0 3) with
      | some t, some m => some (.vscl t (if b.getLsbD 5 then .e8m12 else .e8m0) (b.getLsbD 4) m d a c)
      | _, _ => none
    else none
  | _ => none

/-- An allocated V opcode (R57, R60). -/
def vAllocated (w : Word) : Bool := 0x01 ≤ (fOp w).toNat && (fOp w).toNat ≤ 0x2B

/-! ## M slot (R58, R202) -/

/-- The tile fields of an M operation, if its format codes are allocated. -/
def decTiles (w0 w1 : Word) : Option Tiles :=
  match Fmt.ofCode (mFa w0).toNat, Fmt.ofCode (mFb w0).toNat, ScaleFmt.ofCode (m1Sf w1).toNat with
  | some fa, some fb, some sf => some ⟨fa, fb, mA w0, mB w0, m1S w1, sf⟩
  | _, _, _ => none

/-- The operation of an M word pair, before the limits of Instr.wf. -/
def rawM (w0 w1 : Word) : Option Instr :=
  let acc := mAcc w0; let m := mMod w0; let st := w1Start w1
  let noFmt : Bool := mFa w0 == 0 && mFb w0 == 0
  let noScale : Bool := m1S w1 == 0 && m1Sf w1 == 0
  match (fOp w0).toNat with
  | 0x01 => if m = 0 then (decTiles w0 w1).map fun t => .mma acc t st else none
  | 0x02 => if m = 0 then (decTiles w0 w1).map fun t => .mmas acc t st else none
  | 0x03 => if m = 0 then (decTiles w0 w1).map fun t => .mmaz acc t st else none
  | 0x04 => keep (noFmt && noScale && mA w0 == 0 && mB w0 == 0 && m == 0) (.mclr acc st)
  | 0x05 =>
    if noFmt && noScale then
      (MemFmt.ofCode (m.extractLsb' 0 2).toNat).map fun o => .mrd acc (mA w0) (mB w0) (m.extractLsb' 3 2) (m.getLsbD 2) o st
    else none
  | 0x06 =>
    if noFmt && noScale then
      (MemFmt.ofCode (m.extractLsb' 0 2).toNat).map fun o => .mwr acc (mA w0) (mB w0) (m.extractLsb' 3 2) (m.getLsbD 2) o st
    else none
  | 0x07 => keep (noFmt && noScale && mB w0 == 0) (.mrdv acc (mA w0) m st)
  | 0x08 => keep (noFmt && noScale && mB w0 == 0 && m.toNat < 2) (.mscl acc (mA w0) (m.getLsbD 0) st)
  | 0x09 => keep (noFmt && noScale && mA w0 == 0 && mB w0 == 0 && m == 0) (.mtrn acc st)
  | 0x0A => (decTiles w0 w1).map fun t => .mseq acc t (m.getLsbD 4) (m.extractLsb' 0 4) st
  | 0x0B => keep (acc == 0 && noFmt && mA w0 == 0 && mB w0 == 0 && m == 0 && noStart w1) .msync
  | _ => none

/-- An allocated M opcode (R58, R60). -/
def mAllocated (w : Word) : Bool := 0x01 ≤ (fOp w).toNat && (fOp w).toNat ≤ 0x0B

/-! ## N slot (R59, R214, R250, R262) -/

/-- The engine fields of an N operation whose tag stands in IMM8[5:0]. -/
def decEng (w0 w1 : Word) : Option Eng :=
  (decDep (n1Imm7 w1)).map fun d => ⟨(fMod w0).extractLsb' 0 6, d, w1Start w1⟩

/-- The operation of an N word pair, before the limits of Instr.wf. -/
def rawN (w0 w1 : Word) : Option Instr :=
  let a := fD w0; let b := fA w0; let c := fB w0; let m := fMod w0
  let i7 := n1Imm7 w1; let st := w1Start w1; let eng := decEng w0 w1
  let ns := noStart w1
  let hi := (m.extractLsb' 6 2).toNat
  let b6 := m.getLsbD 6
  let low5 : BitVec 5 := m.extractLsb' 0 5
  match (fOp w0).toNat with
  | 0x01 => if m.getLsbD 7 then none else eng.map (.cpyi a b c b6)
  | 0x02 => if m.getLsbD 7 then none else eng.map (.cpyo a b c b6)
  | 0x03 => if hi = 0 then eng.map (.cpyl a b c) else none
  | 0x04 => keep (ns && c == 0 && m.toNat < 2) (.foot a b (m.getLsbD 0))
  | 0x05 => keep (ns && b == 0 && c == 0 && m == 0) (.twait a)
  | 0x06 => keep (ns && c == 0 && m == 0) (.tany a b)
  | 0x07 => keep (ns && c == 0 && m == 0) (.tffr a b)
  | 0x08 => keep (ns && b == 0 && c == 0 && m == 0) (.tclr a)
  | 0x09 => keep (b == 0 && c == 0 && i7 == 0) (.tsnd a m st)
  | 0x0A => if b = 0 && c = 0 then (decDep i7).map fun t => .trcv a m t st else none
  | 0x0B => keep (!i7.getLsbD 6) (.esnd a b c (m.extractLsb' 0 7) (m.getLsbD 7) (i7.extractLsb' 0 6) st)
  | 0x0C => keep (ns && c == 0 && !m.getLsbD 7) (.ercv a b (m.extractLsb' 0 7))
  | 0x0D => keep (ns && b == 0 && c == 0 && m.toNat < 32) (.bari a low5)
  | 0x0E => keep (ns && b == 0 && c == 0 && m.toNat < 32) (.barw a low5)
  | 0x0F => keep (ns && a == 0 && c == 0 && m.extractLsb' 5 2 == 0) (.bara b low5 (m.getLsbD 7))
  | 0x10 => keep (ns && m == 0) (.spawn a b c)
  | 0x11 => keep (ns && a == 0 && b == 0 && c == 0 && m == 0) .quit
  | 0x12 => keep (ns && b == 0 && c == 0 && m == 0) (.fork a)
  | 0x13 => keep (ns && b == 0 && c == 0 && m == 0) (.join a)
  | 0x14 => keep (ns && a == 0 && b == 0 && c == 0 && m.toNat < 8) (.popd (m.extractLsb' 0 3))
  | 0x15 => keep (ns && b == 0 && c == 0 && m.toNat < 8) (.steal a (m.extractLsb' 0 3))
  | 0x16 => keep (ns && b == 0 && m.toNat < 32) (.rpsh a c low5)
  | 0x17 => keep (ns && m.toNat < 32) (.rpop a b c low5)
  | 0x18 =>
    match hi with
    | 0 => eng.map (.sdldCell a b c)
    | 1 => if c = 0 then eng.map (.sdldCoup a b) else none
    | 2 => if c = 0 then eng.map (.sdldBridge a b) else none
    | _ => if a = 0 && b = 0 && c = 0 then eng.map .sdldClear else none
  | 0x19 =>
    match hi with
    | 0 => eng.map (.sdclpClamp a b c)
    | 1 => eng.map (.sdclpRelease a b c)
    | 2 => eng.map (.sdclpSet a b c)
    | _ => none
  | 0x1A => if c = 0 then eng.map (.sdswp a b b6 (m.getLsbD 7)) else none
  | 0x1B => if m.getLsbD 7 then none else eng.map (.sdrd a b c b6)
  | 0x1C => if m.getLsbD 7 then none else eng.map (.sdcnt a b c b6)
  | 0x1D =>
    if m.getLsbD 7 || b != 0 || c != 0 then none
    else if b6 then eng.map (.sdseedStore a) else eng.map (.sdseed a)
  | 0x1E => if hi = 0 && b = 0 && c = 0 then eng.map (.sdtbl a) else none
  | 0x1F => if hi = 0 && c = 0 then eng.map (.sdbeta a b) else none
  | 0x20 =>
    match SigOp.ofCode hi, eng with
    | some o, some e => keep (c == 0) (.sigs a b o e)
    | _, _ => none
  | 0x21 =>
    if ns then (if m.toNat < 8 then (Cond.ofCode m.toNat).map (.swait a b c) else none) else none
  | 0x22 => if hi = 0 && c = 0 then eng.map (.codel a b) else none
  | 0x23 => keep (ns && c == 0 && m == 0) (.codei a b)
  | 0x24 => keep (ns && b == 0 && c == 0 && m == 0) (.bankr a)
  | 0x25 => keep (ns && b == 0 && c == 0 && m == 0) (.bankw a)
  | 0x26 => if hi = 0 && b = 0 then eng.map (.lsnd a c) else none
  | 0x27 => if hi = 0 && b = 0 then eng.map (.lrcv a c) else none
  | 0x28 => if hi = 0 && b = 0 then eng.map (.lred a c) else none
  | 0x29 => if hi = 0 && c = 0 then eng.map (.hnfy a b) else none
  | 0x2A => if hi = 0 then eng.map (.movc a b c) else none
  | 0x2B =>
    if m.getLsbD 7 || b != 0 || c != 0 then none
    else if b6 then keep (ns && m == 0x40) (.tideRetide a) else eng.map (.tide a)
  | 0x2C =>
    let p : BitVec 2 := m.extractLsb' 4 2
    if ns && hi = 0 then
      match (m.extractLsb' 0 4).toNat with
      | 0 => keep (b == 0) (.rdyqPush a c p)
      | 1 => keep (b == 0) (.rdyqPushh a c p)
      | 2 => keep (a == 0 && p == 0) (.rdyqPop b c)
      | 3 => keep (a == 0 && c == 0 && p == 0) (.rdyqCount b)
      | 4 => keep (b == 0 && p == 0) (.rdyqSpill a c)
      | 5 => keep (a == 0 && c == 0 && p == 0) (.rdyqRefill b)
      | 6 => keep (a == 0 && b == 0) (.rdyqFlush c p)
      | 7 => keep (a == 0 && c == 0 && p == 0) (.rdyqRpst b)
      | _ => none
    else none
  | 0x30 => keep (w1 == 0 && b == 0 && c == 0) (.send a m)
  | 0x31 => keep (w1 == 0 && b == 0 && c == 0) (.recv a m)
  | _ => none

/-- An allocated N opcode (R59, R60), and the two that only Emonef code has (R420); native code is refused those at issue. -/
def nAllocated (w : Word) : Bool :=
  let o := (fOp w).toNat
  (0x01 ≤ o && o ≤ 0x2C) || o == 0x30 || o == 0x31

/-- Keep only an operation within the limits of its rules (R54). -/
def checked : Option Instr → Option Instr
  | some i => keep i.wf i
  | none => none

/-- The answer for a one-word operation. -/
def decoded1 (alloc : Bool) (o : Option Instr) : Decoded :=
  if alloc then match checked o with | some i => .ok i | none => .reserved 0 else .badOpcode

/-- The answer for a two-word operation: a fault that remains with word 1 zero is word 0's (R61). -/
def decoded2 (alloc : Bool) (raw : Word → Option Instr) (w1 : Word) : Decoded :=
  if alloc then
    match checked (raw w1) with
    | some i => .ok i
    | none => if (checked (raw 0)).isSome then .reserved 1 else .reserved 0
  else .badOpcode

/-- Decode an S word. -/
def decodeS (w : Word) : Decoded := decoded1 (sAllocated w) (rawS w)
/-- Decode an L word. -/
def decodeL (w : Word) : Decoded := decoded1 (lAllocated w) (rawL w)
/-- Decode a V word. -/
def decodeV (w : Word) : Decoded := decoded1 (vAllocated w) (rawV w)
/-- Decode an M word pair. -/
def decodeM (w0 w1 : Word) : Decoded := decoded2 (mAllocated w0) (rawM w0) w1
/-- Decode an N word pair. -/
def decodeN (w0 w1 : Word) : Decoded := decoded2 (nAllocated w0) (rawN w0) w1

/-! ## Headers and bundles (R39 to R41) -/

/-- The issue slots, in the codes of R61. -/
inductive Slot | s | l | v | m | n
  deriving DecidableEq, Repr
/-- The slot number of R61. -/
def Slot.num : Slot → Nat
  | .s => 0 | .l => 1 | .v => 2 | .m => 3 | .n => 4

/-- Presence bits, in slot order. -/
def hdrHas (h : Half) : Slot → Bool
  | .s => h.getLsbD 15 | .l => h.getLsbD 14 | .v => h.getLsbD 13 | .m => h.getLsbD 12 | .n => h.getLsbD 11
/-- WAIT, [10:7]. -/
def hdrWait (h : Half) : BitVec 4 := h.extractLsb' 7 4
/-- RX, [6]. -/
def hdrRx (h : Half) : Bool := h.getLsbD 6
/-- QG, [5:3]. -/
def hdrQg (h : Half) : BitVec 3 := h.extractLsb' 3 3
/-- QN, [2]. -/
def hdrQn (h : Half) : Bool := h.getLsbD 2
/-- The slots a header says are present, in order. -/
def hdrSlots (h : Half) : List Slot := [Slot.s, .l, .v, .m, .n].filter (hdrHas h)
/-- Bytes of an operation in a slot (R40). -/
def Slot.bytes : Slot → Nat
  | .m => 8 | .n => 8 | _ => 4
/-- A bundle's length in bytes (R40). -/
def bundleLen (h : Half) : Nat := (hdrSlots h).foldl (fun n s => n + s.bytes) 2

/-- Little-endian value of bytes (R6). -/
def leNat : List Byte → Nat
  | [] => 0
  | b :: bs => b.toNat + 256 * leNat bs
/-- The first n little-endian bytes of a value (R6). -/
def leBytes : Nat → Nat → List Byte
  | 0, _ => []
  | n + 1, v => BitVec.ofNat 8 v :: leBytes n (v / 256)

/-- One operation of a bundle: its slot, its words, and what they decode to. -/
structure SlotOp where
  slot : Slot
  w0 : Word
  w1 : Word
  ins : Decoded
  deriving DecidableEq, Repr

/-- A bundle: its header and its operations in slot order. -/
structure Bundle where
  hdr : Half
  ops : List SlotOp
  deriving DecidableEq, Repr

/-- Why bytes are no bundle: too few of them, or a header that R41 refuses. -/
inductive BundleErr | truncated | badHeader
  deriving DecidableEq, Repr

/-- Decode the operation of one slot from its bytes. -/
def decodeSlot (s : Slot) (bs : List Byte) : SlotOp :=
  let w0 : Word := BitVec.ofNat 32 (leNat (bs.take 4))
  let w1 : Word := BitVec.ofNat 32 (leNat ((bs.drop 4).take 4))
  match s with
  | .s => ⟨s, w0, 0, decodeS w0⟩
  | .l => ⟨s, w0, 0, decodeL w0⟩
  | .v => ⟨s, w0, 0, decodeV w0⟩
  | .m => ⟨s, w0, w1, decodeM w0 w1⟩
  | .n => ⟨s, w0, w1, decodeN w0 w1⟩

/-- Decode the listed slots one after another (R40). -/
def decodeSlots : List Slot → List Byte → List SlotOp
  | [], _ => []
  | s :: ss, bs => decodeSlot s (bs.take s.bytes) :: decodeSlots ss (bs.drop s.bytes)

/-- A header that R41 accepts: bits [1:0] zero, and no RX without an L operation. -/
def hdrOk (h : Half) : Bool := h.extractLsb' 0 2 == 0 && (!hdrRx h || hdrHas h .l)

/-- Decode a bundle from its first bytes (R39, R40). -/
def decodeBundle (bs : List Byte) : Except BundleErr Bundle :=
  let h : Half := BitVec.ofNat 16 (leNat (bs.take 2))
  if bs.length < 2 then .error .truncated
  else if !hdrOk h then .error .badHeader
  else if bs.length < bundleLen h then .error .truncated
  else .ok ⟨h, decodeSlots (hdrSlots h) (bs.drop 2)⟩

/-- The one operation that a bundle's first bytes hold: the pure wait bundle itself, or the operation of a bundle of one. None for any other bytes, for a relaxed header on an operation that admits none (R41), or where the operation is refused. -/
def decodeSingle (bs : List Byte) : Option Instr :=
  match decodeBundle bs with
  | .error _ => none
  | .ok b =>
    match b.ops with
    | [] => some (.pureWaitBundle (hdrWait b.hdr) (hdrQg b.hdr) (hdrQn b.hdr))
    | [o] => if hdrRx b.hdr && !lRelaxable o.w0 then none else match o.ins with | .ok i => some i | _ => none
    | _ => none

/-- The longest bundle (R40). -/
def maxBundle : Nat := 30

/-- The operation that the decoder reads from an operation whose bits are w, bit 0 the least significant bit of the first halfword; every bit above nbits is zero. -/
def decodeTableWord (nbits w : Nat) : Option Instr :=
  decodeSingle (leBytes maxBundle (w % 2 ^ nbits))

/-! ## The encoder (R47 to R60) -/

/-- One-word operations: slot and word. -/
def byteOf (b7 b6 : Bool) (t : BitVec 6) : BitVec 8 := bit b7 ++ bit b6 ++ t
/-- IMM8 of a value below 256. -/
def imm8 (n : Nat) : BitVec 8 := BitVec.ofNat 8 n
/-- A zero-extended 8-bit modifier. -/
def m8 {k : Nat} (b : BitVec k) : BitVec 8 := b.setWidth 8
/-- The 6-bit code field of a V operation. -/
def c6 (n : Nat) : BitVec 6 := BitVec.ofNat 6 n
/-- A Bool as 0 or 1. -/
def b2n (b : Bool) : Nat := if b then 1 else 0
/-- The 14-bit loop immediate (R119). -/
def encLoopImm (stride : BitVec 7) (lo fo : Bool) (len : BitVec 5) : BitVec 14 := stride ++ bit lo ++ bit fo ++ len

/-- The b and c fields of a vector shift amount (R162). -/
def ShiftAmt.fields : ShiftAmt → BitVec 6 × BitVec 6
  | .lanes b => (b, 0) | .imm n => (n, 1)
/-- The b and c fields of a lane selector (R171). -/
def LaneSel.fields : LaneSel → BitVec 6 × BitVec 6
  | .imm i => (0, (0 : BitVec 1) ++ i) | .reg r => (r, 32)
/-- VRED's d and SC (R174). -/
def RedDest.fields : RedDest → BitVec 6 × Bool
  | .vec d => (d, false) | .scalar d => (d, true)
/-- The S word of an operation, if it is one of the S slot. -/
def encS : Instr → Option Word
  | .add d a b w => some (encRRR 0x01 d a b (imm8 (b2n w)))
  | .sub d a b w => some (encRRR 0x02 d a b (imm8 (b2n w)))
  | .and d a b => some (encRRR 0x03 d a b 0)
  | .or d a b => some (encRRR 0x04 d a b 0)
  | .xor d a b => some (encRRR 0x05 d a b 0)
  | .sll d a b w => some (encRRR 0x06 d a b (imm8 (b2n w)))
  | .srl d a b w => some (encRRR 0x07 d a b (imm8 (b2n w)))
  | .sra d a b w => some (encRRR 0x08 d a b (imm8 (b2n w)))
  | .mul d a b w => some (encRRR 0x09 d a b (imm8 (b2n w)))
  | .mulh d a b sg => some (encRRR 0x0A d a b (imm8 sg.code))
  | .div d a b w u => some (encRRR 0x0B d a b (imm8 (b2n w + 2 * b2n u)))
  | .rem d a b w u => some (encRRR 0x0C d a b (imm8 (b2n w + 2 * b2n u)))
  | .minmax d a b mx u => some (encRRR 0x0D d a b (imm8 (b2n mx + 2 * b2n u)))
  | .cmp q a b c => some (encRRR 0x0E (q.setWidth 6) a b (imm8 c.code))
  | .sel d a b q inv => some (encRRR 0x0F d a b ((0 : BitVec 4) ++ bit inv ++ q))
  | .addi d a i => some (encRRI 0x10 d a i)
  | .andi d a i => some (encRRI 0x11 d a i)
  | .ori d a i => some (encRRI 0x12 d a i)
  | .xori d a i => some (encRRI 0x13 d a i)
  | .shi d a k w n => some (encRRI 0x14 d a ((0 : BitVec 5) ++ bit w ++ BitVec.ofNat 2 k.code ++ n))
  | .lui d i => some (encRI 0x15 d i)
  | .cmpi q a i => some (encRRI 0x16 (q.setWidth 6) a i)
  | .bfx d a sx wm1 pos => some (encRRI 0x17 d a ((0 : BitVec 1) ++ bit sx ++ wm1 ++ pos))
  | .bfi d a wm1 pos => some (encRRI 0x18 d a ((0 : BitVec 2) ++ wm1 ++ pos))
  | .bitc d a k => some (encRRR 0x19 d a 0 (imm8 k.code))
  | .adda d a b s => some (encRRR 0x1A d a b (m8 s))
  | .br i => some (encRI 0x1B 0 i)
  | .jal d i => some (encRI 0x1C d i)
  | .jalr d a i => some (encRRI 0x1D d a i)
  | .loop d a s lo fo len => some (encRRI 0x1E d a (encLoopImm s lo fo len))
  | .loopx d a b lo fo len => some (encRRR 0x1F d a b ((0 : BitVec 1) ++ bit lo ++ bit fo ++ len))
  | .mfs d n => some (encRRI 0x20 d 0 (n.setWidth 14))
  | .mts n a => some (encRRI 0x21 0 a (n.setWidth 14))
  | .timerWrite a => some (encRRI 0x21 0 a 0x15)
  | .xvalWrite a => some (encRRI 0x21 0 a 0x21)
  | .fop o t d a b => some (encRRR 0x22 d a b (BitVec.ofNat 4 o.code ++ BitVec.ofNat 2 t.code ++ (0 : BitVec 2)))
  | .ffma o t d a b => some (encRRR 0x23 d a b (BitVec.ofNat 4 o.code ++ BitVec.ofNat 2 t.code ++ (0 : BitVec 2)))
  | .fcmp o t q a b =>
    some (encRRR 0x24 (q.setWidth 6) a b (BitVec.ofNat 4 o.code ++ BitVec.ofNat 2 t.code ++ (0 : BitVec 2)))
  | .fcvt s t r d a =>
    some (encRRR 0x25 d a 0 (BitVec.ofNat 3 s.code ++ BitVec.ofNat 3 t.code ++ BitVec.ofNat 2 r.code))
  | .trap i => some (encRI 0x26 0 i)
  | .rett => some (encRRR 0x27 0 0 0 0)
  | .rettW a => some (encRRR 0x27 0 a 0 1)
  | .halt => some (encRRR 0x28 0 0 0 0)
  | .phase => some (encRRR 0x29 0 0 0 0)
  | .start a b => some (encRRR 0x2A 0 a b 0)
  | .stop a => some (encRRR 0x2B 0 a 0 0)
  | .swap d a b ph => some (encRRR 0x2C d a b (imm8 (b2n ph)))
  | .resume a => some (encRRR 0x2D 0 a 0 0)
  | .migrArm d a => some (encRRR 0x2E d a 0 0)
  | .migrFreeze => some (encRRR 0x2E 0 0 0 1)
  | .migrCommit d a => some (encRRR 0x2E d a 0 2)
  | .migrAbort => some (encRRR 0x2E 0 0 0 3)
  | .brk i => some (encRI 0x2F 0 i)
  | _ => none

/-- The L word of an operation, if it is one of the L slot. -/
def encL : Instr → Option Word
  | .ld8 d a i => some (encRRI 0x01 d a i)
  | .ld8z d a i => some (encRRI 0x02 d a i)
  | .ld16 d a i => some (encRRI 0x03 d a i)
  | .ld16z d a i => some (encRRI 0x04 d a i)
  | .ld32 d a i => some (encRRI 0x05 d a i)
  | .ld32z d a i => some (encRRI 0x06 d a i)
  | .ld64 d a i => some (encRRI 0x07 d a i)
  | .st8 d a i => some (encRRI 0x08 d a i)
  | .st16 d a i => some (encRRI 0x09 d a i)
  | .st32 d a i => some (encRRI 0x0A d a i)
  | .st64 d a i => some (encRRI 0x0B d a i)
  | .ldv d a i => some (encRRI 0x0C d a i)
  | .stv d a i => some (encRRI 0x0D d a i)
  | .ldbit d a b sx w => some (encRRR 0x0E d a b (byteOf false sx w))
  | .stbit d a b w => some (encRRR 0x0F d a b (byteOf false false w))
  | .ldf d a i => some (encRRI 0x10 d a i)
  | .ldff d a i => some (encRRI 0x11 d a i)
  | .ste d a i => some (encRRI 0x12 d a i)
  | .stf d a i => some (encRRI 0x13 d a i)
  | .aswp d a b w => some (encRRR 0x14 d a b (imm8 (b2n w)))
  | .acas d a b w => some (encRRR 0x15 d a b (imm8 (b2n w)))
  | .aadd d a b w => some (encRRR 0x16 d a b (imm8 (b2n w)))
  | .alog o d a b w => some (encRRR 0x17 d a b (imm8 (b2n w + 4 * o.code)))
  | .aminmax d a b mx u w => some (encRRR 0x18 d a b (imm8 (b2n w + 4 * b2n mx + 8 * b2n u)))
  | .afadd d a b t => some (encRRR 0x19 d a b (imm8 (b2n t)))
  | .fence s => some (encRI 0x1A 0 (BitVec.ofNat 20 s.code))
  | .waitm => some (encRRR 0x1B 0 0 0 0)
  | .ldgv d a b s sh => some (encRRR 0x1C d a b ((0 : BitVec 3) ++ sh ++ BitVec.ofNat 2 s.code))
  | .stsv d a b s sh => some (encRRR 0x1D d a b ((0 : BitVec 3) ++ sh ++ BitVec.ofNat 2 s.code))
  | .febit a b f => some (encRRR 0x1E 0 a b (imm8 (b2n f)))
  | .sigw d a b c => some (encRRR 0x1F d a b (imm8 c.code))
  | _ => none

/-- The b field of a block operation (R187, R190): FMT, SFMT and two more bits. -/
def encFmtField (f : Fmt) (sf : ScaleFmt) (lo : BitVec 2) : BitVec 6 :=
  BitVec.ofNat 3 f.code ++ BitVec.ofNat 1 sf.code ++ lo

/-- The V word of an operation, if it is one of the V slot. -/
def encVop : Instr → Option Word
  | .vadd t d a b m => some (encV 0x01 t.code d a b (c6 m.code))
  | .vsub t d a b m => some (encV 0x02 t.code d a b (c6 m.code))
  | .vmul t d a b m => some (encV 0x03 t.code d a b (c6 m.code))
  | .vfma t d a b c => some (encV 0x04 t.code d a b c)
  | .vfms t d a b c => some (encV 0x05 t.code d a b c)
  | .vmin t d a b => some (encV 0x06 t.code d a b 0)
  | .vmax t d a b => some (encV 0x07 t.code d a b 0)
  | .vabsn o t d a => some (encV 0x08 t.code d a 0 (c6 o.code))
  | .viadd t s d a b => some (encV 0x09 t.code d a b (c6 s.code))
  | .visub t s d a b => some (encV 0x0A t.code d a b (c6 s.code))
  | .vimul t h d a b => some (encV 0x0B t.code d a b (c6 h.code))
  | .vimad t d a b c => some (encV 0x0C t.code d a b c)
  | .vand d a b i => some (encV 0x0D 0 d a b (c6 (b2n i)))
  | .vor d a b i => some (encV 0x0E 0 d a b (c6 (b2n i)))
  | .vxor d a b i => some (encV 0x0F 0 d a b (c6 (b2n i)))
  | .vshl t d a n => some (encV 0x10 t.code d a n.fields.1 n.fields.2)
  | .vshr t d a n => some (encV 0x11 t.code d a n.fields.1 n.fields.2)
  | .vsar t d a n => some (encV 0x12 t.code d a n.fields.1 n.fields.2)
  | .vcmp k t d a b => some (encV 0x13 t.code d a b (c6 k.code))
  | .vicmp k t d a b => some (encV 0x14 t.code d a b (c6 k.code))
  | .vsel d a b c => some (encV 0x15 0 d a b c)
  | .vpermb d a b u h => some (encV 0x16 0 d a b (c6 (b2n h + 2 * b2n u)))
  | .vshuf d a b c => some (encV 0x17 0 d a b c)
  | .vslide t d a b n => some (encV 0x18 t.code d a b n)
  | .vbcast t d (.scalar a) => some (encV 0x19 t.code d a 0 0)
  | .vbcast t d (.lane a i) => some (encV 0x19 t.code d a 0 ((1 : BitVec 1) ++ i))
  | .vext t d a i => some (encV 0x1A t.code d a i.fields.1 i.fields.2)
  | .vred o (.fp t) d a => some (encV 0x1B t.code d.fields.1 a 0 (c6 (o.code + 16 * b2n d.fields.2)))
  | .vred o (.int t u) d a => some (encV 0x1B t.code d.fields.1 a 0 (c6 (o.code + 4 + 8 * b2n u + 16 * b2n d.fields.2)))
  | .vsfu f t d a => some (encV 0x1C t.code d a 0 (c6 f.code))
  | .vcvt t o i p s m d a =>
    some (encV 0x1D t.code d a (bit s ++ BitVec.ofNat 3 m.code ++ (0 : BitVec 2)) (BitVec.ofNat 3 o.code ++ bit i ++ p))
  | .vcvti t i u m d a => some (encV 0x1E t.code d a 0 (bit i ++ bit u ++ BitVec.ofNat 3 m.code ++ (0 : BitVec 1)))
  | .vqmx f sf r d a c => some (encV 0x1F 0 d a (encFmtField f sf (BitVec.ofNat 2 r.code)) c)
  | .vdqmx t f sf p d a c => some (encV 0x20 t.code d a (encFmtField f sf p) c)
  | .vcmpr k p d a c => some (encV 0x21 0 d a ((0 : BitVec 1) ++ bit p ++ BitVec.ofNat 4 k.code) c)
  | .vpack w d a => some (encV 0x22 0 d a 0 (c6 (b2n w)))
  | .vunpk w d a => some (encV 0x23 0 d a 0 (c6 (b2n w)))
  | .vrng u d => some (encV 0x24 0 d 0 0 (c6 (b2n u)))
  | .vdot f d a b c => some (encV 0x25 f.code d a b c)
  | .vbitc k t d a => some (encV 0x26 t.code d a 0 (c6 k.code))
  | .vsatn t m d a b => some (encV 0x27 t.code d a b (c6 m.code))
  | .vmaskq t (.any q) a => some (encV 0x28 t.code (q.setWidth 6) a 0 0)
  | .vmaskq t (.all q) a => some (encV 0x28 t.code (q.setWidth 6) a 0 1)
  | .vmaskq t (.bits d) a => some (encV 0x28 t.code d a 0 2)
  | .viota t d a b => some (encV 0x29 t.code d a b 0)
  | .vins t d a i => some (encV 0x2A t.code d a i.fields.1 i.fields.2)
  | .vscl t sf p m d a c =>
    some (encV 0x2B t.code d a (BitVec.ofNat 1 sf.code ++ bit p ++ (0 : BitVec 1) ++ BitVec.ofNat 3 m.code) c)
  | _ => none

/-- The words of a command on tiles (R202). -/
def encTiles (op : Nat) (m : Acc) (t : Tiles) (md : BitVec 5) (st : Start) : Word × Word :=
  (encM0 op m t.fa.code t.fb.code t.a t.b md, encM1 t.s t.sf.code st)

/-- The words of an operation, if it is one of the M slot. -/
def encM : Instr → Option (Word × Word)
  | .mma m t st => some (encTiles 0x01 m t 0 st)
  | .mmas m t st => some (encTiles 0x02 m t 0 st)
  | .mmaz m t st => some (encTiles 0x03 m t 0 st)
  | .mclr m st => some (encM0 0x04 m 0 0 0 0 0, encM1 0 0 st)
  | .mrd m a b q c o st => some (encM0 0x05 m 0 0 a b (q ++ bit c ++ BitVec.ofNat 2 o.code), encM1 0 0 st)
  | .mwr m a b q c o st => some (encM0 0x06 m 0 0 a b (q ++ bit c ++ BitVec.ofNat 2 o.code), encM1 0 0 st)
  | .mrdv m a v st => some (encM0 0x07 m 0 0 a 0 v, encM1 0 0 st)
  | .mscl m a r st => some (encM0 0x08 m 0 0 a 0 (BitVec.ofNat 5 (b2n r)), encM1 0 0 st)
  | .mtrn m st => some (encM0 0x09 m 0 0 0 0 0, encM1 0 0 st)
  | .mseq m t z n st => some (encTiles 0x0A m t (bit z ++ n) st)
  | .msync => some (encM0 0x0B 0 0 0 0 0 0, 0)
  | _ => none

/-- Words of an N operation with no start. -/
def encN (op : Nat) (a b c : SReg) (imm : BitVec 8) : Word × Word := (encN0 op a b c imm, 0)
/-- Words of an engine command: the two top bits of IMM8, the tag, the dependency and the start. -/
def encEng (op : Nat) (a b c : SReg) (b7 b6 : Bool) (e : Eng) : Word × Word :=
  (encN0 op a b c (byteOf b7 b6 e.tag), encN1 (encDep e.dep) e.start)
/-- RDYQ's IMM8: PRIO [5:4], FN [3:0] (R278). -/
def encRdyq (fn : Nat) (p : BitVec 2) : BitVec 8 := (0 : BitVec 2) ++ p ++ BitVec.ofNat 4 fn

/-- The words of an operation, if it is one of the N slot. -/
def encNop : Instr → Option (Word × Word)
  | .cpyi a b c p e => some (encEng 0x01 a b c false p e)
  | .cpyo a b c p e => some (encEng 0x02 a b c false p e)
  | .cpyl a b c e => some (encEng 0x03 a b c false false e)
  | .foot a b w => some (encN 0x04 a b 0 (imm8 (b2n w)))
  | .twait a => some (encN 0x05 a 0 0 0)
  | .tany a b => some (encN 0x06 a b 0 0)
  | .tffr a b => some (encN 0x07 a b 0 0)
  | .tclr a => some (encN 0x08 a 0 0 0)
  | .tsnd a ch st => some (encN0 0x09 a 0 0 ch, encN1 0 st)
  | .trcv a ch t st => some (encN0 0x0A a 0 0 ch, encN1 (encDep t) st)
  | .esnd a b c mb w t st => some (encN0 0x0B a b c (bit w ++ mb), encN1 ((0 : BitVec 1) ++ t) st)
  | .ercv a b mb => some (encN 0x0C a b 0 ((0 : BitVec 1) ++ mb))
  | .bari a n => some (encN 0x0D a 0 0 (m8 n))
  | .barw a n => some (encN 0x0E a 0 0 (m8 n))
  | .bara b n w => some (encN 0x0F 0 b 0 (bit w ++ (0 : BitVec 2) ++ n))
  | .spawn a b c => some (encN 0x10 a b c 0)
  | .quit => some (encN 0x11 0 0 0 0)
  | .fork a => some (encN 0x12 a 0 0 0)
  | .join a => some (encN 0x13 a 0 0 0)
  | .popd q => some (encN 0x14 0 0 0 (m8 q))
  | .steal a q => some (encN 0x15 a 0 0 (m8 q))
  | .rpsh a c r => some (encN 0x16 a 0 c (m8 r))
  | .rpop a b c r => some (encN 0x17 a b c (m8 r))
  | .sdldCell a b c e => some (encEng 0x18 a b c false false e)
  | .sdldCoup a b e => some (encEng 0x18 a b 0 false true e)
  | .sdldBridge a b e => some (encEng 0x18 a b 0 true false e)
  | .sdldClear e => some (encEng 0x18 0 0 0 true true e)
  | .sdclpClamp a b c e => some (encEng 0x19 a b c false false e)
  | .sdclpRelease a b c e => some (encEng 0x19 a b c false true e)
  | .sdclpSet a b c e => some (encEng 0x19 a b c true false e)
  | .sdswp a b en br e => some (encEng 0x1A a b 0 br en e)
  | .sdrd a b c p e => some (encEng 0x1B a b c false p e)
  | .sdcnt a b c r e => some (encEng 0x1C a b c false r e)
  | .sdseed a e => some (encEng 0x1D a 0 0 false false e)
  | .sdseedStore a e => some (encEng 0x1D a 0 0 false true e)
  | .sdtbl a e => some (encEng 0x1E a 0 0 false false e)
  | .sdbeta a b e => some (encEng 0x1F a b 0 false false e)
  | .sigs a b o e => some (encN0 0x20 a b 0 (BitVec.ofNat 2 o.code ++ e.tag), encN1 (encDep e.dep) e.start)
  | .swait a b c k => some (encN 0x21 a b c (imm8 k.code))
  | .codel a b e => some (encEng 0x22 a b 0 false false e)
  | .codei a b => some (encN 0x23 a b 0 0)
  | .bankr a => some (encN 0x24 a 0 0 0)
  | .bankw a => some (encN 0x25 a 0 0 0)
  | .lsnd a c e => some (encEng 0x26 a 0 c false false e)
  | .lrcv a c e => some (encEng 0x27 a 0 c false false e)
  | .lred a c e => some (encEng 0x28 a 0 c false false e)
  | .hnfy a b e => some (encEng 0x29 a b 0 false false e)
  | .movc a b c e => some (encEng 0x2A a b c false false e)
  | .tide a e => some (encEng 0x2B a 0 0 false false e)
  | .tideRetide a => some (encN 0x2B a 0 0 0x40)
  | .rdyqPush a c p => some (encN 0x2C a 0 c (encRdyq 0 p))
  | .rdyqPushh a c p => some (encN 0x2C a 0 c (encRdyq 1 p))
  | .rdyqPop b c => some (encN 0x2C 0 b c (encRdyq 2 0))
  | .rdyqCount b => some (encN 0x2C 0 b 0 (encRdyq 3 0))
  | .rdyqSpill a c => some (encN 0x2C a 0 c (encRdyq 4 0))
  | .rdyqRefill b => some (encN 0x2C 0 b 0 (encRdyq 5 0))
  | .rdyqFlush c p => some (encN 0x2C 0 0 c (encRdyq 6 p))
  | .rdyqRpst b => some (encN 0x2C 0 b 0 (encRdyq 7 0))
  | .send a ch => some (encN 0x30 a 0 0 ch)
  | .recv a ch => some (encN 0x31 a 0 0 ch)
  | _ => none

/-- The little-endian bytes of a word (R6). -/
def wordBytes (w : Word) : List Byte := leBytes 4 w.toNat
/-- A header (R39). -/
def encHdr (s l v m n : Bool) (wait : BitVec 4) (rx : Bool) (qg : BitVec 3) (qn : Bool) : Half :=
  bit s ++ bit l ++ bit v ++ bit m ++ bit n ++ wait ++ bit rx ++ qg ++ bit qn ++ (0 : BitVec 2)
/-- The bytes of a bundle of one unguarded operation, or of a pure wait bundle (R39, R40). Events have no encoding: the empty list. -/
def encode (i : Instr) : List Byte :=
  let h (s l v m n : Bool) : List Byte := leBytes 2 (encHdr s l v m n 0 false 0 false).toNat
  match i with
  | .pureWaitBundle w g n => leBytes 2 (encHdr false false false false false w false g n).toNat
  | i =>
    match encS i, encL i, encVop i, encM i, encNop i with
    | some w, _, _, _, _ => h true false false false false ++ wordBytes w
    | _, some w, _, _, _ => h false true false false false ++ wordBytes w
    | _, _, some w, _, _ => h false false true false false ++ wordBytes w
    | _, _, _, some (w0, w1), _ => h false false false true false ++ wordBytes w0 ++ wordBytes w1
    | _, _, _, _, some (w0, w1) => h false false false false true ++ wordBytes w0 ++ wordBytes w1
    | _, _, _, _, _ => []

/-- The operations that a bundle can hold: those with an encoding. Events are the others. -/
def Instr.isOp : Instr → Bool
  | .pureWaitBundle _ _ _ => true
  | i => (encS i).isSome || (encL i).isSome || (encVop i).isSome || (encM i).isSome || (encNop i).isSome

end Sys2Proof
end

