-- ==== Sys2Proof/Machine/State.lean ====
section
/-! DEFINITION. The state of an SZ4 package as plain data, its reset (spec/01_machine_state.md R38 and the reset columns of the other chapters), and the reasons for which a step can stop. INVENTORY.md lists each piece with the rule that names it. Maps are sparse: a key that is not listed reads as the reset value. -/
namespace Sys2Proof.Machine

/-! ## Why a step stops -/

/-- Reasons for which the machine stops with a fault. -/
inductive Fault
  /-- Raised by step when a thermal trip has removed the package's power (R433) and no event from outside is left. Safe: nothing is claimed of a package without power. -/
  | powerOff
  deriving DecidableEq, Repr

/-- Reasons for which an instruction has no meaning. -/
inductive Refusal
  /-- Raised by an arm of exec whose instruction has no meaning yet. Safe. -/
  | notModelled (mnemonic : String)
  deriving DecidableEq, Repr

/-! ## Contexts -/

/-- The states of a context (R12), in the order of their codes. -/
inductive CtxState | free | run | park | stop | out | halt
  deriving DecidableEq, Repr

/-- Where a register write goes (R14, R17, R20, R26). -/
inductive Dest
  | x (ctx : Nat) (r : BitVec 5)
  | v (ctx : Nat) (r : BitVec 5)
  /-- One 64-bit quarter of a v register, written through XVAL (R26). -/
  | vq (ctx : Nat) (r : BitVec 5) (quarter : BitVec 2)
  | q (ctx : Nat) (p : PReg)
  | k (r : BitVec 5)
  | w (r : BitVec 5)
  /-- A context-scope special register, with the bits that the write may change (R27). -/
  | spr (ctx : Nat) (n : BitVec 6) (mask : DWord)
  /-- TAGS with ones clearing (R20, R218). -/
  | tagsClear (ctx : Nat)
  /-- A core-scope special register (R20). -/
  | cspr (n : BitVec 6)
  /-- Sticky flags of FCR, ORed in (R79). -/
  | flags (ctx : Nat)
  /-- The next-bundle address, CLASS 4 (R26). -/
  | next (ctx : Nat)
  /-- Masked bits of the 64-bit word at an offset of Rockpool entry e, RP = 1 (R26, R36). -/
  | pool (e off : Nat) (mask : DWord)
  deriving DecidableEq, Repr

/-- The value of a register write. -/
inductive Val
  | word (v : DWord) | vec (v : Vec) | bit (b : Bool)
  deriving DecidableEq, Repr

/-- A register write that has been issued and has not landed (R17). `due` is the last cycle of its window, none until a parked, relaxed or matrix access ends; `id` names that access. -/
structure Write where
  dst : Dest
  val : Val
  byCtx : Nat
  issue : Nat
  due : Option Nat
  id : Nat
  /-- Landed writes that may keep bits of this register from this one (R18, R19, R26): the cycle and context of each, and its bits. -/
  contested : List (Nat × Nat × Vec)
  deriving DecidableEq, Repr

/-- An open loop level (R121, R128). -/
structure Level where
  start : DWord
  count : BitVec 32
  len : BitVec 5
  pos : BitVec 5
  fo : Bool
  lo : Bool
  dreg : SReg
  /-- 0 LOOP, 1 LOOPX. -/
  src : Bool
  /-- SRC = 0: the signed stride in units of 8 bytes. SRC = 1: the b register field. -/
  stride : BitVec 7
  first : Bool
  skip : Bool
  deriving DecidableEq, Repr

/-- An entry of the dispatch ring (R25, R455). -/
structure RingEntry where
  seq : Half
  m : Bool
  caddr : BitVec 17
  words : DWord
  deriving DecidableEq, Repr

/-- Why a context is parked: the KIND codes of R330, and the waits that a Rockpool entry never records. -/
inductive ParkKind
  | eddy | retry | tags | ercv | bank | queueFull | msync | fence | drain
  /-- C0 waiting for SWAP or RESUME (R266, R267), and the ninth relaxed access (R135). -/
  | swap | relaxedFull | stepDrain
  /-- SEND or RECV of Emonef code (R420). -/
  | emonef
  deriving DecidableEq, Repr

/-- How a wait stands: not over, over, or ended by a trap with its cause and TVAL (R329). -/
inductive ParkEnd | waiting | done | trapped (cause : DWord) (tval : DWord)
  deriving DecidableEq, Repr

/-- A wait of a parked context (R12, R330). -/
structure Park where
  kind : ParkKind
  op : Instr
  words : DWord
  slot : Nat
  /-- Address of the bundle that holds the operation. -/
  addr : DWord
  /-- Operands read at issue. -/
  a : DWord
  b : DWord
  c : DWord
  /-- Cycle of issue. -/
  issue : Nat
  /-- PARK turns counted toward the limit (R146). -/
  turns : Nat
  /-- Names the request or command the wait is for. -/
  id : Nat
  /-- A cancel has been sent (R147, R234, R236). -/
  cancelled : Bool
  ended : ParkEnd
  /-- Free cycles that its next word has waited at port A (R320). -/
  waited : Nat
  /-- Copies whose tags were set before a FENCE issued, with words in staging then (R139). -/
  counts : List Nat
  deriving DecidableEq, Repr

/-- A relaxed access (R137): local ones wait to be performed, remote ones are outstanding. -/
structure Relaxed where
  id : Nat
  op : Instr
  slot : Nat
  /-- Address of the bundle that holds it. -/
  addr : DWord
  a : DWord
  b : DWord
  /-- Data of a store, or the compare value of ACAS. -/
  data : Vec
  /-- Index register of a gather or scatter. -/
  idx : Vec
  remote : Bool
  /-- The ninth outstanding access is sent when one of the eight ends (R135). -/
  sent : Bool
  /-- Outstanding, and sent only once the earlier accesses that overlap it are performed (R137). -/
  held : Bool
  /-- Core that issued it. -/
  from_ : Nat
  performed : Bool
  refused : Option DWord
  issue : Nat
  /-- Cycle by which a local access is performed if no WAITM or FENCE comes first. -/
  due : Nat
  deriving DecidableEq, Repr

/-- The kinds of R329, in their order of delivery. Traps of the first kind are taken at the next issue turn (`first`), or already at the PARK exit (`exit`). -/
inductive LateKind | first (slot : Nat) (epc : DWord) | exit (slot : Nat) (epc : DWord) | fp | vm (seq : Half) | engine (order tag : Nat) | step
  deriving DecidableEq, Repr

/-- A trap that has become known and is not yet taken or held (R329). -/
structure Late where
  kind : LateKind
  cause : DWord
  tval : DWord
  /-- Cycle at which it became known or falls due. -/
  known : Nat
  deriving DecidableEq, Repr

/-- A FOOT region, or the region of a command (R225, R226). -/
structure Region where
  lo : Nat
  len : Nat
  wr : Bool
  deriving DecidableEq, Repr

/-- What a context waits to hand over when it leaves RUN at a phase (R266, R268, R284). -/
structure Deferred where
  entry : Nat
  deriving DecidableEq, Repr

/-- One hardware context (R12 to R26). -/
structure Ctx where
  st : CtxState
  turn : DWord
  /-- In RUN or PARK when the current core turn began: its turn counter and its starts count this turn (R12, R51). -/
  ran : Bool
  next : DWord
  hold : Option Nat
  xs : Sparse DWord
  vs : Sparse Vec
  qs : BitVec 8
  fcr : DWord
  tags : DWord
  tagOut : Sparse Nat
  seed : DWord
  /-- Cycle of issue of the last write to SEED by MTS or XVAL (R84). -/
  seedWrite : Option Nat
  epc : DWord
  cause : DWord
  tval : DWord
  check : DWord
  phaseCount : BitVec 32
  pend : Bool
  vseqSel : Half
  vseqNext : Half
  ring : List RingEntry
  levels : List Level
  /-- Outermost levels that C0's trap left open: its handler's bundles do not count in them (R126, log 18). -/
  frozen : Nat
  capture : List (Nat × List Byte)
  /-- A CLASS 4 write has landed since the context stopped (R264). -/
  nextWritten : Bool
  /-- C0 wrote its own EPC by MTS since its trap (R126). -/
  epcWritten : Bool
  base : Nat
  disp : Nat
  parks : List Park
  relaxed : List Relaxed
  late : List Late
  backlog : List (DWord × DWord)
  lost : Nat
  foot : List (Region × Nat)
  launch : Option Nat
  /-- A POPD has found nothing, and only seeking operations have been performed since (R317). -/
  seeking : Bool
  deferred : Option Nat
  /-- Marked by MIGR.arm (R284). -/
  marked : Bool
  /-- The bundle last issued, for the step trap (R283): its address, and the commands it dispatched. -/
  stepped : Option (DWord × List Nat)
  /-- Trapped 0x1D and under M-mode control (R328). -/
  mmode : Bool
  /-- Halted or stopped by a cancelled launch (R400). -/
  cancelled : Bool
  deriving DecidableEq, Repr

/-! ## Commands of the matrix unit and the engines -/

/-- A command in a queue or in flight (R195, R216). -/
structure Cmd where
  id : Nat
  ctx : Nat
  launch : Option Nat
  op : Instr
  words : DWord
  a : DWord
  b : DWord
  c : DWord
  addr : DWord
  issue : Nat
  /-- Place in the order in which commands issued (R196, R216, R225). -/
  order : Nat
  /-- FCR at issue, whose enables its late fault obeys (R78, R80). -/
  fcr : DWord
  seq : Half
  /-- First unperformed step of an MSEQ (R331). -/
  step : Nat
  foot : List Region
  /-- How many of its regions hold entries of the hazard table that FOOT reserved, until they enter it (R226). -/
  reserved : Nat
  started : Option Nat
  /-- Last cycle of its lane or unit. -/
  until_ : Nat
  /-- Words captured or still to move, by address (R249, R227). -/
  data : List (Nat × DWord)
  /-- Next record or word index (R252, R258). -/
  pos : Nat
  flags : BitVec 5
  /-- Free cycles waited at port A (R320). -/
  waited : Nat
  /-- A saved command that RESUME has returned (R332). -/
  saved : Bool
  /-- Cycle in which its first step started (R432). -/
  began : Option Nat
  deriving DecidableEq, Repr

/-- An entry of the hazard table (R225): its command, the command's place in issue order, the entry's place in the order of entry, and its region. -/
structure Hazard where
  cmd : Nat
  order : Nat
  entered : Nat
  region : Region
  deriving DecidableEq, Repr

/-! ## Packets of the eddy plane (R134, R368) -/

/-- A task record (R271). -/
structure TaskRec where
  entry : DWord
  x4 : DWord
  x5 : DWord
  x6 : DWord
  x7 : DWord
  origin : DWord
  deriving DecidableEq, Repr

/-- What a core or unit answers. -/
inductive Reply
  /-- A task record (R274). -/
  | record (r : TaskRec)
  | value (v : DWord) | vec (v : Vec) | none
  /-- Refused with a cause (R136, R276). -/
  | refused (cause : Nat)
  /-- To be sent again 16 cycles after arrival (R147, R229, R276). -/
  | retry
  /-- The tag or wait ends without a value. -/
  | trap (cause : Nat) (tval : DWord)
  deriving DecidableEq, Repr

/-- The content of a request packet. -/
inductive Body
  /-- An L-slot access: operation, operand, data (R134, R147). -/
  | access (op : Instr) (b : DWord) (data : Vec)
  | ringPush (ring : Nat) (v : DWord)
  | ringPop (ring : Nat)
  | join
  | barrier (op : Instr) (a : DWord)
  | steal
  | spawn (entry seed : DWord) (x3 x4 x5 x6 x7 : DWord)
  | message (mb : Nat) (wake : Bool) (data : List Byte)
  | signal (op : SigOp) (v : DWord)
  | notice (a b : DWord)
  /-- Withdraws the request of an id (R147, R231). -/
  | cancel (of_ : Nat)
  /-- A word of a copy for a core's local store (R224). -/
  | reply (dest : Nat) (r : Reply)
  deriving DecidableEq, Repr

/-- A packet: from a context of a core to a core, a shore's barrier unit or the hub. -/
structure Packet where
  id : Nat
  src : Nat
  sctx : Nat
  dst : Nat
  /-- Address within the target's local store. -/
  laddr : Nat
  body : Body
  /-- First cycle in which the router that holds it may send it on; with no router left, the cycle of its arrival. -/
  due : Nat
  /-- Accepted by the target's interface and waiting for port A (R132). -/
  accepted : Option Nat
  /-- Free cycles waited at port A (R320). -/
  waited : Nat
  /-- Command or wait of the requester. -/
  cmd : Nat
  launch : Option Nat
  /-- Cycle in which the requester sends it again after a refusal. -/
  resend : Option Nat
  /-- Routers that it has still to cross, the one that holds it first (R368). -/
  path : List Nat
  /-- The router that it came from, one more than its number; 0 from the local port, 1000000 from the hub's (R361). -/
  via : Nat
  /-- Cycle in which it entered its router's input (R322). -/
  entered : Nat
  /-- It is the refusal of its request, on the way back to the requester (R147, R322). -/
  back : Bool
  deriving DecidableEq, Repr

/-- A message slot of a mailbox (R229). -/
structure Msg where
  mb : Nat
  src : Half
  sctx : BitVec 4
  data : List Byte
  deriving DecidableEq, Repr

/-- A request held in a watch slot (R147). -/
structure Watch where
  slot : Nat
  pkt : Packet
  /-- 1: its word has been written in this cycle; 2: the re-test waits for port A. -/
  retest : Nat
  deriving DecidableEq, Repr

/-- An operation performed in the last cycle of a core turn (R132, R233, R272). -/
structure TurnOp where
  ctx : Nat
  slot : Nat
  op : Instr
  words : DWord
  a : DWord
  b : DWord
  c : DWord
  x4 : DWord
  x5 : DWord
  x6 : DWord
  x7 : DWord
  addr : DWord
  issue : Nat
  id : Nat
  deriving DecidableEq, Repr

/-- A change of a context's state that takes effect at the next core turn (R263). -/
inductive Change
  | start (target : Nat) (addr : DWord) (x3 x4 x5 x6 x7 seed : DWord) (fresh : Bool) (launch : Option Nat)
  | stop (target : Nat)
  | rett (target : Nat)
  | resume (target : Nat) (st : CtxState)
  deriving DecidableEq, Repr

/-- What the core keeps with a Rockpool entry (R36, R330): the items that edits of the entry's words do not change, and the requests and commands whose identity the words do not hold. -/
structure PoolCopy where
  ctx : Nat
  turn : DWord
  phaseCount : BitVec 32
  pend : Bool
  vseqSel : Half
  vseqNext : Half
  ring : List RingEntry
  base : Nat
  disp : Nat
  tagOut : Sparse Nat
  parks : List Park
  relaxed : List Relaxed
  writes : List Write
  late : List Late
  cmds : List Cmd
  launch : Option Nat
  marked : Bool
  /-- Saved F = 1 commands are refused at RESUME, a re-tide having come (R288). -/
  retided : Bool
  hold : Option Nat
  /-- A CLASS 4 write to the entry has landed (R264). -/
  nextWritten : Bool
  stepped : Option (DWord × List Nat)
  mmode : Bool
  cancelled : Bool
  seeking : Bool
  deriving DecidableEq, Repr

/-- One line of the code store (R34). -/
structure Line where
  tag : Nat
  bytes : List Byte
  deriving DecidableEq, Repr

/-- What a launch holds on one core (R307, R313). -/
structure CoreLaunch where
  id : BitVec 32
  mode : Bool
  cls : Bool
  reach : BitVec 12
  logical : Half
  own : Half
  /-- Banks of `.bank`, and of the hand-over mask (R239, R314). -/
  claim : Half
  handover : Half
  workers : Half
  /-- Logical to physical (R368). -/
  map : List Nat
  tidal : Bool
  /-- Link channels declared for this core's ports: channel, port, window, uet (R367). -/
  chans : List (Nat × Nat × Nat × Bool)
  /-- Accumulators that it claimed here at its grant, each with its context (R312, R319). -/
  accs : List (Nat × Nat)
  /-- Its tenant, and whether the core's launch before it was another tenant's (R428). -/
  tenant : BitVec 32
  wipe : Bool
  /-- Cycle from which a failed matrix column spoils what its tile products write here (R432). -/
  failure : Option Nat
  deriving DecidableEq, Repr

/-- What a receive was, as far as its entry's 32 bytes do not say it: what replay performs again (R339; log 32). -/
inductive Got
  /-- A request performed here, or the response that came. -/
  | packet (b : Body)
  | latch (cycle : Nat)
  | migration (tval : DWord)
  | descriptor
  /-- A completion outside the core, with the late fault that its command ended with. -/
  | ended (fault : Option (DWord × DWord))
  /-- One whose effect another entry has. -/
  | noted
  deriving DecidableEq, Repr

/-- An entry of the receive log (R335). -/
structure Receive where
  kind : BitVec 8
  ctx : BitVec 4
  src : Half
  sctx : BitVec 4
  tide : Nat
  value : DWord
  laddr : BitVec 19
  len : Half
  bytes : List Byte
  what : Option Got
  /-- An entry before it was overwritten before it was drained (R337). -/
  gap : Bool
  deriving DecidableEq, Repr

/-- A flit at a tidal router's input (R362): the cycle it is there, the input code, 64 bytes or void. -/
structure Flit where
  cycle : Nat
  input : Nat
  data : Option (List Byte)
  deriving DecidableEq, Repr

/-- A migration in progress (R284). -/
structure Migration where
  target : Nat
  frozen : Bool
  /-- Committed: the old logical number, and the cycle in which the hub's copies are made (R334). -/
  committed : Option (Half × Nat)
  deriving DecidableEq, Repr

/-- Pending causes of C0 (R281). -/
structure Pending where
  migration : List DWord
  timer : Bool
  wakes : List DWord
  own : List (Nat × DWord)
  /-- Worker traps: context, CAUSE and TVAL, in the order they arose. -/
  workers : List (Nat × DWord × DWord)
  deriving DecidableEq, Repr

/-- A swap in progress (R266): its context and entry, C0's wait if it waits, and the state to be recorded, once the context issues no more. -/
structure SwapJob where
  ctx : Nat
  entry : Nat
  wait : Option Nat
  was : Option CtxState
  /-- First cycle in which the entry may be marked valid (R266; log 4). -/
  due : Nat
  /-- Its unstarted commands, in issue order. -/
  cmds : List Cmd
  deriving DecidableEq, Repr

/-- One core of any kind. -/
structure Core where
  ctxs : Sparse Ctx
  ks : Sparse DWord
  ws : Sparse Vec
  writes : List Write
  tvec : DWord
  deleg : DWord
  timer : DWord
  csel : DWord
  qarb : DWord
  ls : List Host.Cell
  /-- Words whose full/empty bit is empty, by word address (R29). -/
  empties : List Nat
  code : Sparse Line
  accs : Sparse (Sparse (Sparse Word))
  claims : List (Nat × Nat)
  /-- Commands that wait outside their queue: parked at issue, or saved ones that RESUME returned (R195, R216, R332). -/
  mwait : List Cmd
  ewait : List Cmd
  mq : List Cmd
  mflight : List Cmd
  munit : Nat
  /-- One more than the cycle in which a tide-locked matrix start was last taken or refused (R196, R212). -/
  mtaken : Nat
  /-- Words that MRD writes through port B in this cycle, after every use of port A (R211): address and value, with the cycle's MRD. -/
  mwrites : List (Nat × DWord)
  /-- Tide-locked matrix commands that have completed, with the cycle until which MSYNC counts them (R210). -/
  mdone : List (Nat × Nat)
  eq : List Cmd
  eflight : List Cmd
  hazards : List Hazard
  cmdOrder : Nat
  pool : Sparse PoolCopy
  deque : List TaskRec
  chain : DWord
  /-- A spilled segment stands at local address 0 (R278; log 22). -/
  zeroSpilled : Bool
  ready : List (List DWord)
  rings : Sparse Nat
  /-- Rings for which C0 has taken 0x0E since the last successful push (R234). -/
  ringTold : List Nat
  msgs : List Msg
  watches : List Watch
  turnOps : List TurnOp
  changes : List Change
  handler : Bool
  pending : Pending
  /-- The mode to which C0's trap was delivered: true S-mode (R385). -/
  delivered : Option Bool
  routes : Sparse DWord
  shadow : Sparse DWord
  period : Nat
  tideBase : Nat
  retide : Option Nat
  flits : List Flit
  /-- Banks used at port A in this cycle (R131). -/
  used : List Nat
  /-- Words written in this cycle, with their values before the write (R133). -/
  wrote : List (Nat × DWord)
  migration : Option Migration
  /-- Requests for this core are forwarded here (R284). -/
  forward : Option Nat
  launches : List CoreLaunch
  latch : Option Nat
  /-- The launch whose replay buffer takes the log and the trace rings (R334, R337). -/
  logLaunch : Option Nat
  recvs : List Receive
  traces : Sparse (List (Nat × Half × BitVec 4 × Nat))
  lostLog : Nat
  replay : List (Nat × Receive)
  replaying : Bool
  /-- How far a replay runs behind the checkpoint's time, and the core that is replayed (R339). -/
  replayShift : Nat
  replayOf : Nat
  lastTenant : BitVec 32
  /-- Marked as degraded (R432). -/
  degraded : Bool
  /-- Swaps in progress (R266). -/
  swapping : List SwapJob
  /-- RESUMEs in progress: entry, the wait of C0, and the first cycle in which the context may be resident (R267; log 4). -/
  resuming : List (Nat × Nat × Nat)
  /-- Who last wrote a word: core and context, context 256 for an engine or matrix write (R299). -/
  writers : Sparse (Nat × Nat)
  /-- Words poisoned by an uncorrectable error (R33, R328). -/
  poison : List Nat
  emonef : Bool
  deriving DecidableEq, Repr

/-! ## Shores and coves -/

/-- A barrier object (R231). A waiter is its packet, with the generation it waits to leave. -/
structure Barrier where
  count : Nat
  arrived : Nat
  gen : Half
  init : Bool
  waiters : List (Packet × Half)
  deriving DecidableEq, Repr

/-- A cell of a cove (R243). A bridge is (DIR, J, RCOL, W). -/
structure CoveCell where
  s : Bool
  cl : Bool
  h : Half
  col : BitVec 3
  coup : List (BitVec 9 × BitVec 8)
  bridge : List (BitVec 2 × BitVec 9 × BitVec 3 × BitVec 8)
  cnt : Half
  deriving DecidableEq, Repr

/-- A sweep in progress (R245, R249): its command, its number of n, its first cycle, the schedule index of the first, ENT and BR. -/
structure Sweep where
  cmd : Nat
  s : Nat
  n : Nat
  first : Nat
  index : Nat
  ent : Bool
  br : Bool
  /-- Directions whose neighbour sweeps in lockstep, and the states held of the others (R246). -/
  lock : List Nat
  held : Sparse (List Nat)
  /-- States drawn in the phase under way, by cell. -/
  next : List (Nat × Bool)
  deriving DecidableEq, Repr

/-- A cove (R243, R248). `array` and `shadowLane` hold the command that keeps the lane, and its last cycle. -/
structure Cove where
  cells : Sparse CoveCell
  g : DWord
  active : Sparse Half
  shadow : Sparse Half
  beta : List Half
  shadowBeta : List Half
  array : Option (Nat × Nat)
  shadowLane : Option (Nat × Nat)
  /-- Core that owns the cove, and its launch. -/
  owner : Option (Nat × Nat)
  sweep : Option Sweep
  /-- Tenant of the last launch that owned the cove (R243). -/
  tenant : BitVec 32
  deriving DecidableEq, Repr

/-! ## Copies, quay cores and translation -/

/-- How far a copy has come (R343). -/
inductive CopyStage | request | queued | translating | moving | ended
  deriving DecidableEq, Repr

/-- A piece of a copy (R342): row words within one 256-byte block, or one row part of a CPYL. -/
structure Piece where
  copy : Nat
  quay : Nat
  /-- Source and destination word addresses, in order: Cliffstack physical, or core and local address. -/
  words : List (Nat × Nat)
  strand : Option Nat
  /-- Row of the copy. -/
  order : Nat
  /-- Cycle in which it joined the piece queue (R344, R348). -/
  since : Nat
  deriving DecidableEq, Repr

/-- A word on its way into a local store or a code store (R224, R286): destination core, address, row of the copy, value, cycle of arrival. -/
structure WordMove where
  id : Nat
  core : Nat
  laddr : Nat
  row : Nat
  val : DWord
  due : Nat
  deriving DecidableEq, Repr

/-- A word of a copy still to be read at port A of its core (R131, R132, R224): the core and local address, where the value goes, and the cycle in which the request is there. -/
structure WordRead where
  id : Nat
  core : Nat
  laddr : Nat
  row : Nat
  dst : Nat
  /-- Quay core that serves the piece. -/
  quay : Nat
  due : Nat
  deriving DecidableEq, Repr

/-- A copy in progress, or a code load (R220, R286). -/
structure Copy where
  id : Nat
  core : Nat
  ctx : Nat
  launch : Option Nat
  op : Instr
  a : DWord
  b : DWord
  c : DWord
  /-- Entry quay, or the strand core itself (R343). -/
  entry : Nat
  stage : CopyStage
  /-- Cycle in which its request arrives at the entry quay (R323). -/
  due : Nat
  /-- The walk it waits for. -/
  walk : Option Nat
  /-- Translations made: virtual page address, log2 of its size, physical address. -/
  pages : List (Nat × Nat × Nat)
  /-- Pieces that its entry quay still holds. -/
  toSend : List Piece
  reads : List WordRead
  /-- Words on their way; those of a CPYO go to the staging store of quay core `core`, at stack address `laddr`. -/
  moves : List WordMove
  /-- Words of P = 1 that are not in the stack. -/
  drains : List Nat
  /-- Code lines with an uncorrectable error (R286), and the next line to be written. -/
  badLines : List Nat
  next : Nat
  fault : Option (DWord × DWord)
  deriving DecidableEq, Repr

/-- A walk of the hub walker (R356). -/
structure Walk where
  id : Nat
  root : Nat
  space : Half
  instr : Bool
  va : Nat
  level : Nat
  table : Nat
  /-- Cycle in which its next entry's read arrived at its channel pair (R348). -/
  since : Nat
  deriving DecidableEq, Repr

/-- A leaf in a translation buffer (R355). -/
structure Tlb where
  space : Half
  instr : Bool
  va : Nat
  sz : Nat
  entry : DWord
  used : Nat
  deriving DecidableEq, Repr

/-- A word in a staging store (R345), in the order of entry: address, value, and the copies that wrote it, each with its launch, core and context. -/
structure Staged where
  pa : Nat
  val : DWord
  by_ : List (Nat × Option Nat × Nat × Nat)
  /-- Cycle in which it entered staging (R348). -/
  since : Nat
  deriving DecidableEq, Repr

/-- What a quay core adds to a core (R323, R344, R345, R348, R355); a strand core has the service list and translation buffer of its own datapath (R222, R347). -/
structure Quay where
  /-- Copies in the service queue. -/
  service : List Nat
  pieces : List Piece
  staging : List Staged
  tlb : List Tlb
  /-- Class of the round that is served (0 quay, 1 strand, 2 Lighthouse), and the bursts it may still have in the round. -/
  turn : Nat
  left : Nat
  /-- A burst has been granted in this round. -/
  granted : Bool
  /-- Weights of this round (R349). -/
  weights : DWord
  /-- Bursts granted and not yet used, by class. -/
  grants : Nat × Nat × Nat
  /-- Grants of each strand core in the strand class's round, and the weights of that round (R349). -/
  strands : Sparse Nat
  strandWeights : Sparse Nat
  /-- Last cycle in which some burst waited (R349). -/
  busyAt : Nat
  /-- Bursts of hub accesses other than walks that wait, in the order of their arrival: the request of each, 0 for one that is already performed, and the cycle (R346, R348; log 67). -/
  hubQueue : List (Nat × Nat)
  deriving DecidableEq, Repr

/-- A link channel (R237, R371). -/
structure Link where
  /-- Commands of the flits sent and not yet taken, in order. -/
  sent : List Nat
  /-- LSND commands with flits to send, in start order. -/
  senders : List Nat
  /-- The receive buffer: each flit with the cycle of its arrival. -/
  recv : List (Nat × List Byte)
  /-- LRCV and LRED commands, in start order. -/
  posted : List Nat
  deriving DecidableEq, Repr

/-! ## The Lighthouse -/

/-- An entry of the queue table (R389). -/
structure Queue where
  state : BitVec 2
  log2n : BitVec 4
  ports : BitVec 12
  local_ : Bool
  err : BitVec 8
  cmd : BitVec 2
  ring : DWord
  rdidx : Word
  wridx : Word
  lastseq : DWord
  droot : DWord
  iroot : DWord
  space : Half
  key : List Byte
  keyWritten : Bool
  drops : DWord
  discard : Word
  tenant : Word
  /-- Packets started and not completed: index (or none for a release), launch if any. -/
  open_ : List (Option Word × Option Nat)
  /-- Cores that still owe an acknowledgement of a reset, and what ends after it (R400). -/
  acks : List Nat
  destroy : Bool
  /-- RESETQ packets that wait for the report: queue, index, CADDR, CVAL. -/
  resetters : List (Nat × Option Word × Nat × DWord)
  /-- Completion words owed status 0x02 at the report. -/
  owed : List Nat
  deriving DecidableEq, Repr

/-- A BARRIER-AND packet that waits (R392). -/
structure BarAnd where
  queue : Nat
  index : Option Word
  words : List Nat
  caddr : Nat
  cval : DWord
  deriving DecidableEq, Repr

/-- The stages of a launch (R307, R319): draining until its slack instant is known, flushing while its staged words are written back. -/
inductive Stage | waiting | granted | latched | running | draining | flushing | cancelled
  deriving DecidableEq, Repr

/-- A launch (R307, R394). -/
structure Launch where
  id : BitVec 32
  queue : Nat
  index : Option Word
  stage : Stage
  caddr : Nat
  cval : DWord
  mode : Bool
  /-- Cores that the reach names; the reach itself is empty until a count of cores is chosen (R306). -/
  count : Nat
  /-- Physical cores of the reach in logical order. -/
  reach : List Nat
  /-- Attached engine cores: physical number and seed index (R308, R350). -/
  engines : List (Nat × Nat)
  base : DWord
  entry : DWord
  banks : Half
  handover : Half
  period : Nat
  /-- TIDE: the image has tidal tables (R412). -/
  tide : Bool
  /-- `.context` lines: lo, hi, label if any. -/
  contexts : List (Nat × Nat × Option DWord)
  /-- `.acc` lines: context, accumulator. -/
  accs : List (Nat × Nat)
  /-- `.ring` lines: id, address, entries. -/
  rings : List (Nat × Nat × Nat)
  /-- Physical cores that own their cove. -/
  coves : List Nat
  /-- Link channels: channel, port, window, whether Ultra Ethernet (R367). -/
  chans : List (Nat × Nat × Nat × Bool)
  /-- Emonef channels: channel, from, to, depth (R421). -/
  emChans : List (Nat × Nat × Nat × Nat)
  /-- The load list of each core, and the tidal table, by physical core (R395). -/
  loads : List (Nat × Nat)
  tables : List (Nat × Nat)
  /-- Ready notices that have come: core, cycle. -/
  notices : List (Nat × Nat)
  /-- Tide by which they must come (R395). -/
  deadline : Option Nat
  instant : Option Nat
  /-- Slack instant, and the cycle in which the hub has formed the AND (R319). -/
  slack : Option (Nat × Nat)
  tenant : Word
  space : Half
  droot : DWord
  iroot : DWord
  /-- A copy or code load of step 4 has faulted (R310). -/
  loadFault : Bool
  grantedCores : List Nat
  /-- Ebb wheel entry whose release started it (R404). -/
  wheel : Option Nat
  /-- x3 to x7 and SEED of the block (R394). -/
  x3 : DWord
  x4 : DWord
  x5 : DWord
  x6 : DWord
  x7 : DWord
  seed : DWord
  /-- An EMONEF object (R412, R418). -/
  emonef : Bool
  /-- Latency classes that the image accepts: bit 0 SZ4-A, bit 1 SZ4-H (R408). -/
  classes : BitVec 2
  /-- The block's DEADLINE and INSTANT (R394). -/
  allowed : Nat
  required : Nat
  /-- A clock step takes effect at its instant (R309, R430). -/
  step : Bool
  /-- The strong symbol c0entry (R440). -/
  c0entry : Option DWord
  /-- Linked code: image, instruction address, bytes (R414, R415). -/
  code : List (Nat × Nat × List Byte)
  /-- Records of the load list: of one logical core, or of every core (R417). -/
  records : List (Option Nat × List DWord)
  deriving DecidableEq, Repr

/-- A ring of 32-byte records in the hub (R386). -/
structure HubRing where
  recs : Sparse (List DWord)
  head : Word
  tail : Word
  deriving DecidableEq, Repr

/-- An entry of the Ebb wheel (R403). -/
structure WheelEntry where
  owner : BitVec 10
  armed : Bool
  busy : Bool
  due : DWord
  period : DWord
  rpkt : DWord
  /-- The launch that BUSY stands for. -/
  released : Option Nat
  deriving DecidableEq, Repr

/-- A peer window (R387). -/
structure PeerWindow where
  base : DWord
  target : DWord
  ctl : DWord
  deriving DecidableEq, Repr

/-- A hart of the Lighthouse (R378, R380; log 47). -/
structure Hart where
  pc : DWord
  xs : Sparse DWord
  mode : HartMode
  /-- Its CSRs by number, but for those that show other state. -/
  csrs : Sparse DWord
  mtimecmp : DWord
  msip : DWord
  timerPending : Bool
  reservation : Option (Nat × Bool)
  /-- The value that its last access of LIGHTHOUSE_LOAD_STORE returned. -/
  result : DWord
  /-- That access raised an access fault (R379), or a misaligned exception (R378). -/
  fault : Bool
  misaligned : Bool
  /-- Halted by the management port (R428). -/
  halted : Bool
  deriving DecidableEq, Repr

/-- A watch of the Lighthouse (R377, R381, R405). -/
structure HartWatch where
  booted : Bool
  active : Bool
  /-- The harts' clock at its last beat, in 63rds of a cycle of theirs (R405). -/
  lastBeat : Nat
  beats : DWord
  irq : DWord
  sirq : DWord
  gqstate : DWord
  sram : List Host.Cell
  svn : Half
  digest : List Byte
  entry : DWord
  inReset : Bool
  bootReason : Nat
  deriving DecidableEq, Repr

/-- A checkpoint of a core (R338): its state, its cove's, the cycle, and the launch. -/
structure Snapshot where
  cycle : Nat
  core : Core
  cove : Cove
  launch : Option Launch
  deriving DecidableEq, Repr

/-- What the hub does only once the channels have granted the bursts of its reads of Cliffstack (R346, R348). -/
inductive HubAsk
  /-- A queue's next act. -/
  | queue (q : Nat)
  /-- A re-check of the BARRIER-AND packets that wait. -/
  | barriers
  deriving DecidableEq, Repr

/-- The hub and the Lighthouse (R377 to R407, R426 to R434). -/
structure Hub where
  queues : Sparse Queue
  launches : List Launch
  launchCount : BitVec 32
  barAnds : List BarAnd
  notice : HubRing
  sTrap : HubRing
  mTrap : HubRing
  ctlData : DWord
  ctlStatus : DWord
  sdSel : DWord
  sdVa : DWord
  sdLen : DWord
  sdStatus : DWord
  /-- Copies and walks that a shootdown waits for (R357). -/
  sdWait : List Nat
  windows : Sparse PeerWindow
  notifyBase : Sparse DWord
  malformed : Sparse Nat
  errors : Sparse Nat
  links : Sparse DWord
  wheel : Sparse WheelEntry
  harts : Sparse Hart
  watches : Sparse HartWatch
  power : DWord
  temps : Sparse (BitVec 8)
  hot : List Nat
  powered : Bool
  lifecycle : BitVec 2
  debug : BitVec 2
  ownerHash : List Byte
  revoked : List (List Byte)
  svnMin : Half
  /-- Nonces issued, the latest first, each with the harts' clock then in 63rds of a cycle of theirs (R427). -/
  nonces : List (List Byte × Nat)
  supDigest : List Byte
  report : List Byte
  /-- Requests to Cliffstack under way: what they are for, their names, and the bursts still to be granted (R348; log 67). -/
  asks : List (HubAsk × Nat × Nat)
  /-- What the management port has been told of failures: the step of a bring-up that failed, 7 for a thermal trip (R433, R434). -/
  portReports : List Nat
  /-- The supervisor has been verified and started (R434). -/
  supervised : Bool
  /-- Entries of receive logs and trace rings drained into the replay buffer, by core, and checkpoints, by core (R337, R338). -/
  drained : List (Nat × Receive)
  drainedTraces : List (Nat × Nat × Half × BitVec 4 × Nat)
  snapshots : Sparse Snapshot
  /-- The next free address of each launch's replay buffer in Cliffstack (R337). -/
  replayAt : Sparse Nat
  /-- Replay capture is enabled (R337). -/
  capture : Bool
  /-- Notices to M-mode: their kind and value (R328, R359, R373, R432). -/
  mNotices : List (Nat × DWord)
  /-- Corrected errors and invalidated code lines, counted for M-mode (R328, R359). -/
  corrections : Nat
  /-- Firmware notices with no effect of their own (R386). -/
  otherNotices : Nat
  /-- What the management port last read (R428). -/
  portReply : List Byte
  /-- What a peer last read; none for an error completion (R374). -/
  peerReply : Option (List Byte)
  /-- Migration requests that the Lighthouse has still to raise (R326, R407). -/
  migrations : List (Nat × DWord)
  /-- Latencies that training locked, at the three clock steps (R430). -/
  trained : Sparse (List (BitVec 12))
  /-- Device cycle of the last clock step, and the clock of the harts then in 63rds of a cycle of theirs (R378, R430). -/
  clockBase : Nat × Nat
  deriving DecidableEq, Repr

/-! ## The issue of a bundle -/

/-- A failed check of R61: step, cause, TVAL. -/
structure Trap where
  step : Nat
  cause : Nat
  tval : DWord
  deriving DecidableEq, Repr

/-- How exec treats an operation: `check` only notes a failed check; `perform` has the effect, its bundle's checks having passed; `whole` checks and then performs or traps, as for a bundle of that operation alone. -/
inductive IssuePhase | check | perform | whole
  deriving DecidableEq, Repr

/-- The bundle being issued (R61, R121). The model's own: see log 6. -/
structure Frame where
  core : Nat
  ctx : Nat
  phase : IssuePhase
  addr : DWord
  hdr : Half
  len : Nat
  slot : Nat
  words : DWord
  guard : Bool
  noted : Option (Nat × Trap)
  /-- Target of a performed branch (R46). -/
  target : Option DWord
  /-- Level that a LOOP of this bundle opens (R121). -/
  opened : Option Level
  /-- TRAP or BRK, taken after the bundle (R279). -/
  after : Option (Nat × DWord)
  /-- Commands dispatched, for the step trap (R283). -/
  cmds : List Nat
  /-- RETT was performed: the next bundle is EPC (R282). -/
  rett : Bool
  /-- SEED as the bundle's operations have stepped it (R84). -/
  seed : Option DWord
  /-- Contexts for which this bundle's SWAP was the first to defer (R44, R278). -/
  deferrals : List Nat
  deriving DecidableEq, Repr

/-- The parts of a cycle, in order. The model's own: see log 5. -/
inductive Phase | land | boundary | instants | issue | turnEnd | network | units | portA | copies | hub | close
  deriving DecidableEq, Repr

/-- What is left to do in this cycle. -/
inductive Todo
  | phase (p : Phase)
  | issue (core ctx : Nat)
  deriving DecidableEq, Repr

/-- What happens to the package and no row of the opcode table names: soft errors of the stores (R328, R359), a peer's atomic request (R374), and the execution of a hart's next instruction (R378). Log 68. -/
inductive Happening
  /-- One that the store's code corrects. -/
  | corrected
  /-- An uncorrectable one in a codeword of Cliffstack, by address ÷ 32. -/
  | codeword (k : Nat)
  /-- One in a staged word of a quay core. -/
  | staged (quay pa : Nat)
  /-- One in an entry of a translation buffer, by its holder and place. -/
  | tlb (holder n : Nat)
  /-- One in a line of a code store. -/
  | codeLine (core slot : Nat)
  /-- An atomic request arrives at a peer port. -/
  | peerAtomic (port : Nat)
  /-- A hart executes its next instruction, or takes its next trap. -/
  | hartStep (hart : Nat)
  deriving DecidableEq, Repr

/-- An SZ4 package. -/
structure State where
  /-- Device cycle, and tide counter modulo 2^64 (R5). -/
  now : Nat
  cores : Sparse Core
  /-- Barrier objects, by 32 × (64 × die + shore) + number (R231). -/
  barriers : Sparse Barrier
  /-- Coves, by 64 × die + shore (R241). -/
  coves : Sparse Cove
  cliff : List Host.Cell
  /-- Codewords of Cliffstack with an uncorrectable error, by address ÷ 32 (R359). -/
  cliffBad : List Nat
  quays : Sparse Quay
  /-- Link channels, by 256 × port + channel: ports 0 to 15 of the strand cores, and 16 + n for Ultra Ethernet port n. -/
  linkChans : Sparse Link
  packets : List Packet
  /-- Outputs of the routers, by channel, router and next router: the cycle from which each is free, and the input last served (R322). -/
  eddyOuts : Sparse (Nat × Nat)
  /-- Credits of the die pairs' eddy lanes on their way back: the cycles of their return, by the same names (R369). -/
  eddyCredits : Sparse (List Nat)
  copies : List Copy
  walks : List Walk
  /-- Flits on tidal lanes and link channels between packages: arrival cycle, port, channel, data. -/
  linkOut : List (Nat × Nat × Nat × List Byte)
  hub : Hub
  /-- Counter of names for requests, commands and copies. -/
  ids : Nat
  /-- Counter of free values (log 3). -/
  free : Nat
  frame : Frame
  todo : List Todo
  /-- Events from outside the package and the cycle of each (log 5). -/
  inputs : List (Nat × Instr)
  /-- Link channel last served in each port's round (R371). -/
  linkRound : Sparse Nat
  /-- What else happens to the package, and the cycle of each (log 68). -/
  happenings : List (Nat × Happening)
  /-- Emonef channels: how many messages of each were sent and not yet received (R420). -/
  emSent : Sparse Nat
  /-- Emonef channel declarations: FROM, TO, DEPTH (R421). -/
  emDecls : Sparse (Nat × Nat × Nat)
  deriving DecidableEq, Repr

/-! ## Reset (R38) -/

/-- A worker context after reset (R38). -/
def Ctx.reset : Ctx where
  st := .free
  turn := 0
  ran := false
  next := 0
  hold := none
  xs := []
  vs := []
  qs := 1
  fcr := 0
  tags := 0
  tagOut := []
  seed := 0x9E3779B97F4A7C15
  seedWrite := none
  epc := 0
  cause := 0
  tval := 0
  check := 0x10000000
  phaseCount := 0
  pend := false
  vseqSel := 0
  vseqNext := 0
  ring := []
  levels := []
  frozen := 0
  capture := []
  nextWritten := false
  epcWritten := false
  base := 0
  disp := 0
  parks := []
  relaxed := []
  late := []
  backlog := []
  lost := 0
  foot := []
  launch := none
  seeking := false
  deferred := none
  marked := false
  stepped := none
  mmode := false
  cancelled := false

/-- C0 after reset: STOP (R38). -/
def Ctx.resetC0 : Ctx := { Ctx.reset with st := .stop }

/-- Nothing pending (R281). -/
def Pending.reset : Pending := ⟨[], false, [], [], []⟩

/-- A core after reset (R38). -/
def Core.reset : Core where
  ctxs := [(0, Ctx.resetC0)]
  ks := []
  ws := []
  writes := []
  tvec := 0
  deleg := 0
  timer := 0
  csel := 0
  qarb := 0x102040
  ls := []
  empties := []
  code := []
  accs := []
  claims := []
  mwait := []
  ewait := []
  mq := []
  mflight := []
  munit := 0
  mtaken := 0
  mwrites := []
  mdone := []
  eq := []
  eflight := []
  hazards := []
  cmdOrder := 0
  pool := []
  deque := []
  chain := 0
  zeroSpilled := false
  ready := [[], [], [], []]
  rings := []
  ringTold := []
  msgs := []
  watches := []
  turnOps := []
  changes := []
  handler := false
  pending := Pending.reset
  delivered := none
  routes := []
  shadow := []
  period := 1
  tideBase := 0
  retide := none
  flits := []
  used := []
  wrote := []
  migration := none
  forward := none
  launches := []
  latch := none
  recvs := []
  traces := []
  lostLog := 0
  logLaunch := none
  replay := []
  replaying := false
  replayShift := 0
  replayOf := 0
  lastTenant := 0
  degraded := false
  swapping := []
  resuming := []
  writers := []
  poison := []
  emonef := false

/-- A barrier object after reset: INIT = 0 (R231). Log 1 for the rest. -/
def Barrier.reset : Barrier := ⟨0, 0, 0, false, []⟩
/-- A cell after reset: clamped at 0 (R243). -/
def CoveCell.reset : CoveCell := ⟨false, true, 0, 0, [], [], 0⟩
/-- A cove after reset (R243). -/
def Cove.reset : Cove := ⟨[], 0, [], [], [0x0100], [0x0100], none, none, none, none, 0⟩
/-- A quay core's own state after reset. -/
def Quay.reset : Quay := ⟨[], [], [], [], 0, 0x40, false, 0x102040, (0, 0, 0), [], [], 0, []⟩
/-- A link channel after reset. -/
def Link.reset : Link := ⟨[], [], [], []⟩
/-- A queue-table entry after reset: STATE 0 (R389). Log 1 for the rest. -/
def Queue.reset : Queue :=
  ⟨0, 0, 0, false, 0, 0, 0, 0, 0, 0, 0, 0, 0, List.replicate 32 0, false, 0, 0, 0, [], [], false, [], []⟩
/-- A free entry of the Ebb wheel (R403). -/
def WheelEntry.reset : WheelEntry := ⟨0, false, false, 0, 0, 0, none⟩
/-- A peer window after reset: EN = 0. Log 1. -/
def PeerWindow.reset : PeerWindow := ⟨0, 0, 0⟩
/-- A hart after reset: at the start of the boot ROM, in M-mode (R381). Log 1. -/
def Hart.reset : Hart := ⟨0x8001000000, [], .machine, [], 0, 0, false, none, 0, false, false, false⟩
/-- A watch after reset, in its boot ROM (R381). -/
def HartWatch.reset : HartWatch := ⟨false, false, 0, 0, 0, 0, 0, [], 0, [], 0, false, 0⟩
/-- An empty ring of the hub (R386). -/
def HubRing.reset : HubRing := ⟨[], 0, 0⟩

/-- The hub after reset. -/
def Hub.reset : Hub where
  queues := []
  launches := []
  launchCount := 0
  barAnds := []
  notice := HubRing.reset
  sTrap := HubRing.reset
  mTrap := HubRing.reset
  ctlData := 0
  ctlStatus := 0
  sdSel := 0
  sdVa := 0
  sdLen := 0
  sdStatus := 0
  sdWait := []
  windows := []
  notifyBase := []
  malformed := []
  errors := []
  links := []
  wheel := []
  harts := []
  watches := []
  power := 0
  temps := []
  hot := []
  powered := true
  lifecycle := 0
  debug := 0
  ownerHash := []
  revoked := []
  svnMin := 0
  nonces := []
  supDigest := List.replicate 64 0
  report := []
  asks := []
  portReports := []
  supervised := false
  drained := []
  drainedTraces := []
  snapshots := []
  replayAt := []
  capture := false
  mNotices := []
  corrections := 0
  otherNotices := 0
  portReply := []
  peerReply := none
  migrations := []
  trained := []
  clockBase := (0, 0)

/-- No bundle is being issued. Log 6. -/
def Frame.reset : Frame where
  core := 0
  ctx := 0
  phase := .whole
  addr := 0
  hdr := 0
  len := 0
  slot := 0
  words := 0
  guard := true
  noted := none
  target := none
  opened := none
  after := none
  cmds := []
  rett := false
  seed := none
  deferrals := []

/-- The package right after reset (R38, R434 step 1). -/
def State.reset : State where
  now := 0
  cores := []
  barriers := []
  coves := []
  cliff := []
  cliffBad := []
  quays := []
  linkChans := []
  packets := []
  eddyOuts := []
  eddyCredits := []
  copies := []
  walks := []
  linkOut := []
  hub := Hub.reset
  ids := 1
  free := 0
  frame := Frame.reset
  todo := []
  inputs := []
  linkRound := []
  happenings := []
  emSent := []
  emDecls := []

end Sys2Proof.Machine
end

