-- ==== Sys2Proof/Machine/Sparse.lean ====
section
/-! DEFINITION. Operations over sparse maps and over memories, and the little-endian order of bytes (spec/00_scope.md R6). A memory lists its non-zero bytes in strictly rising order; an unlisted byte reads 0 (R38 for local stores, log 2 for Cliffstack). -/
namespace Sys2Proof.Machine

/-- The value at a key, `d` where the key is not listed. -/
def look {α : Type} (d : α) : Sparse α → Nat → α
  | [], _ => d
  | (j, v) :: t, k => if k = j then v else look d t k
/-- The value at a key, if it is listed. -/
def find {α : Type} : Sparse α → Nat → Option α
  | [], _ => none
  | (j, v) :: t, k => if k = j then some v else find t k
/-- The map with key `k` listed with `v`. -/
def put {α : Type} : Sparse α → Nat → α → Sparse α
  | [], k, v => [(k, v)]
  | (j, u) :: t, k, v =>
    if k < j then (k, v) :: (j, u) :: t else if k = j then (k, v) :: t else (j, u) :: put t k v
/-- The map without key `k`. -/
def del {α : Type} : Sparse α → Nat → Sparse α
  | [], _ => []
  | (j, u) :: t, k => if k = j then del t k else (j, u) :: del t k
/-- The keys that are listed. -/
def keys {α : Type} (m : Sparse α) : List Nat := m.map (·.1)

/-- The numbers a, a + 1, …, of which there are n. -/
def upFrom (a : Nat) : Nat → List Nat
  | 0 => []
  | n + 1 => a :: upFrom (a + 1) n
/-- The numbers 0 to n − 1. -/
def upTo (n : Nat) : List Nat := upFrom 0 n
/-- The element at an index, if there is one. -/
def nth {α : Type} : List α → Nat → Option α
  | [], _ => none
  | a :: _, 0 => some a
  | _ :: t, n + 1 => nth t n
/-- The element at an index, `d` beyond the end. -/
def nthD {α : Type} (d : α) : List α → Nat → α
  | [], _ => d
  | a :: _, 0 => a
  | _ :: t, n + 1 => nthD d t n
/-- The list with its element at an index replaced. -/
def setNth {α : Type} : List α → Nat → α → List α
  | [], _, _ => []
  | _ :: t, 0, v => v :: t
  | a :: t, n + 1, v => a :: setNth t n v
/-- The list without its element at an index. -/
def delNth {α : Type} : List α → Nat → List α
  | [], _ => []
  | _ :: t, 0 => t
  | a :: t, n + 1 => a :: delNth t n
/-- A list in ascending order of a key: insertion keeps earlier elements first among equals. -/
def insertBy {α : Type} (key : α → Nat) (a : α) : List α → List α
  | [] => [a]
  | b :: t => if key a < key b then a :: b :: t else b :: insertBy key a t
/-- Sorting by a key, stable. -/
def sortBy {α : Type} (key : α → Nat) : List α → List α
  | [] => []
  | a :: t => insertByFront key a (sortBy key t)
where
  /-- Insertion that keeps the inserted element before its equals. -/
  insertByFront (key : α → Nat) (a : α) : List α → List α
    | [] => [a]
    | b :: t => if key b < key a then b :: insertByFront key a t else a :: b :: t
/-- The sum of a list of numbers. -/
def total : List Nat → Nat
  | [] => 0
  | a :: t => a + total t
/-- The first element that satisfies a test. -/
def firstOf {α : Type} (p : α → Bool) : List α → Option α
  | [] => none
  | a :: t => if p a then some a else firstOf p t

/-! ## Memories -/

/-- A canonical memory: addresses strictly rising, no entry equal to what an unlisted address reads as. -/
abbrev Memory.wf (m : List Host.Cell) : Prop := m.Pairwise (fun a b => a.1 < b.1) ∧ ∀ c ∈ m, c.2 ≠ 0

/-- One byte. -/
def memGet (m : List Host.Cell) (a : Nat) : Byte := look 0 m a
/-- One byte written. -/
def memSet (m : List Host.Cell) (a : Nat) (b : Byte) : List Host.Cell :=
  if b = 0 then del m a else put m a b
/-- n bytes from a, as a natural number, little-endian. -/
def memRead (m : List Host.Cell) (a : Nat) : Nat → Nat
  | 0 => 0
  | n + 1 => (memGet m a).toNat + 256 * memRead m (a + 1) n
/-- The low n bytes of v at a, little-endian. -/
def memWrite (m : List Host.Cell) (a : Nat) : Nat → Nat → List Host.Cell
  | 0, _ => m
  | n + 1, v => memWrite (memSet m a (BitVec.ofNat 8 v)) (a + 1) n (v / 256)
/-- The bytes from a, of which there are n. -/
def memBytes (m : List Host.Cell) (a : Nat) : Nat → List Byte
  | 0 => []
  | n + 1 => memGet m a :: memBytes m (a + 1) n
/-- Bytes written from a on. -/
def memPutBytes (m : List Host.Cell) (a : Nat) : List Byte → List Host.Cell
  | [] => m
  | b :: t => memPutBytes (memSet m a b) (a + 1) t
/-- Little-endian bytes of the low n bytes of v. -/
def bytesOf (n v : Nat) : List Byte := (upTo n).map fun i => BitVec.ofNat 8 (v / 256 ^ i)
/-- A natural number from little-endian bytes. -/
def natOf : List Byte → Nat
  | [] => 0
  | b :: t => b.toNat + 256 * natOf t
/-- The 64-bit word at byte offset o of a list of bytes. -/
def wordAt (bs : List Byte) (o : Nat) : DWord := BitVec.ofNat 64 (natOf ((bs.drop o).take 8))

end Sys2Proof.Machine
end

