-- ==== Sys2Proof/Machine/Crypto.lean ====
section
/-! DEFINITION. The standards that the Lighthouse's rules name: SHA-512 (FIPS 180-4), HMAC-SHA-512 (RFC 2104) and Ed25519 (RFC 8032) (spec/17_lighthouse_and_harbour_queues.md R381, R382, R397; spec/18_compatibility_and_code_loading.md R415; spec/19_security_power_and_degraded_modes.md R427; log 10). -/
namespace Sys2Proof.Machine

/-! ## SHA-2 -/

/-- The largest number below 2^b, with acc added, that passes a monotone test. -/
def rootBits (f : Nat → Bool) : Nat → Nat → Nat
  | 0, acc => acc
  | b + 1, acc => rootBits f b (if f (acc + 2 ^ b) then acc + 2 ^ b else acc)
/-- The first 80 primes. -/
def primes80 : List Nat := (upFrom 2 408).filter fun n => (upFrom 2 (n - 2)).all fun d => n % d != 0
/-- The first 64 bits of the fractional part of a prime's cube root: a round constant. -/
def cubeFrac (p : Nat) : DWord := BitVec.ofNat 64 (rootBits (fun x => x ^ 3 ≤ p * 2 ^ 192) 68 0)
/-- The first 64 bits of the fractional part of a prime's square root: an initial hash word. -/
def squareFrac (p : Nat) : DWord := BitVec.ofNat 64 (rootBits (fun x => x ^ 2 ≤ p * 2 ^ 128) 69 0)
/-- Three rotations combined. -/
def rot3 (a b c : Nat) (x : DWord) : DWord := x.rotateRight a ^^^ x.rotateRight b ^^^ x.rotateRight c
/-- Two rotations and a shift combined. -/
def rotShift (a b c : Nat) (x : DWord) : DWord := x.rotateRight a ^^^ x.rotateRight b ^^^ (x >>> c)
/-- A big-endian number. -/
def beNat (bs : List Byte) : Nat := bs.foldl (fun v b => 256 * v + b.toNat) 0
/-- n big-endian bytes of a number. -/
def beBytes (n v : Nat) : List Byte := (bytesOf n v).reverse
/-- n further words of the message schedule; the words so far, latest first. -/
def schedule : Nat → List DWord → List DWord
  | 0, ws => ws
  | n + 1, ws => schedule n ((rotShift 19 61 6 (nthD 0 ws 1) + nthD 0 ws 6 + rotShift 1 8 7 (nthD 0 ws 14) + nthD 0 ws 15) :: ws)
/-- One round on the eight working words. -/
def shaRound (v : List DWord) (kw : DWord × DWord) : List DWord :=
  match v with
  | [a, b, c, d, e, f, g, h] =>
    let t1 := h + rot3 14 18 41 e + ((e &&& f) ^^^ (~~~e &&& g)) + kw.1 + kw.2
    let t2 := rot3 28 34 39 a + ((a &&& b) ^^^ (a &&& c) ^^^ (b &&& c))
    [t1 + t2, a, b, c, d + t1, e, f, g]
  | v => v
/-- A block of 128 bytes folded into the hash. -/
def shaBlock (ks : List DWord) (h : List DWord) (block : List Byte) : List DWord :=
  let first := (upTo 16).map fun i => BitVec.ofNat 64 (beNat ((block.drop (8 * i)).take 8))
  let ws := (schedule 64 first.reverse).reverse
  List.zipWith (· + ·) h ((ks.zip ws).foldl shaRound h)
/-- Blocks folded in, in order. -/
def shaBlocks (ks : List DWord) : Nat → List Byte → List DWord → List DWord
  | 0, _, h => h
  | n + 1, bs, h => shaBlocks ks n (bs.drop 128) (shaBlock ks h (bs.take 128))
/-- SHA-512. -/
def sha512 (m : List Byte) : List Byte :=
  let pad := (128 - (m.length + 17) % 128) % 128
  let whole := m ++ [0x80] ++ List.replicate pad 0 ++ beBytes 16 (8 * m.length)
  ((shaBlocks (primes80.map cubeFrac) (whole.length / 128) whole ((primes80.take 8).map squareFrac)).map
    fun x => beBytes 8 x.toNat).flatten
/-- HMAC-SHA-512 under a key of at most 128 bytes. -/
def hmac512 (key m : List Byte) : List Byte :=
  let k := key ++ List.replicate (128 - key.length) 0
  sha512 ((k.map (· ^^^ 0x5C)) ++ sha512 ((k.map (· ^^^ 0x36)) ++ m))

/-! ## Ed25519 -/

/-- The field's prime. -/
def edP : Nat := 2 ^ 255 - 19
/-- The order of the base point. -/
def edL : Nat := 2 ^ 252 + 27742317777372353535851937790883648493
/-- b^e modulo m, e of at most n bits. -/
def powMod (m : Nat) : Nat → Nat → Nat → Nat
  | 0, _, _ => 1 % m
  | n + 1, b, e =>
    let r := powMod m n (b * b % m) (e / 2)
    if e % 2 = 1 then b * r % m else r
/-- The inverse in the field. -/
def edInv (x : Nat) : Nat := powMod edP 255 x (edP - 2)
/-- The difference in the field. -/
def edSub (a b : Nat) : Nat := (a + edP - b % edP) % edP
/-- The curve's constant. -/
def edD : Nat := edSub 0 (121665 * edInv 121666 % edP)
/-- A point in extended coordinates X, Y, Z, T. -/
abbrev Point := Nat × Nat × Nat × Nat
/-- The sum of two points. -/
def edAdd (p q : Point) : Point :=
  let (x1, y1, z1, t1) := p
  let (x2, y2, z2, t2) := q
  let a := edSub y1 x1 * edSub y2 x2 % edP
  let b := (y1 + x1) * (y2 + x2) % edP
  let c := 2 * t1 * t2 * edD % edP
  let d := 2 * z1 * z2 % edP
  let e := edSub b a
  let f := edSub d c
  let g := (d + c) % edP
  let h := (b + a) % edP
  (e * f % edP, g * h % edP, f * g % edP, e * h % edP)
/-- A multiple of a point, by a number of at most n bits. -/
def edMul : Nat → Nat → Point → Point
  | 0, _, _ => (0, 1, 1, 0)
  | n + 1, k, q =>
    let r := edMul n (k / 2) (edAdd q q)
    if k % 2 = 1 then edAdd q r else r
/-- Two points are the same. -/
def edEq (p q : Point) : Bool :=
  (p.1 * q.2.2.1 % edP == q.1 * p.2.2.1 % edP) && (p.2.1 * q.2.2.1 % edP == q.2.1 * p.2.2.1 % edP)
/-- The point of a y coordinate and a sign, if there is one. -/
def edPoint (y sign : Nat) : Option Point :=
  if edP ≤ y then none else
  let u := edSub (y * y) 1
  let v := (edD * (y * y % edP) + 1) % edP
  let x2 := u * edInv v % edP
  if x2 = 0 then (if sign = 1 then none else some (0, y, 1, 0)) else
  let r := powMod edP 255 x2 ((edP + 3) / 8)
  let x := if r * r % edP = x2 then r else r * powMod edP 255 2 ((edP - 1) / 4) % edP
  if x * x % edP ≠ x2 then none else
  let x := if x % 2 = sign then x else edP - x
  some (x, y, 1, x * y % edP)
/-- The base point. -/
def edBase : Point := (edPoint (4 * edInv 5 % edP) 0).getD (0, 1, 1, 0)
/-- The point of 32 bytes. -/
def edDecode (bs : List Byte) : Option Point :=
  let n := natOf bs
  edPoint (n % 2 ^ 255) (n / 2 ^ 255)
/-- The 32 bytes of a point. -/
def edEncode (p : Point) : List Byte :=
  let zi := edInv p.2.2.1
  let x := p.1 * zi % edP
  let y := p.2.1 * zi % edP
  bytesOf 32 (y + 2 ^ 255 * (x % 2))
/-- A signature of a message is valid under a key. -/
def edVerify (key m sig : List Byte) : Bool :=
  let s := natOf ((sig.drop 32).take 32)
  match edDecode key, edDecode (sig.take 32) with
  | some a, some r =>
    let k := natOf (sha512 (sig.take 32 ++ key ++ m)) % edL
    decide (s < edL) && edEq (edMul 256 (8 * s) edBase) (edAdd (edMul 4 8 r) (edMul 256 k (edMul 4 8 a)))
  | _, _ => false
/-- The secret scalar and the prefix of a seed. -/
def edSecret (seed : List Byte) : Nat × List Byte :=
  let h := sha512 seed
  let a := natOf (h.take 32)
  (2 ^ 254 + a % 2 ^ 254 / 8 * 8, h.drop 32)
/-- The public key of a seed. -/
def edPublic (seed : List Byte) : List Byte := edEncode (edMul 256 (edSecret seed).1 edBase)
/-- The signature of a message under a seed. -/
def edSign (seed m : List Byte) : List Byte :=
  let (a, pre) := edSecret seed
  let r := natOf (sha512 (pre ++ m)) % edL
  let rb := edEncode (edMul 256 r edBase)
  let k := natOf (sha512 (rb ++ edPublic seed ++ m)) % edL
  rb ++ bytesOf 32 ((r + k * a) % edL)
/-- The first 32 bytes of SHA-512 of a key (R381). -/
def keyHash (key : List Byte) : List Byte := (sha512 key).take 32

end Sys2Proof.Machine
end

