-- ==== Sys2Proof/Machine/Float.lean ====
section
/-! DEFINITION. Floating-point formats, exact arithmetic and its one rounding (spec/03_number_formats.md R70 to R96). A finite value is a sign and a natural magnitude times a power of two; a quotient keeps its denominator, so every result is exact until it is rounded once. -/
namespace Sys2Proof.Machine

/-- A floating-point format: fraction bits, bias, exponent bits, whether exponent all ones holds Inf and NaN (wide formats and E5M2), and whether fraction all ones there is the only NaN (E4M3) (R70, R72). -/
structure Ff where
  f : Nat
  bias : Nat
  w : Nat
  ieee : Bool
  e4m3 : Bool
  deriving DecidableEq, Repr

/-- FP32 (R70). -/
def ffF32 : Ff := ⟨23, 127, 8, true, false⟩
/-- BF16 (R70). -/
def ffBf16 : Ff := ⟨7, 127, 8, true, false⟩
/-- FP16 (R70). -/
def ffF16 : Ff := ⟨10, 15, 5, true, false⟩
/-- The wide formats (R70). -/
def ffOf : FpTy → Ff
  | .f32 => ffF32 | .bf16 => ffBf16 | .f16 => ffF16
/-- The formats of R49; MXINT8 is not one and stands as E2M1 here, its callers treat it apart. -/
def ffOfFmt : Fmt → Ff
  | .e4m3 => ⟨3, 7, 4, false, true⟩
  | .e5m2 => ⟨2, 15, 5, true, false⟩
  | .e3m2 => ⟨2, 3, 3, false, false⟩
  | .e2m3 => ⟨3, 1, 2, false, false⟩
  | .e2m1 => ⟨1, 1, 2, false, false⟩
  | .mxint8 => ⟨1, 1, 2, false, false⟩
  | .bf16 => ffBf16
  | .fp16 => ffF16
/-- Width of a format in bits. -/
def Ff.width (t : Ff) : Nat := 1 + t.w + t.f
/-- The sign bit of a pattern. -/
def Ff.sign (t : Ff) (neg : Bool) : Nat := if neg then 2 ^ (t.w + t.f) else 0
/-- The pattern of infinity (R70, R72). -/
def Ff.inf (t : Ff) (neg : Bool) : Nat := t.sign neg + (2 ^ t.w - 1) * 2 ^ t.f
/-- The canonical NaN (R70, R72). -/
def Ff.nan (t : Ff) : Nat :=
  if t.e4m3 then 0x7F else (2 ^ t.w - 1) * 2 ^ t.f + (if t.width = 8 then 2 else 2 ^ (t.f - 1))
/-- The pattern of the largest finite magnitude (R70, R72). -/
def Ff.max (t : Ff) (neg : Bool) : Nat :=
  t.sign neg + (if t.ieee then (2 ^ t.w - 1) * 2 ^ t.f - 1 else if t.e4m3 then 0x7E else 2 ^ (t.w + t.f) - 1)

/-- A number: NaN (signalling or quiet), infinity, or the finite (−1)^neg × m × 2^e. -/
inductive Num
  | nan (sig : Bool) | inf (neg : Bool) | fin (neg : Bool) (m : Nat) (e : Int)
  deriving DecidableEq, Repr

/-- The value of a pattern (R70, R72). -/
def Ff.num (t : Ff) (bits : Nat) : Num :=
  let neg := bits / 2 ^ (t.w + t.f) % 2 == 1
  let ex := bits / 2 ^ t.f % 2 ^ t.w
  let fr := bits % 2 ^ t.f
  if t.ieee && ex == 2 ^ t.w - 1 then
    if fr == 0 then .inf neg else .nan (t.width != 8 && fr < 2 ^ (t.f - 1))
  else if t.e4m3 && ex == 15 && fr == 7 then .nan false
  else if ex == 0 then .fin neg fr (1 - (t.bias : Int) - t.f)
  else .fin neg (2 ^ t.f + fr) ((ex : Int) - t.bias - t.f)
/-- MXINT8 (R73). -/
def mxNum (bits : Nat) : Num :=
  if bits % 256 < 128 then .fin false (bits % 256) (-6) else .fin true (256 - bits % 256) (-6)
/-- The value of an element of a block (R49, R72, R73). -/
def fmtNum (t : Fmt) (bits : Nat) : Num :=
  if t = .mxint8 then mxNum bits else (ffOfFmt t).num (bits % 2 ^ t.width)

/-- Flags in the order of FCR[12:8]: NV 16, DZ 8, OF 4, UF 2, NX 1 (R21). -/
abbrev Fl := BitVec 5
/-- NV. -/
def flNV : Fl := 16
/-- DZ. -/
def flDZ : Fl := 8
/-- OF with NX. -/
def flOF : Fl := 5
/-- UF with NX. -/
def flUF : Fl := 3
/-- NX. -/
def flNX : Fl := 1

/-- An effective mode: SR carries the element's draw g (R77, R83). -/
inductive Mode
  | rne | rtz | rdn | rup | sr (g : Nat)
  deriving DecidableEq, Repr

/-- An exact result before rounding: NaN, infinity, a signed zero, or (−1)^neg × num ÷ den × 2^e with num and den positive. -/
inductive Exact
  | nan | inf (neg : Bool) | zero (neg : Bool) | mag (neg : Bool) (num den : Nat) (e : Int)
  deriving DecidableEq, Repr

/-- 2^n for an integer exponent, as a pair numerator, denominator. -/
def scale2 (n : Int) : Nat × Nat := if 0 ≤ n then (2 ^ n.toNat, 1) else (1, 2 ^ (-n).toNat)
/-- Floor of log2 of num ÷ den × 2^e. -/
def floorLog2 (num den : Nat) (e : Int) : Int :=
  let k : Int := (Nat.log2 num : Int) - (Nat.log2 den : Int)
  -- num ÷ den lies in [2^(k−1), 2^(k+1)).
  let (p, q) := scale2 k
  (if den * p ≤ num * q then k else k - 1) + e
/-- Whether a magnitude t + r ÷ d of units is rounded up to t + 1 (R77, R83). -/
def roundsUp (m : Mode) (neg : Bool) (t r d : Nat) : Bool :=
  if r = 0 then false else
  match m with
  | .rne => d < 2 * r || (2 * r == d && t % 2 == 1)
  | .rtz => false
  | .rdn => neg
  | .rup => !neg
  | .sr g => g < r * 65536 / d
/-- The chosen number of units of 2^ue, and whether it is inexact. -/
def roundUnits (m : Mode) (neg : Bool) (num den : Nat) (e ue : Int) : Nat × Bool × Bool :=
  let (p, q) := scale2 (e - ue)
  let n := num * p
  let d := den * q
  let up := roundsUp m neg (n / d) (n % d) d
  (n / d + (if up then 1 else 0), n % d != 0, up)
/-- What an overflow gives: none for ±max, some for the infinity (R77). -/
def overflowsToInf (m : Mode) (neg up : Bool) : Bool :=
  match m with
  | .rne => true
  | .rtz => false
  | .rdn => neg
  | .rup => !neg
  | .sr _ => up
/-- The largest finite magnitude as units: m × 2^e. -/
def Ff.maxMag (t : Ff) : Nat × Int :=
  match t.num (t.max false) with
  | .fin _ m e => (m, e)
  | _ => (0, 0)
/-- A magnitude of k units of 2^ue exceeds the largest finite one. -/
def Ff.exceeds (t : Ff) (k : Nat) (ue : Int) : Bool :=
  let (m, e) := t.maxMag
  let (p, q) := scale2 (ue - e)
  m * q < k * p
/-- The pattern of k units of 2^ue, a representable magnitude. -/
def Ff.pack (t : Ff) (neg : Bool) (k : Nat) (ue : Int) : Nat :=
  let emin : Int := 1 - (t.bias : Int) - t.f
  if k = 0 then t.sign neg else
  -- Normalise to a significand of f + 1 bits, or to the subnormal grid.
  let top : Int := (Nat.log2 k : Int) + ue
  let u : Int := if top - t.f < emin then emin else top - t.f
  let (p, q) := scale2 (ue - u)
  let sgf := k * p / q
  if sgf < 2 ^ t.f then t.sign neg + sgf
  else t.sign neg + (u - emin + 1).toNat * 2 ^ t.f + (sgf - 2 ^ t.f)
/-- How an overflow of a target is written: per R77, or always ±max (saturating, R92, R93). -/
inductive Ovf | ieee | sat
  deriving DecidableEq, Repr
/-- One rounding into a format (R77, R81, R92, R93): the pattern and the flags. -/
def Ff.round (t : Ff) (ftz : Bool) (m : Mode) (o : Ovf) (neg : Bool) (num den : Nat) (e : Int) : Nat × Fl :=
  let q := floorLog2 num den e
  let emin : Int := 1 - (t.bias : Int)
  let free := roundUnits m neg num den e (q - t.f)
  -- Model's choice (log 66): tiny after rounding is judged with an exponent range unbounded below (R81).
  let tiny := q < emin && (free.1 < 2 ^ (t.f + 1) || q + 1 < emin)
  let ue : Int := if q < emin then emin - t.f else q - t.f
  let r := roundUnits m neg num den e ue
  if t.exceeds r.1 ue then
    (if o = .sat || !overflowsToInf m neg r.2.2 then t.max neg
     else if t.ieee then t.inf neg else t.sign neg + 0x7F, flOF)
  else if tiny && ftz then (t.sign neg, flUF)
  else (t.pack neg r.1 ue, if r.2.1 then (if tiny then flUF else flNX) else 0)
/-- An exact result rounded into a wide format (R71, R77). -/
def Ff.finish (t : Ff) (ftz : Bool) (m : Mode) : Exact → Nat × Fl
  | .nan => (t.nan, 0)
  | .inf neg => (t.inf neg, 0)
  | .zero neg => (t.sign neg, 0)
  | .mag neg num den e => t.round ftz m .ieee neg num den e

/-! ## Exact arithmetic -/

/-- A signed number of units of 2^e as an exact result; a zero takes the sign `z`. -/
def Exact.ofInt (k : Int) (e : Int) (z : Bool) : Exact :=
  if k = 0 then .zero z else .mag (k < 0) k.natAbs 1 e
/-- A signed integer value. -/
def signedOf (neg : Bool) (m : Nat) : Int := if neg then -(m : Int) else m
/-- The sum of two finite numbers in units of the smaller exponent. -/
def addUnits (m1 : Int) (e1 : Int) (m2 : Int) (e2 : Int) : Int × Int :=
  if e1 ≤ e2 then (m1 + m2 * 2 ^ (e2 - e1).toNat, e1) else (m1 * 2 ^ (e1 - e2).toNat + m2, e2)
/-- Whether a signalling NaN is among the operands (R71). -/
def sigFlag : List Num → Fl
  | [] => 0
  | .nan true :: t => flNV ||| sigFlag t
  | _ :: t => sigFlag t
/-- The sign of an exact zero sum of zeros or opposites (R77). -/
def zeroSign (m : Mode) (a b : Bool) : Bool := if a = b then a else m == .rdn
/-- a + b (R77, R114). -/
def numAdd (m : Mode) (a b : Num) : Exact × Fl :=
  let s := sigFlag [a, b]
  match a, b with
  | .nan _, _ => (.nan, s)
  | _, .nan _ => (.nan, s)
  | .inf x, .inf y => if x = y then (.inf x, 0) else (.nan, flNV)
  | .inf x, _ => (.inf x, 0)
  | _, .inf y => (.inf y, 0)
  | .fin x m1 e1, .fin y m2 e2 =>
    let r := addUnits (signedOf x m1) e1 (signedOf y m2) e2
    (Exact.ofInt r.1 r.2 (zeroSign m x y), 0)
/-- The number with its sign inverted. -/
def Num.neg : Num → Num
  | .nan s => .nan s
  | .inf n => .inf !n
  | .fin n m e => .fin (!n) m e
/-- a × b as a number; Inf × 0 is a NaN with NV (R114). -/
def numMul (a b : Num) : Num × Fl :=
  let s := sigFlag [a, b]
  match a, b with
  | .nan _, _ => (.nan false, s)
  | _, .nan _ => (.nan false, s)
  | .inf x, .inf y => (.inf (x != y), 0)
  | .inf x, .fin y m _ => if m = 0 then (.nan false, flNV) else (.inf (x != y), 0)
  | .fin x m _, .inf y => if m = 0 then (.nan false, flNV) else (.inf (x != y), 0)
  | .fin x m1 e1, .fin y m2 e2 => (.fin (x != y) (m1 * m2) (e1 + e2), 0)
/-- A number as an exact result. -/
def Num.exact : Num → Exact
  | .nan _ => .nan
  | .inf n => .inf n
  | .fin n m e => if m = 0 then .zero n else .mag n m 1 e
/-- ±(a × b) ± c with one rounding to come (R88, R116). -/
def numFma (m : Mode) (negP negC : Bool) (a b c : Num) : Exact × Fl :=
  let (p, f) := numMul a b
  let p := if negP then p.neg else p
  let c' := if negC then c.neg else c
  let (r, g) := numAdd m p c'
  (r, f ||| g ||| sigFlag [c])
/-- a ÷ b (R114). -/
def numDiv (a b : Num) : Exact × Fl :=
  let s := sigFlag [a, b]
  match a, b with
  | .nan _, _ => (.nan, s)
  | _, .nan _ => (.nan, s)
  | .inf _, .inf _ => (.nan, flNV)
  | .inf x, .fin y _ _ => (.inf (x != y), 0)
  | .fin x _ _, .inf y => (.zero (x != y), 0)
  | .fin x m1 e1, .fin y m2 e2 =>
    if m2 = 0 then (if m1 = 0 then (.nan, flNV) else (.inf (x != y), flDZ))
    else if m1 = 0 then (.zero (x != y), 0)
    else (.mag (x != y) m1 m2 (e1 - e2), 0)
/-- The integer square root by bits, from bit k down. -/
def isqrtFrom (n : Nat) : Nat → Nat → Nat
  | 0, r => r
  | k + 1, r => let t := r + 2 ^ k; isqrtFrom n k (if t * t ≤ n then t else r)
/-- The square root (R114). The result carries 80 bits and a sticky bit, which no rounding of R77 or R83 can tell from the exact root. -/
def numSqrt (a : Num) : Exact × Fl :=
  match a with
  | .nan s => (.nan, if s then flNV else 0)
  | .inf neg => if neg then (.nan, flNV) else (.inf false, 0)
  | .fin neg m e =>
    if m = 0 then (.zero neg, 0)
    else if neg then (.nan, flNV)
    else
      -- An even exponent, and at least 160 bits under the root.
      let sh := 160 + (e.natAbs % 2)
      let n := m * 2 ^ sh
      let e' := e - sh
      let r := isqrtFrom n 100 0
      (.mag false (2 * r + (if r * r = n then 0 else 1)) 1 (e' / 2 - 1), 0)

/-! ## Comparison, minimum and maximum (R115, R117) -/

/-- Order of two numbers that are not NaNs, with −0 equal to +0: less, equal, greater. -/
def numCmp (a b : Num) : Ordering :=
  match a, b with
  | .inf true, .inf true => .eq
  | .inf true, _ => .lt
  | _, .inf true => .gt
  | .inf false, .inf false => .eq
  | .inf false, _ => .gt
  | _, .inf false => .lt
  | .fin x m1 e1, .fin y m2 e2 =>
    let r := addUnits (signedOf x m1) e1 (-(signedOf y m2)) e2
    compare r.1 0
  | _, _ => .eq
/-- A NaN. -/
def Num.isNan : Num → Bool
  | .nan _ => true
  | _ => false
/-- The sign of a number; NaN counts as positive. -/
def Num.isNeg : Num → Bool
  | .nan _ => false
  | .inf n => n
  | .fin n _ _ => n
/-- FCMP's condition and flags (R117). -/
def numCond (c : FCond) (a b : Num) : Bool × Fl :=
  let un := a.isNan || b.isNan
  let s := sigFlag [a, b]
  match c with
  | .eq => (!un && numCmp a b == .eq, s)
  | .ne => (un || numCmp a b != .eq, s)
  | .lt => (!un && numCmp a b == .lt, if un then flNV else 0)
  | .le => (!un && numCmp a b != .gt, if un then flNV else 0)
  | .un => (un, s)
/-- min and max on patterns: −0 is less than +0; one NaN gives the other operand; two give the canonical NaN (R115). -/
def Ff.minmax (t : Ff) (mx : Bool) (a b : Nat) : Nat × Fl :=
  let x := t.num a
  let y := t.num b
  let s := sigFlag [x, y]
  if x.isNan && y.isNan then (t.nan, s)
  else if x.isNan then (b, s)
  else if y.isNan then (a, s)
  else
    let less := numCmp x y == .lt || (numCmp x y == .eq && x.isNeg && !y.isNeg)
    (if mx then (if less then b else a) else (if less then a else if numCmp x y == .eq && x.isNeg = y.isNeg then a else b), s)

/-! ## Conversions (R90 to R93) -/

/-- Into a wide format (R90). -/
def Ff.convert (t : Ff) (ftz : Bool) (m : Mode) (a : Num) : Nat × Fl :=
  let (p, f) := t.finish ftz m a.exact
  (p, f ||| sigFlag [a])
/-- An exact rational rounded to an integer in a mode: the integer and whether it is inexact. -/
def roundInt (m : Mode) (neg : Bool) (num den : Nat) (e : Int) : Int × Bool :=
  let (k, inex, _) := roundUnits m neg num den e 0
  (signedOf neg k, inex)
/-- To an integer type of w bits (R91). Model's choice (log 66): a negative value that rounds to 0 in a natural type is in range. -/
def numToInt (m : Mode) (signed : Bool) (w : Nat) (a : Num) : Int × Fl :=
  let hi : Int := if signed then 2 ^ (w - 1) - 1 else 2 ^ w - 1
  let lo : Int := if signed then -(2 ^ (w - 1)) else 0
  match a with
  | .nan _ => (0, flNV)
  | .inf neg => (if neg then lo else hi, flNV)
  | .fin neg k e =>
    if k = 0 then (0, 0) else
    let (n, inex) := roundInt m neg k 1 e
    if hi < n then (hi, flNV) else if n < lo then (lo, flNV) else (n, if inex then flNX else 0)
/-- From an integer (R90). -/
def Ff.ofInt (t : Ff) (ftz : Bool) (m : Mode) (n : Int) : Nat × Fl := t.finish ftz m (Exact.ofInt n 0 false)
/-- Into an element format other than MXINT8 (R92, R93): `sat` is meaningful for E4M3 and E5M2; the others always saturate. -/
def toElem (t : Fmt) (sat : Bool) (m : Mode) (a : Num) : Nat × Fl :=
  let ff := ffOfFmt t
  let special := ff.ieee || ff.e4m3
  match a with
  | .nan s => if special then (ff.nan, if s then flNV else 0) else (0, flNV)
  | .inf neg =>
    if sat || !special then (ff.max neg, flNV)
    else if ff.ieee then (ff.inf neg, 0) else (ff.sign neg + 0x7F, flNV)
  | .fin neg k e =>
    if k = 0 then (ff.sign neg, 0) else ff.round false m (if sat || !special then .sat else .ieee) neg k 1 e
/-- Into MXINT8, of the exact value num ÷ den × 2^e (R93). -/
def toMx (m : Mode) : Exact → Nat × Fl
  | .nan => (0, flNV)
  | .inf neg => (if neg then 0x81 else 0x7F, flNV)
  | .zero _ => (0, 0)
  | .mag neg num den e =>
    let (n, inex) := roundInt m neg num den (e + 6)
    if 127 < n then (0x7F, flOF) else if n < -127 then (0x81, flOF)
    else ((n % 256).toNat, if inex then flNX else 0)
/-- Into any element format (R92, R93). -/
def toFmt (t : Fmt) (sat : Bool) (m : Mode) (a : Num) : Nat × Fl :=
  if t = .mxint8 then toMx m a.exact else toElem t sat m a

/-! ## Exact sums of many terms (R86 to R88) -/

/-- A sum in progress: units of 2^e, the infinities seen, a NaN seen, and whether every term so far was a negative zero, or a positive one. -/
structure Sum where
  k : Int
  e : Int
  posInf : Bool
  negInf : Bool
  nan : Bool
  allNeg : Bool
  allPos : Bool
  deriving DecidableEq, Repr
/-- The empty sum. -/
def Sum.empty : Sum := ⟨0, 0, false, false, false, true, true⟩
/-- A term added exactly. -/
def Sum.add (s : Sum) : Num → Sum
  | .nan _ => { s with nan := true }
  | .inf false => { s with posInf := true }
  | .inf true => { s with negInf := true }
  | .fin neg m e =>
    if m = 0 then { s with allNeg := s.allNeg && neg, allPos := s.allPos && !neg } else
    let r := addUnits s.k s.e (signedOf neg m) e
    { s with k := r.1, e := r.2, allNeg := false, allPos := false }
/-- A NaN that raises nothing of its own. -/
def Num.quiet : Num → Num
  | .nan _ => .nan false
  | n => n
/-- Infinities of both signs are among the terms: NV, also beside a NaN, which raises nothing itself (R87, R88, R175; log 66). -/
def Sum.flags (s : Sum) : Fl := if s.posInf && s.negInf then flNV else 0
/-- The exact sum as a number. -/
def Sum.num (s : Sum) : Num :=
  if s.nan || (s.posInf && s.negInf) then .nan false
  else if s.posInf then .inf false
  else if s.negInf then .inf true
  else .fin (if s.k = 0 then s.allNeg else decide (s.k < 0)) s.k.natAbs s.e
/-- The exact sum: an Inf − Inf gives a NaN with NV; a zero is −0 only where every term was −0, or where it cancels in RDN (R77; for sums of many terms the model's choice, log 66). -/
def Sum.exact (s : Sum) (m : Mode) : Exact × Fl :=
  if s.nan || (s.posInf && s.negInf) then (.nan, s.flags)
  else if s.posInf then (.inf false, 0)
  else if s.negInf then (.inf true, 0)
  else (Exact.ofInt s.k s.e (if s.allNeg then true else if s.allPos then false else m == .rdn), 0)

/-! ## The generator step and SR draws (R82, R83, R186) -/

/-- GStep (R82). -/
def gStep (g : DWord) : DWord :=
  let g := if g = 0 then 0x9E3779B97F4A7C15 else g
  let g := g ^^^ (g <<< 13)
  let g := g ^^^ (g >>> 7)
  g ^^^ (g <<< 17)
/-- The mixed value of element j (R83, R186). -/
def srMix (s : DWord) (j : Nat) : DWord :=
  let z := s + BitVec.ofNat 64 j * 0x9E3779B97F4A7C15
  let z := (z ^^^ (z >>> 30)) * 0xBF58476D1CE4E5B9
  let z := (z ^^^ (z >>> 27)) * 0x94D049BB133111EB
  z ^^^ (z >>> 31)
/-- The draw of element j (R83). -/
def srDraw (s : DWord) (j : Nat) : Nat := ((srMix s j).extractLsb' 48 16).toNat

end Sys2Proof.Machine
end

