-- ==== Sys2Proof/Config.lean ====
section
/-! DEFINITION. What the manual leaves open (R7, R17, R176, R247, R322, R381), as constants without a body: nothing in Lean can evaluate one or prove a value of one. Each is applied to a plain counter of State, or to the operands it depends on. -/
namespace Sys2Proof.Config

/-- An undefined 64-bit value (R7). Log 3. -/
opaque freeWord : Nat → BitVec 64
/-- An undefined 256-bit value (R7). Log 3. -/
opaque freeVec : Nat → BitVec 256
/-- An undefined bit, and each choice between two outcomes that a rule leaves open (R7, R19). Log 3. -/
opaque freeBit : Nat → Bool
/-- A variable latency, a choice among several: the model reduces it modulo the bound that the rule gives (R4, R322). Log 4. -/
opaque freeNat : Nat → Nat
/-- A fresh word of a die's entropy source (R247). Log 3. -/
opaque entropy : Nat → BitVec 64
/-- The choices that fix a VSFU function within the bounds and the directions of R176, outside the exact cases of R177: one function for each latency class (R178). Log 8. -/
opaque vsfu : Nat → Nat → BitVec 32
/-- The 32-byte secret seed of the hub's identity key, which never leaves the hub (R382). Log 10. -/
opaque identitySeed : List (BitVec 8)
/-- The fused hashes of Gelquenal's firmware keys: the first 32 bytes of SHA-512 of each (R381). Log 10. -/
opaque gelquenalKeyHashes : List (List (BitVec 8))

/-- A byte of the boot ROM, by its offset: the spec does not give its content (R379, R381). Log 3. -/
opaque bootRom : Nat → BitVec 8

end Sys2Proof.Config
end

