-- ==== Sys2Proof/Machine/Ops.lean ====
section
/-! DEFINITION. The named operations over State: cores and contexts, register banks and the landing of writes (spec/01_machine_state.md R10 to R27), free values, taking an exception and returning from one (spec/11_tasks_traps_and_system.md R279 to R282, spec/14_faults_preemption_and_replay.md R325 to R329). -/
namespace Sys2Proof.Machine

/-- What exec and step answer. -/
abbrev Out := Host.Outcome State Fault Refusal

/-! ## Numbers of cores (R10) -/

/-- PHYS.KIND: 0 ordinary, 1 quay, 2 strand. -/
def kindOf (p : Nat) : Nat := p / 16384 % 4
/-- Die 0 to 3. -/
def dieOf (p : Nat) : Nat := p / 4096 % 4
/-- Mesh row. -/
def rowOf (p : Nat) : Nat := p / 32 % 32
/-- Mesh column, or the index of a quay or strand core. -/
def colOf (p : Nat) : Nat := p % 32
/-- Shore 0 to 63 within the die. -/
def shoreOf (p : Nat) : Nat := rowOf p / 4 * 8 + colOf p / 4
/-- The shore's key among all dies. -/
def shoreKey (p : Nat) : Nat := 64 * dieOf p + shoreOf p
/-- An ordinary core. -/
def isOrdinary (p : Nat) : Bool := kindOf p == 0
/-- The physical number of an ordinary core. -/
def physOf (die row col : Nat) : Nat := 4096 * die + 32 * row + col
/-- A number that R10 produces. -/
def physValid (p : Nat) : Bool :=
  p < 65536 && p / 1024 % 4 == 0 &&
  (kindOf p == 0 || (kindOf p == 1 && rowOf p == 0 && colOf p < 16) || (kindOf p == 2 && rowOf p == 0 && colOf p < 4))

/-! ## Cores and contexts -/

/-- A core. -/
def State.core (s : State) (p : Nat) : Core := look Core.reset s.cores p
/-- The state with a core replaced. -/
def State.setCore (s : State) (p : Nat) (c : Core) : State := { s with cores := put s.cores p c }
/-- The state with a core changed. -/
def State.onCore (s : State) (p : Nat) (f : Core → Core) : State := s.setCore p (f (s.core p))
/-- Every listed core changed. -/
def State.mapCores (s : State) (f : Nat → Core → Core) : State :=
  { s with cores := s.cores.map fun kc => (kc.1, f kc.1 kc.2) }
/-- A context of a core. -/
def Core.ctx (c : Core) (n : Nat) : Ctx := look Ctx.reset c.ctxs n
/-- The core with a context replaced. -/
def Core.setCtx (c : Core) (n : Nat) (x : Ctx) : Core := { c with ctxs := put c.ctxs n x }
/-- The core with a context changed. -/
def Core.onCtx (c : Core) (n : Nat) (f : Ctx → Ctx) : Core := c.setCtx n (f (c.ctx n))
/-- Every listed context changed. -/
def Core.mapCtxs (c : Core) (f : Nat → Ctx → Ctx) : Core :=
  { c with ctxs := c.ctxs.map fun kx => (kx.1, f kx.1 kx.2) }
/-- A context of a core of the package. -/
def State.ctx (s : State) (p n : Nat) : Ctx := (s.core p).ctx n
/-- The state with a context changed. -/
def State.onCtx (s : State) (p n : Nat) (f : Ctx → Ctx) : State := s.onCore p fun c => c.onCtx n f
/-- The core that issues. -/
def State.here (s : State) : Core := s.core s.frame.core
/-- The context that issues. -/
def State.cur (s : State) : Ctx := s.ctx s.frame.core s.frame.ctx
/-- The state with the issuing core changed. -/
def State.onHere (s : State) (f : Core → Core) : State := s.onCore s.frame.core f
/-- The state with the issuing context changed. -/
def State.onCur (s : State) (f : Ctx → Ctx) : State := s.onCtx s.frame.core s.frame.ctx f
/-- A fresh name for a request or a command. -/
def State.newId (s : State) : Nat × State := (s.ids, { s with ids := s.ids + 1 })
/-- The free-value counter advanced: later free values are others (log 3). -/
def State.bump (s : State) : State := { s with free := s.free + 1 }
/-- Core turn of a cycle (R304). -/
def turnOf (cycle : Nat) : Nat := cycle / 16
/-- The last cycle of the core turn that holds a cycle. -/
def turnLast (cycle : Nat) : Nat := 16 * (cycle / 16) + 15

/-- A free 64-bit value for place `pos` of the operation being issued (log 3). -/
def State.anyWord (s : State) (pos : Nat) : DWord := Config.freeWord (s.free * 65536 + s.frame.slot * 8192 + pos)
/-- A free 256-bit value (log 3). -/
def State.anyVec (s : State) (pos : Nat) : Vec := Config.freeVec (s.free * 65536 + s.frame.slot * 8192 + pos)
/-- A free bit (log 3). -/
def State.anyBit (s : State) (pos : Nat) : Bool := Config.freeBit (s.free * 65536 + s.frame.slot * 8192 + pos)
/-- A free number below a bound for a place that may be any number: its argument is none that the others use (log 3). -/
def State.anyWide (s : State) (pos bound : Nat) : Nat := Config.freeNat (2 ^ 128 + s.free * 2 ^ 64 + pos) % bound
/-- A free number below a bound: a latency or a choice (log 4). -/
def State.anyBelow (s : State) (pos bound : Nat) : Nat :=
  Config.freeNat (s.free * 65536 + s.frame.slot * 8192 + pos) % bound

/-! ## Launches of a core (R24, R313) -/

/-- The number of a context (R12) from what its requests and commands bear: its own, 16 + e where it is OUT in Rockpool entry e, or 32 + n where context n's work has moved to another core. -/
def State.realCtx (s : State) (p n : Nat) : Nat :=
  if n < 16 then n else if n < 32 then (match find (s.core p).pool (n - 16) with | some q => q.ctx | none => n - 16) else n - 32
/-- The launch of a context; 16 + e names the context OUT in Rockpool entry e. -/
def Core.launchName (c : Core) (n : Nat) : Option Nat :=
  if n < 16 then (c.ctx n).launch else (find c.pool (n - 16)).bind fun q => q.launch
/-- The launch whose registers a context sees: its own, or for C0 the finishing one (R313). -/
def Core.launchOf (c : Core) (n : Nat) : Option CoreLaunch :=
  if n = 0 then c.launches.head? else
  match c.launchName n with
  | some l => firstOf (fun k => k.id.toNat == l) c.launches
  | none => none
/-- Banks that a context may reach: its launch's; for C0 those of every launch on the core, since C0 loads the following launch too (R307 step 4, R313; log 16). -/
def Core.banksOf (c : Core) (n : Nat) : Half :=
  if n = 0 then c.launches.foldl (fun m l => m ||| l.own) 0 else
  match c.launchOf n with
  | some l => l.own
  | none => 0
/-- BANKS (R24). -/
def Core.banksReg (c : Core) (n : Nat) : DWord :=
  match c.launchOf n with
  | some l => l.own.setWidth 64
  | none => 0
/-- LAUNCH (R24). -/
def Core.launchReg (c : Core) (n : Nat) : DWord :=
  match c.launchOf n with
  | some l => BitVec.ofBool l.mode ++ BitVec.ofBool l.cls ++ (0 : BitVec 18) ++ l.reach ++ l.id
  | none => 0
/-- CORE (R20). -/
def Core.logicalReg (c : Core) (n : Nat) : DWord :=
  match c.launchOf n with
  | some l => l.logical.setWidth 64
  | none => 0
/-- The logical number that the core's packets carry. -/
def Core.logicalOf (c : Core) (n : Nat) : Half := (c.logicalReg n).setWidth 16
/-- The physical core of a logical number in a context's reach (R11, R32). -/
def Core.physOfLogical (c : Core) (n l : Nat) : Option Nat :=
  match c.launchOf n with
  | some k => nth k.map l
  | none => none

/-! ## Special registers as bits -/

/-- CHECK.LV (R23). -/
def Ctx.lv (x : Ctx) : Bool := x.check.getLsbD 0
/-- CHECK.SS (R23). -/
def Ctx.ss (x : Ctx) : Bool := x.check.getLsbD 1
/-- CHECK.SD (R23). -/
def Ctx.sd (x : Ctx) : Bool := x.check.getLsbD 2
/-- CHECK.FELIM (R23). -/
def Ctx.felim (x : Ctx) : Nat := (x.check.extractLsb' 16 16).toNat
/-- PHASE (R24). -/
def Ctx.phaseReg (x : Ctx) : DWord := BitVec.ofBool x.pend ++ (0 : BitVec 31) ++ x.phaseCount
/-- The dispatch-ring entry that VSEQ.SEL names (R25). -/
def Ctx.selected (x : Ctx) : Option RingEntry := firstOf (fun e => e.seq == x.vseqSel) x.ring
/-- VSEQ (R25). -/
def Ctx.vseqReg (x : Ctx) : DWord :=
  match x.selected with
  | some e => (1 : BitVec 1) ++ BitVec.ofBool e.m ++ (0 : BitVec 13) ++ e.caddr ++ x.vseqNext ++ x.vseqSel
  | none => (0 : BitVec 32) ++ x.vseqNext ++ x.vseqSel
/-- MSEQ (R25). -/
def Ctx.mseqReg (x : Ctx) : DWord :=
  match x.selected with
  | some e => e.words
  | none => 0
/-- Bits of FCR that hold something (R21). -/
def fcrMask : DWord := 0x1F1F0F
/-- A value that an MTS to FCR refuses (R21): a reserved bit, or RM 101 to 111. -/
def fcrRefused (v : DWord) : Bool := (v &&& ~~~fcrMask) != 0 || 4 < (v &&& 7).toNat
/-- CAUSE of a trap (R22): LATE, SRC and CODE, with SUB and SEQ for 0x13. -/
def causeWord (code : Nat) (late : Bool) (src : Nat) (sub : Nat) (seq : Half) : DWord :=
  (0 : BitVec 16) ++ BitVec.ofNat 8 sub ++ seq ++ (0 : BitVec 11) ++ BitVec.ofBool late ++ BitVec.ofNat 4 src ++
    BitVec.ofNat 8 code
/-- CAUSE of a precise trap of a worker or of C0 itself. -/
def causeOf (code : Nat) : DWord := causeWord code false 0 0 0

/-! ## Landing of writes (R17 to R19, R79) -/

/-- Two writes name one register, or one quarter overlaps the whole (R18, R26). Flags never collide: they are ORed in. -/
def Dest.overlaps : Dest → Dest → Bool
  | .flags _, _ => false
  | _, .flags _ => false
  | .v c r, .vq c' r' _ => c == c' && r == r'
  | .vq c r _, .v c' r' => c == c' && r == r'
  | .spr c n _, .spr c' n' _ => c == c' && n == n'
  | .tagsClear c, .spr c' n' _ => c == c' && n' == 0x09
  | .spr c' n' _, .tagsClear c => c == c' && n' == 0x09
  | a, b => a == b
/-- Replaces the masked bits. -/
def merge (old new mask : DWord) : DWord := (old &&& ~~~mask) ||| (new &&& mask)
/-- The word of a value. -/
def Val.word! : Val → DWord
  | .word v => v
  | .vec v => v.setWidth 64
  | .bit b => (BitVec.ofBool b).setWidth 64
/-- The vector of a value. -/
def Val.vec! : Val → Vec
  | .word v => v.setWidth 256
  | .vec v => v
  | .bit b => (BitVec.ofBool b).setWidth 256
/-- The bit of a value. -/
def Val.bit! : Val → Bool
  | .word v => v.getLsbD 0
  | .vec v => v.getLsbD 0
  | .bit b => b
/-- A quarter of a vector replaced (R26). -/
def setQuarter (v : Vec) (q : BitVec 2) (w : DWord) : Vec :=
  let m : Vec := (0xFFFFFFFFFFFFFFFF : BitVec 256) <<< (64 * q.toNat)
  (v &&& ~~~m) ||| (w.setWidth 256 <<< (64 * q.toNat))
/-- A context-scope special register written under a mask (R27). -/
def Ctx.setSpr (x : Ctx) (n : BitVec 6) (v mask : DWord) : Ctx :=
  match n.toNat with
  | 0x08 => { x with fcr := merge x.fcr v (mask &&& fcrMask) }
  | 0x09 => { x with tags := merge x.tags v mask }
  | 0x0A => { x with seed := merge x.seed v mask }
  | 0x10 => { x with epc := merge x.epc v mask }
  | 0x11 => { x with cause := merge x.cause v (mask &&& 0x0000FFFFFF001FFF) }
  | 0x12 => { x with tval := merge x.tval v mask }
  | 0x16 => { x with check := merge x.check v (mask &&& 0xFFFF0007) }
  | 0x1C => { x with vseqSel := (merge (x.vseqSel.setWidth 64) v (mask &&& 0xFFFF)).setWidth 16 }
  | _ => x
/-- The address of byte `off` of Rockpool entry e (R30). -/
def poolAddr (e off : Nat) : Nat := 0x7E000 + 0x800 * e + off
/-- A 64-bit word of the local store. -/
def Core.word (c : Core) (a : Nat) : DWord := BitVec.ofNat 64 (memRead c.ls a 8)
/-- A 64-bit word of the local store written, without any other effect. -/
def Core.setWord (c : Core) (a : Nat) (v : DWord) : Core := { c with ls := memWrite c.ls a 8 v.toNat }
/-- TIMER after a write lands (R23): FIRED is cleared by 1; EN = 1 with COUNT = 0 fires at once. -/
def Core.writeTimer (c : Core) (v : DWord) : Core :=
  let fired := c.timer.getLsbD 62 && !v.getLsbD 62
  let cnt : BitVec 32 := v.setWidth 32
  if v.getLsbD 63 && cnt == 0 then
    { c with timer := (0 : BitVec 1) ++ (1 : BitVec 1) ++ (0 : BitVec 30) ++ cnt, pending := { c.pending with timer := true } }
  else { c with timer := BitVec.ofBool (v.getLsbD 63) ++ BitVec.ofBool fired ++ (0 : BitVec 30) ++ cnt }
/-- The effect of a write's value on its register. -/
def Core.store (c : Core) (d : Dest) (v : Val) : Core :=
  match d with
  | .x n r => c.onCtx n fun x => { x with xs := put x.xs r.toNat v.word! }
  | .v n r => c.onCtx n fun x => { x with vs := put x.vs r.toNat v.vec! }
  | .vq n r q => c.onCtx n fun x => { x with vs := put x.vs r.toNat (setQuarter (look 0 x.vs r.toNat) q v.word!) }
  | .q n p => c.onCtx n fun x =>
      { x with qs := if v.bit! then x.qs ||| ((1 : BitVec 8) <<< p.toNat) else x.qs &&& ~~~((1 : BitVec 8) <<< p.toNat) }
  | .k r => { c with ks := put c.ks r.toNat v.word! }
  | .w r => { c with ws := put c.ws r.toNat v.vec! }
  | .spr n r m =>
      let c' := c.onCtx n fun x => x.setSpr r v.word! m
      if n = 0 && r == 0x10 then c'.onCtx 0 fun x => { x with epcWritten := true } else c'
  | .tagsClear n => c.onCtx n fun x => { x with tags := x.tags &&& ~~~v.word! }
  | .cspr r =>
      match r.toNat with
      | 0x13 => { c with tvec := v.word! &&& ~~~1 }
      | 0x15 => c.writeTimer v.word!
      | 0x20 => { c with csel := v.word! &&& 0x07C0FF2F }
      | 0x28 => { c with qarb := v.word! &&& 0xFFFFFF }
      | _ => c
  | .flags n => c.onCtx n fun x => { x with fcr := x.fcr ||| (v.word! &&& 0x1F00) }
  | .next n => c.onCtx n fun x => { x with next := v.word!, nextWritten := true }
  | .pool e off m =>
      let c' := c.setWord (poolAddr e off) (merge (c.word (poolAddr e off)) v.word! m)
      if off = 0 then { c' with pool := c'.pool.map fun kq => if kq.1 = e then (e, { kq.2 with nextWritten := true }) else kq }
      else c'
/-- The bits of its register that a write changes (R26, R27). -/
def Dest.bits : Dest → Vec
  | .vq _ _ qt => (0xFFFFFFFFFFFFFFFF : BitVec 256) <<< (64 * qt.toNat)
  | .spr _ _ m | .pool _ _ m => m.setWidth 256
  | .tagsClear _ => (BitVec.allOnes 64).setWidth 256
  | _ => BitVec.allOnes 256
/-- The effect of a write of which some bits are lost to other writes. -/
def Core.storeBits (c : Core) (d : Dest) (v : Val) (lost : Vec) : Core :=
  match d with
  | .v n r => c.store d (.vec ((look 0 (c.ctx n).vs r.toNat &&& lost) ||| (v.vec! &&& ~~~lost)))
  | .spr n r m => c.store (.spr n r (m &&& ~~~(lost.setWidth 64))) v
  | .pool e off m => c.store (.pool e off (m &&& ~~~(lost.setWidth 64))) v
  | _ => c.store d v
/-- The bits that a write landing at the end of cycle `t` loses. Bits that a later write of the same context has changed are lost (R18). Bits that a write of another context with an overlapping window has changed are lost or kept: the lower context's value stays if both land in one cycle, else `choice` says (R19). -/
def Write.lost (w : Write) (t : Nat) (choice : Bool) : Vec :=
  w.contested.foldl (fun m k =>
    if k.2.1 = w.byCtx then m ||| k.2.2
    else if (if k.1 = t then decide (w.byCtx < k.2.1) else choice) then m else m ||| k.2.2) 0
/-- What a write of bits `b` that has landed in cycle `t` from context n does to one that has not: a write that the same context issued before it loses those bits, and is discarded if none is left (R18); a write of another context is contested by it if the windows overlap, and by the value that it has replaced no longer (R19). -/
def Write.meet (u : Write) (t n issue : Nat) (b : Vec) : Option Write :=
  let others := u.contested.filter fun k => k.2.2 &&& ~~~b != 0
  if u.byCtx = n then
    if u.issue < issue then
      if u.dst.bits &&& ~~~b = 0 then none else some { u with contested := others ++ [(t, n, b)] }
    else some { u with contested := others }
  else some { u with contested := if u.issue < t then others ++ [(t, n, b)] else others }
/-- One write lands at the end of cycle `t` (R18, R19). A write that keeps none of its bits leaves the register, and the writes still to land, as they are, but for those that its context issued before it. -/
def Core.landOne (c : Core) (t : Nat) (w : Write) (choice : Bool) : Core :=
  let lost := w.lost t choice
  let kept := w.dst.bits &&& ~~~lost
  let c' := if kept = 0 then c else c.storeBits w.dst w.val lost
  { c' with writes := c'.writes.filterMap fun u =>
      if u.dst.overlaps w.dst then
        if u.byCtx = w.byCtx && decide (u.issue < w.issue) then u.meet t w.byCtx w.issue w.dst.bits
        else if kept = 0 then some u
        else u.meet t w.byCtx w.issue kept
      else some u }
/-- Writes land in the order of their last cycles; flags land after the other writes of their cycle (R79). -/
def landOrder (w : Write) : Nat :=
  match w.due with
  | some t => 4 * t + (match w.dst with | .flags _ => 1 | _ => 0)
  | none => 0
/-- All of `ws` land, in order. -/
def Core.landAll (c : Core) (free : Nat) : List Write → Core
  | [] => c
  | w :: t =>
    -- A write that an earlier landing of this list discarded is no longer there.
    if w ∈ c.writes || (c.writes.any fun u => { u with contested := w.contested } == w) then
      let u := (firstOf (fun u => { u with contested := w.contested } == w) c.writes).getD w
      let c' := { c with writes := c.writes.erase u }
      (c'.landOne (u.due.getD 0) u (Config.freeBit (free * 65536 + 8000 + t.length))).landAll free t
    else c.landAll free t
/-- Every write whose window ended before cycle `now` lands (R17). -/
def Core.land (c : Core) (now free : Nat) : Core :=
  let due := c.writes.filter fun w => match w.due with | some t => t < now | none => false
  if due.isEmpty then c else c.landAll free (sortBy landOrder due)

/-! ## Reading registers (R14, R15, R17, R63) -/

/-- A register is being written and reads as undefined (R17): an unlanded write issued before this cycle. -/
def Core.early (c : Core) (now : Nat) (d : Dest) : Bool :=
  c.writes.any fun w => w.dst.overlaps d && decide (w.issue < now)
/-- As `early`, for writes of context n alone: what CHECK.LV traps on (R63, R137; log 17). -/
def Core.earlyOwn (c : Core) (now n : Nat) (d : Dest) : Bool :=
  c.writes.any fun w => w.byCtx == n && w.dst.overlaps d && decide (w.issue < now)
/-- The destination that a scalar field names (R14); x0 has none. -/
def xDest (n : Nat) (r : SReg) : Dest :=
  if r.toNat < 32 then .x n (r.setWidth 5) else .k (r.setWidth 5)
/-- The destination that a vector field names (R14). -/
def vDest (n : Nat) (r : VReg) : Dest :=
  if r.toNat < 32 then .v n (r.setWidth 5) else .w (r.setWidth 5)
/-- The landed value of a scalar register of context n. -/
def Core.xVal (c : Core) (n : Nat) (r : SReg) : DWord :=
  if r = 0 then 0 else if r.toNat < 32 then look 0 (c.ctx n).xs r.toNat else look 0 c.ks (r.toNat - 32)
/-- The landed value of a vector register of context n. -/
def Core.vVal (c : Core) (n : Nat) (r : VReg) : Vec :=
  if r.toNat < 32 then look 0 (c.ctx n).vs r.toNat else look 0 c.ws (r.toNat - 32)
/-- The value that a scalar operand field reads in this cycle (R44). -/
def State.rx (s : State) (r : SReg) : DWord :=
  if r = 0 then 0
  else if s.here.early s.now (xDest s.frame.ctx r) then s.anyWord r.toNat
  else s.here.xVal s.frame.ctx r
/-- The value that a vector operand field reads in this cycle. -/
def State.rv (s : State) (r : VReg) : Vec :=
  if s.here.early s.now (vDest s.frame.ctx r) then s.anyVec (64 + r.toNat)
  else s.here.vVal s.frame.ctx r
/-- The value that a predicate reads in this cycle; q0 reads 1 (R15). -/
def State.rq (s : State) (p : PReg) : Bool :=
  if p = 0 then true
  else if s.here.early s.now (.q s.frame.ctx p) then s.anyBit (128 + p.toNat)
  else s.cur.qs.getLsbD p.toNat

/-! ## Writing registers -/

/-- A write of latency `lat` turns issued now by the issuing context (R17). -/
def State.write (s : State) (d : Dest) (v : Val) (lat : Nat) : State :=
  s.onHere fun c => { c with writes := c.writes ++ [⟨d, v, s.frame.ctx, s.now, some (s.now + 16 * lat - 1), 0, []⟩] }
/-- A scalar result of latency `lat`; a write to x0 is discarded (R15). -/
def State.wx (s : State) (r : SReg) (v : DWord) (lat : Nat) : State :=
  if r = 0 then s else s.write (xDest s.frame.ctx r) (.word v) lat
/-- A vector result. -/
def State.wv (s : State) (r : VReg) (v : Vec) (lat : Nat) : State := s.write (vDest s.frame.ctx r) (.vec v) lat
/-- A predicate result; a write to q0 is discarded (R15). -/
def State.wq (s : State) (p : PReg) (b : Bool) (lat : Nat) : State :=
  if p = 0 then s else s.write (.q s.frame.ctx p) (.bit b) lat
/-- A result that falls due when the access named `id` ends (R134, R137, R209). -/
def State.owe (s : State) (d : Dest) (id : Nat) : State :=
  s.onHere fun c => { c with writes := c.writes ++ [⟨d, .word 0, s.frame.ctx, s.now, none, id, []⟩] }
/-- As `owe`, for a scalar field; x0 is owed nothing. -/
def State.oweX (s : State) (r : SReg) (id : Nat) : State :=
  if r = 0 then s else s.owe (xDest s.frame.ctx r) id
/-- The access named `id` ends: its result lands at the end of cycle `due`. -/
def Core.settle (c : Core) (id : Nat) (v : Val) (due : Nat) : Core :=
  { c with writes := c.writes.map fun w => if w.id = id && w.due.isNone then { w with val := v, due := some due } else w }
/-- The value of the access named `id` is known, and its register stays undefined (R137). -/
def Core.fill (c : Core) (id : Nat) (v : Val) : Core :=
  { c with writes := c.writes.map fun w => if w.id = id && w.due.isNone then { w with val := v } else w }
/-- The access named `id` ends without a result: its registers keep their values. -/
def Core.forgo (c : Core) (id : Nat) : Core :=
  { c with writes := c.writes.filter fun w => !(w.id == id && w.due.isNone) }

/-! ## Taking an exception (R280, R281, R327, R329) -/

/-- CAUSE with its SRC field naming the context in which the trap arose (R22). -/
def withSrc (n : Nat) (cause : DWord) : DWord := cause ||| (BitVec.ofNat 64 n <<< 8)
/-- A worker's trap (R280): the registers of R22 are written, the context stops with its next bundle at EPC, and it joins C0's pending set. -/
def Core.workerTrap (c : Core) (n : Nat) (epc cause tval : DWord) : Core :=
  let c' := c.onCtx n fun x =>
    { x with epc := epc, cause := withSrc n cause, tval := tval, next := epc, st := .stop, hold := none, nextWritten := false }
  { c' with pending := { c'.pending with workers := c'.pending.workers ++ [(n, withSrc n cause, tval)] } }
/-- A record entered in a ring of the hub (R386). -/
def HubRing.enter (r : HubRing) (size : Nat) (record : List DWord) : HubRing :=
  { r with recs := put r.recs (r.head.toNat % size) record, head := r.head + 1 }
/-- Interrupt bits raised in every booted watch's gqirq (R380). -/
def Hub.raise (h : Hub) (m sm : DWord) : Hub :=
  { h with watches := h.watches.map fun (k, w) => (k, { w with irq := w.irq ||| m, sirq := w.sirq ||| sm }) }
/-- C0's own trap goes to the Lighthouse (R327): C0's registers are written with SRC = 0, C0 stops with its flag unchanged, and a record enters the ring that DELEG gives (R23, R386); cause 0x1D always goes to M-mode (R33). -/
def State.c0Trap (s : State) (p : Nat) (epc cause tval : DWord) : State :=
  let c := s.core p
  let toS := c.deleg.getLsbD (cause.toNat % 256) && cause.toNat % 256 != 0x1D && cause.toNat % 256 < 64
  let c' := c.onCtx 0 fun x =>
    { x with epc := epc, cause := cause, tval := tval, next := epc, st := .stop, hold := none, epcWritten := false }
  let s' := s.setCore p { c' with delivered := some toS }
  let record : List DWord :=
    [BitVec.ofNat 64 p ||| ((c.launchReg 0).setWidth 32).setWidth 64 <<< 32, cause, epc, tval]
  let h := s'.hub
  { s' with hub := if toS then { h with sTrap := h.sTrap.enter 8192 record }.raise 0 2
                   else { h with mTrap := h.mTrap.enter 8192 record }.raise 2 0 }
/-- An uncorrectable error met by a worker (R328): it stops with EPC, CAUSE and TVAL, does not join C0's pending set, and M-mode is told. -/
def State.workerError (s : State) (p n : Nat) (epc cause tval : DWord) : State :=
  let t := s.onCtx p n fun x =>
    { x with epc := epc, cause := withSrc n cause, tval := tval, next := epc, st := .stop, hold := none, nextWritten := false, mmode := true }
  let l := ((s.core p).launchReg n).setWidth 32
  let record : List DWord := [BitVec.ofNat 64 (p + 65536 * n) ||| (l : Word).setWidth 64 <<< 32, withSrc n cause, epc, tval]
  { t with hub := { t.hub with mTrap := t.hub.mTrap.enter 8192 record }.raise 2 0 }
/-- A trap of a context, by the kind of context and cause (R279 to R281, R327, R328). -/
def State.takeTrap (s : State) (p n : Nat) (epc cause tval : DWord) : State :=
  if n = 0 then s.c0Trap p epc cause tval
  else if cause.toNat % 256 = 0x1D then s.workerError p n epc cause tval else s.onCore p fun c => c.workerTrap n epc cause tval
/-- A precise trap of the bundle being issued (R61): EPC is its address. -/
def State.issueTrap (s : State) (cause : Nat) (tval : DWord) : State :=
  s.takeTrap s.frame.core s.frame.ctx s.frame.addr (causeOf cause) tval
/-- The mask below n of a 64-bit word. -/
def lowMask (n : Nat) : DWord := BitVec.ofNat 64 (2 ^ n - 1)
/-- The first pending trap for C0 in the order of R281, and the pending set without it: CAUSE, TVAL. -/
def Core.nextPending (c : Core) : Option (DWord × DWord × Pending) :=
  let p := c.pending
  match p.migration with
  | v :: t => some (causeOf 0x1C, v, { p with migration := t })
  | [] =>
  if p.timer then some (causeOf 0x1A, 0, { p with timer := false }) else
  match p.wakes with
  | v :: t => some (causeOf 0x1B, v, { p with wakes := t })
  | [] =>
  match p.own with
  | (k, v) :: t => some (causeOf k, v, { p with own := t })
  | [] =>
  match sortBy (·.1) p.workers with
  | [] => none
  | (_, cause, tval) :: t => some (cause, tval, { p with workers := t })
/-- C0 takes the first pending trap (R281): EPC is the bundle it would have issued, whose WAIT is served again after the return, the flag is set, and the bundle at TVEC is next. -/
def Core.c0Entry (c : Core) : Core :=
  match c.nextPending with
  | none => c
  | some (cause, tval, p) =>
    let c' := c.onCtx 0 fun x =>
      { x with epc := x.next, cause := cause, tval := tval, next := c.tvec, hold := none, st := .run, epcWritten := false,
                  frozen := x.levels.length }
    { c' with pending := p, handler := true }
/-- C0 takes a pending trap at this issue cycle (R281): its flag is 0, it is not in PARK, and it is not stopped by a trap delivered to the Lighthouse (R327). -/
def Core.c0Ready (c : Core) : Bool :=
  !c.handler && (c.ctx 0).st != .park && c.delivered.isNone && !(c.ctx 0).mmode && c.nextPending.isSome
/-- RETT of C0 (R282): its next bundle is EPC and the flag is cleared. Levels that its trap left open count again; all close if C0 wrote EPC since its trap (R126). Model's choice (log 18): levels that the handler opened and has left open are dropped with the bundles captured for them, which R126 does not say. -/
def Core.rett (c : Core) : Core :=
  let c' := c.onCtx 0 fun x =>
    { x with next := x.epc, hold := none,
                    levels := if x.epcWritten then [] else if c.handler then x.levels.take x.frozen else x.levels,
                    capture := if x.epcWritten then [] else if !c.handler then x.capture
                      else if x.frozen = 0 then [] else x.capture.filter fun p => p.1 < 2 ^ 64,
                    epcWritten := false, frozen := 0 }
  { c' with handler := false }

/-! ## The fault backlog (R329) -/

/-- The order of R329 among traps known together. -/
def LateKind.rank : LateKind → Nat
  | .first slot _ | .exit slot _ => slot
  | .fp => 2 ^ 10
  | .vm seq => 2 ^ 11 + seq.toNat
  | .engine order tag => 2 ^ 20 + 64 * order + tag
  | .step => 2 ^ 200
/-- A first-kind trap (R329). -/
def LateKind.isFirst : LateKind → Bool
  | .first _ _ | .exit _ _ => true
  | _ => false
/-- CAUSE.SEQ (R22). -/
def seqOf (cause : DWord) : Nat := (cause.extractLsb' 24 16).toNat
/-- A record's place among the held ones: after them, but before the V and M late faults of higher SEQ if it is one itself (R179, R329). -/
def insertFault (k : DWord × DWord) : List (DWord × DWord) → List (DWord × DWord)
  | [] => [k]
  | e :: t => if k.1.toNat % 256 = 0x13 ∧ e.1.toNat % 256 = 0x13 ∧ seqOf k.1 < seqOf e.1 then k :: e :: t else e :: insertFault k t
/-- A record held in the backlog; with 80 held it is dropped and counted in LOST (R329). -/
def Ctx.holdFault (x : Ctx) (cause tval : DWord) : Ctx :=
  if x.backlog.length < 80 then { x with backlog := insertFault (cause, tval) x.backlog } else { x with lost := x.lost + 1 }
/-- A trap becomes known to a context. -/
def Ctx.addLate (x : Ctx) (l : Late) : Ctx := { x with late := x.late ++ [l] }
/-- The traps that are due at an issue turn of core turn m: those known before it began (R212, R223); a first-kind trap is due at the next issue turn. -/
def Ctx.dueLate (x : Ctx) (now : Nat) : List Late := x.late.filter fun l => decide (l.known / 16 < now / 16)
/-- Late faults that are due join the backlog in order (R329). -/
def Ctx.holdDue (x : Ctx) (now : Nat) : Ctx :=
  let due := sortBy (fun l => l.kind.rank) ((x.dueLate now).filter fun l => !l.kind.isFirst)
  due.foldl (fun x l => x.holdFault l.cause l.tval)
    { x with late := x.late.filter fun l => l.kind.isFirst || !(decide (l.known / 16 < now / 16)) }
/-- The trap that a context takes at its issue turn (R329), and the context without it: EPC (none: the bundle about to issue), CAUSE, TVAL. -/
def Ctx.pickTrap (x : Ctx) (now : Nat) : Option (Option DWord × DWord × DWord × Ctx) :=
  let firsts := sortBy (fun l => l.kind.rank) ((x.dueLate now).filter fun l => l.kind.isFirst)
  let y := x.holdDue now
  match firsts with
  | l :: rest =>
    let z := { y with late := y.late.filter fun k => !(k ∈ l :: rest) }
    -- A second one is held at the head of the backlog (R329).
    let z := { z with backlog := rest.map (fun k => (k.cause, k.tval)) ++ z.backlog }
    match l.kind with
    | .first _ epc | .exit _ epc => some (some epc, l.cause, l.tval, z)
    | _ => none
  | [] =>
    match y.backlog with
    | (c, v) :: t => some (none, c, v, { y with backlog := t })
    | [] =>
      if y.lost ≠ 0 then some (none, causeWord 0x13 true 0 0 0, BitVec.ofNat 64 y.lost, { y with lost := 0 })
      else none

/-- Late faults known at a PARK exit join the backlog in order (R269, R223): those of V operations that fall due only at the next issue turn, and the step trap, do not (R179, R283). -/
def Ctx.holdKnown (x : Ctx) (now : Nat) : Ctx :=
  let known (l : Late) : Bool := match l.kind with
    | .engine _ _ => decide (l.known ≤ now)
    | .fp | .vm _ => decide (l.known < now)
    | _ => false
  (sortBy (fun l => l.kind.rank) (x.late.filter known)).foldl (fun x l => x.holdFault l.cause l.tval)
    { x with late := x.late.filter fun l => !known l }
/-- The trap that a context takes as it leaves PARK (R280, R329), as `pickTrap`: a trap of the first kind that is taken at the exit if none of a lower slot waits for the next issue turn; else, where the wait was one that R223 and R269 name (`held`), the first of the known late faults. After any other wait these are taken at the next issue turn (R210, R212, R223). -/
def Ctx.pickExit (x : Ctx) (held : Bool) (now : Nat) : Option (Option DWord × DWord × DWord × Ctx) :=
  match sortBy (fun l => l.kind.rank) (x.late.filter fun l => l.kind.isFirst) with
  | l :: rest =>
    match l.kind with
    | .exit _ epc =>
      let z : Ctx := { x with late := x.late.filter fun k => !(k ∈ l :: rest) }
      let y := if held then z.holdKnown now else z
      some (some epc, l.cause, l.tval, { y with backlog := rest.map (fun k => (k.cause, k.tval)) ++ y.backlog })
    | _ => none
  | [] =>
    if !held then none else
    let y := x.holdKnown now
    match y.backlog with
    | (c, v) :: t => some (none, c, v, { y with backlog := t })
    | [] =>
      if y.lost ≠ 0 then some (none, causeWord 0x13 true 0 0 0, BitVec.ofNat 64 y.lost, { y with lost := 0 })
      else none
/-- A context that leaves PARK takes the trap that is due at the exit, if any: a worker's late faults where its wait was a tag wait or a drain. -/
def State.exitTrap (s : State) (p n : Nat) (held : Bool) : State :=
  let x := s.ctx p n
  match x.pickExit (held && n != 0) s.now with
  | some (epc, cause, tval, y) => (s.onCtx p n fun _ => y).takeTrap p n (epc.getD x.next) cause tval
  | none => s

/-! ## Local and remote addresses (R29 to R32) -/

/-- Bank of a local address (R29). -/
def bankOf (a : Nat) : Nat := 4 * (a / 131072 % 4) + a / 8 % 4
/-- A byte of the local store that a context may reach (R30, R31). -/
def Core.reaches (c : Core) (n a : Nat) : Bool :=
  if a < 0x70000 then (c.banksOf n).getLsbD (bankOf a)
  else if a < 0x80000 then n = 0 || (0x78000 + 0x600 * n ≤ a && a < 0x78000 + 0x600 * (n + 1))
  else false
/-- Every word of the bytes a to a + len − 1 may be reached. -/
def Core.reachesAll (c : Core) (n a len : Nat) : Bool :=
  a + len ≤ 0x80000 && (upFrom (a / 8) ((a + len + 7) / 8 - a / 8)).all fun w =>
    c.reaches n (max a (8 * w)) && c.reaches n (min (8 * w + 7) (a + len - 1))
/-- The first byte of a region in a bank that `own` does not hold (R24, R31, R211). -/
def firstUnowned (own : Half) (r : Region) : Option Nat :=
  firstOf (fun b => decide (b < 0x70000) && !own.getLsbD (bankOf b))
    (r.lo :: ((upFrom (r.lo / 8 + 1) ((r.lo + r.len - 1) / 8 - r.lo / 8)).map (8 * ·)))
/-- The first byte of some regions in a bank that context n may not reach (R31). -/
def Core.lostBank (c : Core) (n : Nat) (l : List (Nat × Nat)) : Option Nat :=
  (firstOf Option.isSome (l.map fun r => firstUnowned (c.banksOf n) ⟨r.1, r.2, false⟩)).getD none
/-- The fields of a remote address (R32). -/
def remoteCore (a : DWord) : Nat := (a.extractLsb' 32 16).toNat
/-- LADDR (R32). -/
def laddrOf (a : DWord) : Nat := (a.extractLsb' 0 19).toNat
/-- G (R32). -/
def isRemote (a : DWord) : Bool := a.getLsbD 63
/-- P (R32). -/
def isPhys (a : DWord) : Bool := a.getLsbD 62
/-- A remote address that keeps the fields of R32. -/
def remoteForm (a : DWord) : Bool := a.extractLsb' 48 14 == 0 && a.extractLsb' 19 13 == 0
/-- The target of a migration between arm and commit or abort (R284). -/
def Core.armed (c : Core) : Option Nat :=
  match c.migration with
  | some m => if m.committed.isNone && decide (m.target < 65536) then some m.target else none
  | none => none
/-- The core refuses requests, and copy words for it are held (R284). -/
def Core.frozen (c : Core) : Bool :=
  match c.migration with
  | some m => m.frozen && m.committed.isNone
  | none => false
/-- The physical core that a remote address names from context n of core c, if it is one that R32 admits: in the reach, or the armed target of a migration (R284). -/
def Core.target (c : Core) (n : Nat) (a : DWord) : Option Nat :=
  let k := remoteCore a
  if isPhys a then
    if physValid k && ((c.launches.any fun l => k ∈ l.map) || c.armed == some k)
    then some k else none
  else c.physOfLogical n k

/-! ## Stores to a local store -/

/-- A matrix command in flight that reads some words may read from now on what they hold now (R133). -/
def Cmd.sees (k : Cmd) (ws : List Nat) (word : Nat → DWord) : Cmd :=
  if k.started.isNone then k else
  { k with data := k.data ++ (ws.filter fun w => k.data.any (·.1 == 8 * w)).map fun w => (8 * w, word (8 * w)) }
/-- A store of the low n bytes of v at a of a core, in this cycle: the bytes are written, the words' earlier values are kept for port B, and matrix commands in flight may read either (R133), and watch slots on the words are re-tested (R147). Full/empty bits are unchanged (R33). -/
def Core.storeBytes (c : Core) (a n v : Nat) : Core :=
  let ws := upFrom (a / 8) ((a + n + 7) / 8 - a / 8)
  let old := ws.filterMap fun w => if c.wrote.any (fun p => p.1 == 8 * w) then none else some (8 * w, c.word (8 * w))
  let ls := memWrite c.ls a n v
  { c with
    ls := ls
    mflight := c.mflight.map fun k => k.sees ws fun w => BitVec.ofNat 64 (memRead ls w 8)
    wrote := c.wrote ++ old
    poison := c.poison.filter fun w => !(8 * (w / 8) ∈ ws.map (8 * ·))
    watches := c.watches.map fun k => if (k.pkt.laddr / 8) ∈ ws then { k with retest := max 1 k.retest } else k }
/-- Watch slots on a word are to be re-tested (R147). -/
def Core.touch (c : Core) (a : Nat) : Core :=
  { c with watches := c.watches.map fun k => if k.pkt.laddr / 8 = a / 8 then { k with retest := max 1 k.retest } else k }
/-- What a word held before this cycle's stores: what an operation reads whose bundle stores in the same cycle (R44). -/
def Core.wordBefore (c : Core) (a : Nat) : DWord := (find c.wrote (8 * (a / 8))).getD (c.word (8 * (a / 8)))
/-- The core with its local store as it was before this cycle's stores (R44). -/
def Core.asIssued (c : Core) : Core := { c with ls := c.wrote.foldl (fun m w => memWrite m w.1 8 w.2.toNat) c.ls }
/-- A word's full/empty bit (R29): true is full. -/
def Core.full (c : Core) (a : Nat) : Bool := !(8 * (a / 8) ∈ c.empties)
/-- A word's full/empty bit set. -/
def Core.setFull (c : Core) (a : Nat) (b : Bool) : Core :=
  let w := 8 * (a / 8)
  { c with empties := if b then c.empties.filter (· != w) else insertBy id w (c.empties.filter (· != w)) }

end Sys2Proof.Machine

namespace Sys2Proof.Machine

/-! ## Waits (R12) and the receive log (R335) -/

/-- No wait of a context is left. -/
def Ctx.waitsOver (x : Ctx) : Bool := !(x.parks.any fun k => k.ended == .waiting)
/-- The issuing context parks on a wait of this kind (R12), whose end, if it has come already, and counted copies are given; one that the bundle has stopped stays stopped (R268). -/
def State.parkWith (s : State) (k : ParkKind) (i : Instr) (a b c : DWord) (id : Nat) (ended : ParkEnd) (counts : List Nat) : State :=
  s.onCur fun x => { x with st := if x.st = .stop then .stop else .park, parks := x.parks ++
    [⟨k, i, s.frame.words, s.frame.slot, s.frame.addr, a, b, c, s.now, 0, id, false, ended, 0, counts⟩] }
/-- A wait begun by the issuing context (R12). A context that its own bundle has stopped stays stopped, and waits on once it is returned (R268). -/
def State.parkAs (s : State) (k : ParkKind) (i : Instr) (a b c : DWord) (id : Nat) : State :=
  s.parkWith k i a b c id .waiting []

/-- A receive entered in the log of 1,024 entries; when it is full and not drained the oldest is lost, which the next one shows (R337). -/
def Core.receive (c : Core) (r : Receive) : Core :=
  if c.recvs.length < 1024 then { c with recvs := c.recvs ++ [r] }
  else
    let kept := match c.recvs.drop 1 with | [] => [] | k :: t => { k with gap := true } :: t
    { c with recvs := kept ++ [r], lostLog := c.lostLog + 1 }
/-- A receive of a kind, with what R335 records of it. -/
def receiveOf (kind ctx : Nat) (src : Half) (sctx tide : Nat) (value : DWord) (laddr len : Nat) (bytes : List Byte) (what : Option Got) : Receive :=
  ⟨BitVec.ofNat 8 kind, BitVec.ofNat 4 ctx, src, BitVec.ofNat 4 sctx, tide, value, BitVec.ofNat 19 laddr, BitVec.ofNat 16 len,
    bytes, what, false⟩

end Sys2Proof.Machine
end

