-- ==== Sys2Proof/Machine/Operands.lean ====
section
/-! DEFINITION. Operand forms: which registers an operation names (R14, R18, R44), the checks of decode steps 3 to 9 and 12 that its encoding and the issuing context decide (R20, R60, R61), effective addresses and their checks (R129, R130, R221), and the shape of an operation's meaning. -/
namespace Sys2Proof.Machine

/-- A register named by a field. -/
inductive Reg
  | x (r : SReg) | v (r : VReg) | q (p : PReg)
  deriving DecidableEq, Repr

/-- The number that TVAL reports for a register (R61). -/
def Reg.field : Reg → Nat
  | .x r => r.toNat | .v r => r.toNat | .q p => p.toNat
/-- The destination of a register of context n; none for x0 and q0 (R15). -/
def Reg.dest (n : Nat) : Reg → Option Dest
  | .x r => if r = 0 then none else some (xDest n r)
  | .v r => some (vDest n r)
  | .q p => if p = 0 then none else some (.q n p)

/-- x3 and x4 to x7, which SPAWN and START copy (R264, R277). -/
def taskRegs : List Reg := [.x 3, .x 4, .x 5, .x 6, .x 7]

/-- The registers an operation writes (R18, R180, R215, R274). -/
def Instr.dests : Instr → List Reg
  | .add d _ _ _ | .sub d _ _ _ | .sll d _ _ _ | .srl d _ _ _ | .sra d _ _ _ | .mul d _ _ _ => [.x d]
  | .and d _ _ | .or d _ _ | .xor d _ _ => [.x d]
  | .mulh d _ _ _ => [.x d]
  | .div d _ _ _ _ | .rem d _ _ _ _ | .minmax d _ _ _ _ => [.x d]
  | .cmp q _ _ _ => [.q q]
  | .sel d _ _ _ _ => [.x d]
  | .addi d _ _ | .andi d _ _ | .ori d _ _ | .xori d _ _ => [.x d]
  | .shi d _ _ _ _ => [.x d]
  | .lui d _ => [.x d]
  | .cmpi q _ _ => [.q q]
  | .bfx d _ _ _ _ => [.x d]
  | .bfi d _ _ _ => [.x d]
  | .bitc d _ _ => [.x d]
  | .adda d _ _ _ => [.x d]
  | .jal d _ => [.x d]
  | .jalr d _ _ => [.x d]
  | .mfs d _ => [.x d]
  | .fop _ _ d _ _ | .ffma _ _ d _ _ => [.x d]
  | .fcmp _ _ q _ _ => [.q q]
  | .fcvt _ _ _ d _ => [.x d]
  | .swap d _ _ _ => [.x d]
  | .migrArm d _ | .migrCommit d _ => [.x d]
  | .ld8 d _ _ | .ld8z d _ _ | .ld16 d _ _ | .ld16z d _ _ | .ld32 d _ _ | .ld32z d _ _ | .ld64 d _ _ => [.x d]
  | .ldv d _ _ => [.v d]
  | .ldbit d _ _ _ _ => [.x d]
  | .ldf d _ _ | .ldff d _ _ => [.x d]
  | .aswp d _ _ _ | .acas d _ _ _ | .aadd d _ _ _ | .afadd d _ _ _ => [.x d]
  | .alog _ d _ _ _ => [.x d]
  | .aminmax d _ _ _ _ _ => [.x d]
  | .ldgv d _ _ _ _ => [.v d]
  | .sigw d _ _ _ => [.x d]
  | .vadd _ d _ _ _ | .vsub _ d _ _ _ | .vmul _ d _ _ _ => [.v d]
  | .vfma _ d _ _ _ | .vfms _ d _ _ _ => [.v d]
  | .vmin _ d _ _ | .vmax _ d _ _ => [.v d]
  | .vabsn _ _ d _ => [.v d]
  | .viadd _ _ d _ _ | .visub _ _ d _ _ => [.v d]
  | .vimul _ _ d _ _ => [.v d]
  | .vimad _ d _ _ _ => [.v d]
  | .vand d _ _ _ | .vor d _ _ _ | .vxor d _ _ _ => [.v d]
  | .vshl _ d _ _ | .vshr _ d _ _ | .vsar _ d _ _ => [.v d]
  | .vcmp _ _ d _ _ => [.v d]
  | .vicmp _ _ d _ _ => [.v d]
  | .vsel d _ _ _ => [.v d]
  | .vpermb d _ _ _ _ => [.v d]
  | .vshuf d _ _ _ => [.v d]
  | .vslide _ d _ _ _ => [.v d]
  | .vbcast _ d _ => [.v d]
  | .vext _ d _ _ => [.x d]
  | .vins _ d _ _ => [.v d]
  | .vred _ _ (.vec d) _ => [.v d]
  | .vred _ _ (.scalar d) _ => [.x d]
  | .vsfu _ _ d _ => [.v d]
  | .vcvt _ _ _ _ _ _ d _ => [.v d]
  | .vcvti _ _ _ _ d _ => [.v d]
  | .vqmx _ _ _ d _ c => [.v d, .x c]
  | .vdqmx _ _ _ _ d _ _ => [.v d]
  | .vcmpr _ _ d _ c => [.v d, .x c]
  | .vpack _ d _ | .vunpk _ d _ => [.v d]
  | .vrng _ d => [.v d]
  | .vdot _ d _ _ _ => [.v d]
  | .vbitc _ _ d _ => [.v d]
  | .vsatn _ _ d _ _ => [.v d]
  | .vmaskq _ (.any q) _ | .vmaskq _ (.all q) _ => [.q q]
  | .vmaskq _ (.bits d) _ => [.x d]
  | .viota _ d _ _ => [.v d]
  | .vscl _ _ _ _ d _ _ => [.v d]
  | .mrdv _ _ v _ => [.v (v.setWidth 6)]
  | .tany _ b | .tffr _ b => [.x b]
  | .ercv _ b _ => [.x b]
  | .bara b _ _ => [.x b]
  | .spawn _ _ c => [.x c]
  | .popd q | .steal _ q => [.x 4, .x 5, .x 6, .x 7, .q q]
  | .rpop a _ _ _ => [.x a]
  | .swait _ _ c _ => [.x c]
  | .rdyqPush _ c _ | .rdyqPushh _ c _ => [.x c]
  | .rdyqPop b c => [.x b, .x c]
  | .rdyqCount b | .rdyqRefill b | .rdyqRpst b => [.x b]
  | .rdyqSpill _ c => [.x c]
  | .rdyqFlush c _ => [.x c]
  | _ => []

/-- The registers an operation reads in its issue cycle (R44), in the order of their fields, then the implied ones. -/
def Instr.srcs : Instr → List Reg
  | .add _ a b _ | .sub _ a b _ | .sll _ a b _ | .srl _ a b _ | .sra _ a b _ | .mul _ a b _ => [.x a, .x b]
  | .and _ a b | .or _ a b | .xor _ a b => [.x a, .x b]
  | .mulh _ a b _ => [.x a, .x b]
  | .div _ a b _ _ | .rem _ a b _ _ | .minmax _ a b _ _ => [.x a, .x b]
  | .cmp _ a b _ => [.x a, .x b]
  | .sel _ a b q _ => [.x a, .x b, .q q]
  | .addi _ a _ | .andi _ a _ | .ori _ a _ | .xori _ a _ => [.x a]
  | .shi _ a _ _ _ => [.x a]
  | .cmpi _ a _ => [.x a]
  | .bfx _ a _ _ _ => [.x a]
  | .bfi d a _ _ => [.x d, .x a]
  | .bitc _ a _ => [.x a]
  | .adda _ a b _ => [.x a, .x b]
  | .jalr _ a _ => [.x a]
  | .loop _ a _ _ _ _ => [.x a]
  | .loopx _ a _ _ _ _ => [.x a]
  | .mts _ a | .timerWrite a | .xvalWrite a => [.x a]
  | .fop .sqrt _ _ a _ => [.x a]
  | .fop _ _ _ a b => [.x a, .x b]
  | .ffma _ _ d a b => [.x d, .x a, .x b]
  | .fcmp _ _ _ a b => [.x a, .x b]
  | .fcvt _ _ _ _ a => [.x a]
  | .rettW a | .stop a | .resume a => [.x a]
  | .start a b => [.x a, .x b] ++ taskRegs
  | .swap _ a b _ => [.x a, .x b]
  | .migrArm _ a | .migrCommit _ a => [.x a]
  | .ld8 _ a _ | .ld8z _ a _ | .ld16 _ a _ | .ld16z _ a _ | .ld32 _ a _ | .ld32z _ a _ | .ld64 _ a _ => [.x a]
  | .ldv _ a _ => [.x a]
  | .ldf _ a _ | .ldff _ a _ => [.x a]
  | .st8 d a _ | .st16 d a _ | .st32 d a _ | .st64 d a _ | .ste d a _ | .stf d a _ => [.x d, .x a]
  | .stv d a _ => [.v d, .x a]
  | .ldbit _ a b _ _ => [.x a, .x b]
  | .stbit d a b _ => [.x d, .x a, .x b]
  | .aswp _ a b _ | .aadd _ a b _ | .afadd _ a b _ => [.x a, .x b]
  | .acas d a b _ => [.x d, .x a, .x b]
  | .alog _ _ a b _ => [.x a, .x b]
  | .aminmax _ a b _ _ _ => [.x a, .x b]
  | .ldgv _ a b _ _ => [.x a, .v b]
  | .stsv d a b _ _ => [.v d, .x a, .v b]
  | .febit a b _ => [.x a, .x b]
  | .sigw _ a b _ => [.x a, .x b]
  | .vadd _ _ a b _ | .vsub _ _ a b _ | .vmul _ _ a b _ => [.v a, .v b]
  | .vfma _ _ a b c | .vfms _ _ a b c => [.v a, .v b, .v c]
  | .vmin _ _ a b | .vmax _ _ a b => [.v a, .v b]
  | .vabsn _ _ _ a => [.v a]
  | .viadd _ _ _ a b | .visub _ _ _ a b => [.v a, .v b]
  | .vimul _ _ _ a b => [.v a, .v b]
  | .vimad _ _ a b c => [.v a, .v b, .v c]
  | .vand _ a b _ | .vor _ a b _ | .vxor _ a b _ => [.v a, .v b]
  | .vshl _ _ a (.lanes b) | .vshr _ _ a (.lanes b) | .vsar _ _ a (.lanes b) => [.v a, .v b]
  | .vshl _ _ a (.imm _) | .vshr _ _ a (.imm _) | .vsar _ _ a (.imm _) => [.v a]
  | .vcmp _ _ _ a b => [.v a, .v b]
  | .vicmp _ _ _ a b => [.v a, .v b]
  | .vsel _ a b c => [.v a, .v b, .v c]
  | .vpermb _ a b _ _ => [.v a, .v b]
  | .vshuf _ a b c => [.v a, .v b, .v c]
  | .vslide _ _ a b _ => [.v a, .v b]
  | .vbcast _ _ (.scalar a) => [.x a]
  | .vbcast _ _ (.lane a _) => [.v a]
  | .vext _ _ a (.imm _) => [.v a]
  | .vext _ _ a (.reg r) => [.v a, .x r]
  | .vins _ d a (.imm _) => [.v d, .x a]
  | .vins _ d a (.reg r) => [.v d, .x a, .x r]
  | .vred _ _ _ a => [.v a]
  | .vsfu _ _ _ a => [.v a]
  | .vcvt _ _ into _ _ _ d a => if into then [.v a] else [.v d, .v a]
  | .vcvti _ _ _ _ _ a => [.v a]
  | .vqmx _ _ _ _ a _ => [.v a, .v (a + 1), .v (a + 2), .v (a + 3)]
  | .vdqmx _ _ _ _ _ a c => [.v a, .x c]
  | .vcmpr _ _ d a _ => [.v d, .v a]
  | .vpack _ _ a | .vunpk _ _ a => [.v a]
  | .vdot _ _ a b c => [.v a, .v b, .v c]
  | .vbitc _ _ _ a => [.v a]
  | .vsatn _ _ _ a b => [.v a, .v b]
  | .vmaskq _ _ a => [.v a]
  | .viota _ _ a b => [.x a, .x b]
  | .vscl _ _ _ _ _ a c => [.v a, .x c]
  | .mma _ t _ | .mmas _ t _ | .mmaz _ t _ | .mseq _ t _ _ _ =>
    if t.fa.isElem then [.x t.a, .x t.b, .x t.s] else [.x t.a, .x t.b]
  | .mrd _ a b _ _ _ _ | .mwr _ a b _ _ _ _ => [.x a, .x b]
  | .mrdv _ a _ _ => [.x a]
  | .mscl _ a _ _ => [.x a]
  | .cpyi a b c _ _ | .cpyo a b c _ _ => [.x a, .x b, .x c]
  | .cpyl a b c _ => [.x a, .x b, .x c]
  | .foot a b _ => [.x a, .x b]
  | .twait a | .tclr a => [.x a]
  | .tany a _ | .tffr a _ => [.x a]
  | .tsnd a _ _ => [.x a]
  | .trcv a _ _ _ => [.x a]
  | .esnd a b c _ _ _ _ => [.x a, .x b, .x c]
  | .ercv a _ _ => [.x a]
  | .bari a _ | .barw a _ => [.x a]
  | .spawn a b _ => [.x a, .x b] ++ taskRegs
  | .fork a => [.x a, .x 4, .x 5, .x 6, .x 7]
  | .join a => [.x a]
  | .steal a _ => [.x a]
  | .rpsh a c _ => [.x a, .x c]
  | .rpop _ b c _ => [.x b, .x c]
  | .sdldCell a b c _ => [.x a, .x b, .x c]
  | .sdldCoup a b _ | .sdldBridge a b _ => [.x a, .x b]
  | .sdclpClamp a b c _ | .sdclpRelease a b c _ | .sdclpSet a b c _ => [.x a, .x b, .x c]
  | .sdswp a b _ _ _ => [.x a, .x b]
  | .sdrd a b c _ _ | .sdcnt a b c _ _ => [.x a, .x b, .x c]
  | .sdseed a _ | .sdseedStore a _ => [.x a]
  | .sdtbl a _ => [.x a]
  | .sdbeta a b _ => [.x a, .x b]
  | .sigs a b _ _ => [.x a, .x b]
  | .swait a b _ _ => [.x a, .x b]
  | .codel a b _ => [.x a, .x b]
  | .codei a b => [.x a, .x b]
  | .bankr a | .bankw a => [.x a]
  | .lsnd a c _ | .lrcv a c _ | .lred a c _ => [.x a, .x c]
  | .hnfy a b _ => [.x a, .x b]
  | .movc a b c _ => [.x a, .x b, .x c]
  | .tide a _ => [.x a]
  | .tideRetide a => [.x a]
  | .rdyqPush a _ _ | .rdyqPushh a _ _ => [.x a]
  | .rdyqSpill a _ => [.x a]
  | .send a _ | .recv a _ => [.x a]
  | _ => []

/-- An operation of the V slot. -/
def Instr.isV (i : Instr) : Bool := (encVop i).isSome
/-- An operation of the M slot. -/
def Instr.isM (i : Instr) : Bool := (encM i).isSome

/-- Operations marked C0 (R261, R262). -/
def Instr.c0Only : Instr → Bool
  | .rett | .rettW _ | .start _ _ | .stop _ | .swap _ _ _ _ | .resume _ | .migrArm _ _ | .migrFreeze | .migrCommit _ _
  | .migrAbort | .codel _ _ _ | .codei _ _ | .movc _ _ _ _ | .tide _ _ | .tideRetide _ | .rdyqPush _ _ _
  | .rdyqPushh _ _ _ | .rdyqPop _ _ | .rdyqCount _ | .rdyqSpill _ _ | .rdyqRefill _ | .rdyqFlush _ _ | .rdyqRpst _ => true
  | _ => false
/-- Operations that trap 0x03 in C0 (R262). -/
def Instr.workerOnly : Instr → Bool
  | .quit | .popd _ | .steal _ _ => true
  | _ => false
/-- Operations that trap 0x02 on this kind of core, or in this code (R60, R420). -/
def Instr.absent (i : Instr) (p : Nat) (emonef : Bool) : Bool :=
  match i with
  | .lsnd _ _ _ | .lrcv _ _ _ | .lred _ _ _ => kindOf p != 2
  | .bari _ _ | .barw _ _ | .bara _ _ _ => !isOrdinary p
  | .send _ _ | .recv _ _ => !emonef
  | _ => false
/-- Special registers of R20 marked — for a worker. -/
def sprClosed (n : BitVec 6) : Bool := n.toNat ∈ [0x13, 0x14, 0x15, 0x20, 0x21]
/-- Special registers that are RO to a worker and RW to C0. -/
def sprRoWorker (n : BitVec 6) : Bool := n.toNat ∈ [0x10, 0x11, 0x12]

/-- TVAL of decode steps 2 to 9 (R61). -/
def State.tval61 (s : State) (word : Nat) : DWord :=
  (if word = 0 then s.frame.words.extractLsb' 0 32 else s.frame.words.extractLsb' 32 32) ++ s.frame.hdr ++ (0 : BitVec 12) ++
    BitVec.ofNat 1 word ++ BitVec.ofNat 3 s.frame.slot
/-- TVAL of a header fault (R61). -/
def headerTval (hdr : Half) : DWord := (0 : BitVec 32) ++ hdr ++ (0 : BitVec 12) ++ (0 : BitVec 1) ++ (7 : BitVec 3)
/-- TVAL of decode steps 10 and 12 (R61). -/
def earlyTval (slot field : Nat) : DWord := BitVec.ofNat 64 (slot + 256 * field)

/-- A check: the trap to raise where the condition holds, else the later checks. -/
def Trap.orIf (b : Bool) (t : Trap) (rest : Option Trap) : Option Trap := if b then some t else rest
/-- The first element that occurs twice in a list. -/
def hasDup {α : Type} [DecidableEq α] : List α → Bool
  | [] => false
  | a :: t => a ∈ t || hasDup t
/-- The destinations under R18 of an operation issued by context n. -/
def Instr.destsOf (i : Instr) (n : Nat) : List Dest := (Instr.dests i).filterMap (Reg.dest n)

/-- Checks of decode steps 3 to 9 that one operation decides (R14, R18, R20, R60, R61). -/
def State.fieldTrap (s : State) (i : Instr) : Option Trap :=
  let n := s.frame.ctx
  let p := s.frame.core
  Trap.orIf (n == 0 && (Instr.isV i || Instr.isM i)) ⟨3, 0x05, headerTval s.frame.hdr⟩ <|
  Trap.orIf (Instr.absent i p (s.core p).emonef) ⟨4, 0x02, s.tval61 0⟩ <|
  Trap.orIf (n == 0 && Instr.workerOnly i) ⟨6, 0x03, s.tval61 0⟩ <|
  Trap.orIf (match i with
    | .mts r _ => (n == 0 && r == 0x14) || (n != 0 && sprRoWorker r) || (r == 0x28 && isOrdinary p)
    | .mfs _ r => r == 0x28 && isOrdinary p
    | _ => false) ⟨6, 0x03, s.tval61 0⟩ <|
  Trap.orIf (n != 0 && Instr.c0Only i) ⟨7, 0x04, s.tval61 0⟩ <|
  Trap.orIf (n != 0 && (match i with
    | .mts r _ => sprClosed r
    | .mfs _ r => sprClosed r
    | .timerWrite _ => true
    | .xvalWrite _ => true
    | _ => false)) ⟨7, 0x04, s.tval61 0⟩ <|
  Trap.orIf (n == 0 && ((Instr.dests i).any (fun r => match r with | .v _ => true | _ => false) ||
    (Instr.srcs i).any (fun r => match r with | .v r => r.toNat < 32 | _ => false))) ⟨8, 0x05, s.tval61 0⟩ <|
  Trap.orIf (hasDup (Instr.destsOf i n)) ⟨9, 0x01, s.tval61 0⟩ none
/-- Decode step 12 (R61, R63): with CHECK.LV, a source that the context's own unlanded write still covers. -/
def State.earlyTrap (s : State) (i : Instr) : Option Trap :=
  if !s.cur.lv then none else
  match firstOf (fun r => match Reg.dest s.frame.ctx r with
      | some d => s.here.earlyOwn s.now s.frame.ctx d
      | none => false) (Instr.srcs i) with
  | some r => some ⟨12, 0x0B, earlyTval s.frame.slot r.field⟩
  | none => none
/-- The first trap of an operation in the order of R61: steps 3 to 9, and with a guard of 1 steps 12 and 13. -/
def State.firstTrap (s : State) (i : Instr) (chk : State → Option Trap) : Option Trap :=
  match s.fieldTrap i with
  | some t => some t
  | none => if !s.frame.guard then none else
    match s.earlyTrap i with
    | some t => some t
    | none => chk s
/-- A failed check is noted if none of an earlier step, or of an earlier slot at its step, is (R61). -/
def State.note (s : State) (t : Option Trap) : State :=
  match t with
  | none => s
  | some t =>
    let better := match s.frame.noted with
      | none => true
      | some (slot, u) => t.step < u.step || (t.step == u.step && s.frame.slot < slot)
    if better then { s with frame := { s.frame with noted := some (s.frame.slot, t) } } else s

/-- The shape of every operation's meaning: the checks of its entry, and its effect (R61). -/
def operation (i : Instr) (chk : State → Option Trap) (perf : State → State) (s : State) : Out :=
  match s.frame.phase with
  | .check => .next (s.note (s.firstTrap i chk))
  | .perform => .next (perf s)
  | .whole =>
    match s.firstTrap i chk with
    | some t => .next (s.issueTrap t.cause t.tval)
    | none => .next (perf s)
/-- No check at step 13. -/
def noCheck (_ : State) : Option Trap := none
/-- A step 13 trap. -/
def trap13 (cause : Nat) (tval : DWord) : Option Trap := some ⟨13, cause, tval⟩
/-- A value outside the limits of an entry (R215). -/
def badValue (b : Bool) (v : DWord) (rest : Option Trap) : Option Trap := Trap.orIf b ⟨13, 0x03, v⟩ rest

/-! ## Effective addresses (R109, R129) -/

/-- Bits [18:0] replaced by their sum with an offset; a carry is discarded. -/
def effAddr (a : DWord) (off : BitVec 19) : DWord := a.extractLsb' 19 45 ++ (a.extractLsb' 0 19 + off)
/-- An RRI address. -/
def effImm (a : DWord) (imm : BitVec 14) : DWord := effAddr a (imm.signExtend 19)
/-- A natural offset. -/
def effNat (a : DWord) (off : Nat) : DWord := effAddr a (BitVec.ofNat 19 off)

/-- Bits [62:19] of a local address are zero and the address is inside the store and allowed to context n (R30, R31). -/
def Core.localOk (c : Core) (n : Nat) (a : DWord) : Bool := a.toNat < 0x80000 && c.reaches n a.toNat
/-- R130, one word of an access: `lo` restricts to local addresses. -/
def State.checkAddr (s : State) (a : DWord) (align : Nat) (lo : Bool) (rest : Option Trap) : Option Trap :=
  let n := s.frame.ctx
  Trap.orIf (n != 0 && isRemote a && isPhys a) ⟨13, 0x04, a⟩ <|
  Trap.orIf (isRemote a && (lo || !remoteForm a || (s.here.target n a).isNone || 0x70000 ≤ laddrOf a)) ⟨13, 0x08, a⟩ <|
  Trap.orIf (!isRemote a && !s.here.localOk n a) ⟨13, 0x06, a⟩ <|
  Trap.orIf (laddrOf a % align != 0) ⟨13, 0x07, a⟩ rest

/-! ## Starts (R51) -/

/-- With F = 1 the OFFSET lies in a later turn than the issuing one (R51). -/
def State.offsetPassed (s : State) (st : Start) : Bool := st.f && decide (st.off.toNat < 16 * s.cur.turn.toNat)
/-- The device cycle of a start: B + OFFSET + 16 D, as the context's displacement stands (R305). -/
def Ctx.startCycle (x : Ctx) (st : Start) : Nat := x.base + st.off.toNat + 16 * x.disp

end Sys2Proof.Machine
end

