-- ==== Sys2Proof/Machine/Flags.lean ====
section
/-! DEFINITION. Floating-point control: effective modes, SEED, flags and their traps (spec/03_number_formats.md R77 to R85, spec/04_scalar_and_control.md R113, spec/06_vector_arithmetic.md R156, R179). -/
namespace Sys2Proof.Machine

/-- FCR.FTZ (R21). -/
def Ctx.ftz (x : Ctx) : Bool := x.fcr.getLsbD 3
/-- FCR.RM, sampled at issue (R78). -/
def Ctx.rm (x : Ctx) : Nat := (x.fcr.extractLsb' 0 3).toNat
/-- The enable bits FCR[20:16] (R21). -/
def Ctx.enables (x : Ctx) : Fl := x.fcr.extractLsb' 16 5
/-- FCR as an operation samples it in its issue cycle: a write that has not landed affects later bundles only, a C0 write through XVAL too (R78). -/
def State.fcrNow (s : State) : DWord := s.cur.fcr

/-- Effective modes before the draws are made. -/
inductive RMode | rne | rtz | rdn | rup | sr
  deriving DecidableEq, Repr
/-- FCR.RM as a mode (R77). -/
def rmMode (rm : Nat) : RMode :=
  match rm with
  | 0 => .rne | 1 => .rtz | 2 => .rdn | 3 => .rup | _ => .sr
/-- The effective mode of an operation whose field overrides FCR (R156). -/
def Rmo.mode (rm : Nat) : Rmo → RMode
  | .fcr => rmMode rm | .rne => .rne | .rtz => .rtz | .rdn => .rdn | .rup => .rup | .sr => .sr
/-- The mode of element j with SEED after the step (R83). -/
def RMode.at (m : RMode) (seed : DWord) (j : Nat) : Mode :=
  match m with
  | .rne => .rne | .rtz => .rtz | .rdn => .rdn | .rup => .rup | .sr => .sr (srDraw seed j)
/-- RNE where R85 applies no SR. -/
def RMode.noSr (m : RMode) : Mode :=
  match m with
  | .rtz => .rtz | .rdn => .rdn | .rup => .rup | _ => .rne

/-- SEED after the step of an SR operation of this bundle: the S slot steps before the V slot (R84). -/
def State.seedStep (s : State) : DWord := gStep (s.frame.seed.getD s.cur.seed)
/-- SEED advanced to `v` in this issue cycle. A write to SEED that is issued in this bundle, or was issued one turn before, is kept and replaces the advance (R84, log 9). -/
def State.seedTo (s : State) (v : DWord) : State :=
  let s' := { s with frame := { s.frame with seed := some v } }
  s'.onCur fun x => if x.seedWrite.any (fun t => decide (s.now < t + 32)) then x else { x with seed := v }
/-- The SEED that an SR operation draws from, and the state after its step; any other mode leaves SEED alone (R83, R85). -/
def State.forMode (s : State) (m : RMode) : DWord × State :=
  if m = .sr then (s.seedStep, s.seedTo s.seedStep) else (0, s)

/-- Flags merged into FCR in the last cycle of the window (R79). -/
def State.mergeFlags (s : State) (f : Fl) (lat : Nat) : State :=
  if f = 0 then s else s.write (.flags s.frame.ctx) (.word (f.setWidth 64 <<< 8)) lat
/-- TVAL of a floating-point trap (R80). -/
def fpTval (addr : DWord) (f : Fl) : DWord := (0 : BitVec 11) ++ f ++ addr.extractLsb' 0 48
/-- A scalar operation's flags: merged, and with an enabled flag a trap at turn t + L (R80). -/
def State.scalarFlags (s : State) (f : Fl) (lat : Nat) : State :=
  let s' := s.mergeFlags f lat
  let e := f &&& s.cur.enables
  if e = 0 then s' else
    s'.onCur fun x => x.addLate ⟨.fp, causeOf 0x16, fpTval s.frame.addr e, 16 * (s.now / 16 + lat) - 1⟩
/-- A V operation's flags: merged, and with an enabled flag the late fault 0x13 at turn t + L (R179). -/
def State.vectorFlags (s : State) (f : Fl) (lat : Nat) (seq : Half) : State :=
  let s' := s.mergeFlags f lat
  let e := f &&& s.cur.enables
  if e = 0 then s' else
    s'.onCur fun x => x.addLate ⟨.vm seq, causeWord 0x13 true 0 0x16 seq, fpTval s.frame.addr e, 16 * (s.now / 16 + lat) - 1⟩

/-- A V or M operation takes the next sequence number and enters the dispatch ring (R25, R153, R195). -/
def State.dispatch (s : State) (m : Bool) : State :=
  s.onCur fun x =>
    let e : RingEntry := ⟨x.vseqNext, m, s.frame.addr.setWidth 17, s.frame.words⟩
    { x with vseqNext := x.vseqNext + 1, ring := (x.ring ++ [e]).drop (x.ring.length + 1 - 32) }

end Sys2Proof.Machine
end

