-- ==== Sys2Proof/Machine/Scalar.lean ====
section
/-! DEFINITION. Meanings of the integer operations of the S slot (spec/04_scalar_and_control.md R98 to R109) and of the pure wait bundle (spec/02_bundles_and_opcode_map.md R45). -/
namespace Sys2Proof.Machine

/-- The low 32 bits sign-extended (R100). -/
def sext32 (v : DWord) : DWord := (v.setWidth 32).signExtend 64
/-- A 64-bit operation, or the same at 32 bits with its result sign-extended (R100). -/
def wform (w : Bool) (f : DWord → DWord → DWord) (g : Word → Word → Word) (a b : DWord) : DWord :=
  if w then (g (a.setWidth 32) (b.setWidth 32)).signExtend 64 else f a b
/-- The shift amount of R100: b[5:0], or b[4:0] in the W form. -/
def shAmt {n : Nat} (w : Bool) (b : BitVec n) : Nat := b.toNat % (if w then 32 else 64)
/-- An S operation with one scalar result and no check of step 13. -/
def alu (i : Instr) (d : SReg) (lat : Nat) (v : State → DWord) : State → Out :=
  operation i noCheck fun s => s.wx d (v s) lat

/-- MULH's product (R100). -/
def mulHigh (sg : MulSign) (a b : DWord) : DWord :=
  let x : Int := if sg = .nn then a.toNat else a.toInt
  let y : Int := if sg = .ss then b.toInt else b.toNat
  BitVec.ofInt 64 (x * y / 2 ^ 64)
/-- DIV at width n (R100, R101). -/
def divVal {n : Nat} (u : Bool) (a b : BitVec n) : BitVec n :=
  if b = 0 then BitVec.allOnes n
  else if u then a / b
  else BitVec.ofInt n (Int.tdiv a.toInt b.toInt)
/-- REM at width n (R100, R101). -/
def remVal {n : Nat} (u : Bool) (a b : BitVec n) : BitVec n :=
  if b = 0 then a
  else if u then a % b
  else BitVec.ofInt n (Int.tmod a.toInt b.toInt)
/-- Comparison as signed or natural numbers. -/
def lessThan {n : Nat} (u : Bool) (a b : BitVec n) : Bool := if u then a.ult b else a.slt b
/-- The eight conditions of R102 at any width. -/
def condHolds {n : Nat} (c : Cond) (a b : BitVec n) : Bool :=
  match c with
  | .eq => a == b
  | .ne => a != b
  | .lt => a.slt b
  | .ge => !a.slt b
  | .ltu => a.ult b
  | .geu => !a.ult b
  | .tst => (a &&& b) != 0
  | .ntst => (a &&& b) == 0
/-- A shift of SHI (R105) at width n. -/
def shiftVal {n : Nat} (k : ShiftKind) (a : BitVec n) (amt : Nat) : BitVec n :=
  match k with
  | .sll => a <<< amt
  | .srl => a >>> amt
  | .sra => a.sshiftRight amt
  | .ror => a.rotateRight amt
/-- A field of w bits at a position (R107). -/
def fieldOf (a : DWord) (pos w : Nat) : DWord := (a >>> pos) &&& lowMask w
/-- A value of w bits sign-extended (R107, R142). -/
def signField (v : DWord) (w : Nat) : DWord := (v <<< (64 - w)).sshiftRight (64 - w)
/-- A field replaced (R107). -/
def insertField (d a : DWord) (pos w : Nat) : DWord :=
  let m := lowMask w <<< pos
  (d &&& ~~~m) ||| ((a <<< pos) &&& m)
/-- The number of set bits. -/
def popCount {n : Nat} (a : BitVec n) : Nat := ((upTo n).filter fun i => a.getLsbD i).length
/-- Leading zeros from the top bit; n for zero. -/
def leadZeros {n : Nat} (a : BitVec n) : Nat := if a = 0 then n else n - 1 - Nat.log2 a.toNat
/-- Trailing zeros from bit 0; n for zero. -/
def trailZeros {n : Nat} (a : BitVec n) : Nat := ((firstOf (fun i => a.getLsbD i) (upTo n)).getD n)
/-- A count of R108 and R164. -/
def bitCount {n : Nat} (k : BitKind) (a : BitVec n) : Nat :=
  match k with
  | .pop => popCount a | .clz => leadZeros a | .ctz => trailZeros a

/-- PURE_WAIT_BUNDLE (R45): it occupies its issue turn and has no other effect. -/
def execPureWaitBundle (w : BitVec 4) (g : BitVec 3) (n : Bool) (s : State) : Out :=
  operation (.pureWaitBundle w g n) noCheck (fun s => s) s
/-- ADD (R100). -/
def execAdd (d a b : SReg) (w : Bool) (s : State) : Out :=
  alu (.add d a b w) d 1 (fun s => wform w (· + ·) (· + ·) (s.rx a) (s.rx b)) s
/-- SUB (R100). -/
def execSub (d a b : SReg) (w : Bool) (s : State) : Out :=
  alu (.sub d a b w) d 1 (fun s => wform w (· - ·) (· - ·) (s.rx a) (s.rx b)) s
/-- AND (R100). -/
def execAnd (d a b : SReg) (s : State) : Out := alu (.and d a b) d 1 (fun s => s.rx a &&& s.rx b) s
/-- OR (R100). -/
def execOr (d a b : SReg) (s : State) : Out := alu (.or d a b) d 1 (fun s => s.rx a ||| s.rx b) s
/-- XOR (R100). -/
def execXor (d a b : SReg) (s : State) : Out := alu (.xor d a b) d 1 (fun s => s.rx a ^^^ s.rx b) s
/-- SLL (R100). -/
def execSll (d a b : SReg) (w : Bool) (s : State) : Out :=
  alu (.sll d a b w) d 1 (fun s => wform w (fun x y => x <<< shAmt w y) (fun x y => x <<< shAmt w y) (s.rx a) (s.rx b)) s
/-- SRL (R100). -/
def execSrl (d a b : SReg) (w : Bool) (s : State) : Out :=
  alu (.srl d a b w) d 1 (fun s => wform w (fun x y => x >>> shAmt w y) (fun x y => x >>> shAmt w y) (s.rx a) (s.rx b)) s
/-- SRA (R100). -/
def execSra (d a b : SReg) (w : Bool) (s : State) : Out :=
  alu (.sra d a b w) d 1
    (fun s => wform w (fun x y => x.sshiftRight (shAmt w y)) (fun x y => x.sshiftRight (shAmt w y)) (s.rx a) (s.rx b)) s
/-- MUL (R100). -/
def execMul (d a b : SReg) (w : Bool) (s : State) : Out :=
  alu (.mul d a b w) d 1 (fun s => wform w (· * ·) (· * ·) (s.rx a) (s.rx b)) s
/-- MULH (R100). -/
def execMulh (d a b : SReg) (sg : MulSign) (s : State) : Out :=
  alu (.mulh d a b sg) d 1 (fun s => mulHigh sg (s.rx a) (s.rx b)) s
/-- DIV (R100, R101), latency 4. -/
def execDiv (d a b : SReg) (w u : Bool) (s : State) : Out :=
  alu (.div d a b w u) d 4 (fun s => wform w (divVal u) (divVal u) (s.rx a) (s.rx b)) s
/-- REM (R100, R101), latency 4. -/
def execRem (d a b : SReg) (w u : Bool) (s : State) : Out :=
  alu (.rem d a b w u) d 4 (fun s => wform w (remVal u) (remVal u) (s.rx a) (s.rx b)) s
/-- MINMAX (R100). -/
def execMinmax (d a b : SReg) (max u : Bool) (s : State) : Out :=
  alu (.minmax d a b max u) d 1
    (fun s => let x := s.rx a; let y := s.rx b
      if lessThan u x y then (if max then y else x) else (if max then x else y)) s
/-- CMP (R102). -/
def execCmp (q : PReg) (a b : SReg) (c : Cond) (s : State) : Out :=
  operation (.cmp q a b c) noCheck (fun s => s.wq q (condHolds c (s.rx a) (s.rx b)) 1) s
/-- SEL (R103). -/
def execSel (d a b : SReg) (q : PReg) (inv : Bool) (s : State) : Out :=
  alu (.sel d a b q inv) d 1 (fun s => if s.rq q != inv then s.rx a else s.rx b) s
/-- ADDI (R104). -/
def execAddi (d a : SReg) (imm : BitVec 14) (s : State) : Out :=
  alu (.addi d a imm) d 1 (fun s => s.rx a + imm.signExtend 64) s
/-- ANDI (R104). -/
def execAndi (d a : SReg) (imm : BitVec 14) (s : State) : Out :=
  alu (.andi d a imm) d 1 (fun s => s.rx a &&& imm.setWidth 64) s
/-- ORI (R104). -/
def execOri (d a : SReg) (imm : BitVec 14) (s : State) : Out :=
  alu (.ori d a imm) d 1 (fun s => s.rx a ||| imm.setWidth 64) s
/-- XORI (R104). -/
def execXori (d a : SReg) (imm : BitVec 14) (s : State) : Out :=
  alu (.xori d a imm) d 1 (fun s => s.rx a ^^^ imm.setWidth 64) s
/-- SHI (R105). -/
def execShi (d a : SReg) (k : ShiftKind) (w : Bool) (amt : BitVec 6) (s : State) : Out :=
  alu (.shi d a k w amt) d 1
    (fun s => if w then (shiftVal k ((s.rx a).setWidth 32) amt.toNat).signExtend 64 else shiftVal k (s.rx a) amt.toNat) s
/-- LUI (R104). -/
def execLui (d : SReg) (imm : BitVec 20) (s : State) : Out :=
  alu (.lui d imm) d 1 (fun _ => imm.signExtend 64 <<< 12) s
/-- CMPI (R106). -/
def execCmpi (q : PReg) (a : SReg) (imm : BitVec 14) (s : State) : Out :=
  operation (.cmpi q a imm) noCheck (fun s => s.wq q ((s.rx a).slt (imm.signExtend 64)) 1) s
/-- BFX (R107). -/
def execBfx (d a : SReg) (sx : Bool) (wm1 pos : BitVec 6) (s : State) : Out :=
  alu (.bfx d a sx wm1 pos) d 1
    (fun s => let f := fieldOf (s.rx a) pos.toNat (wm1.toNat + 1)
      if sx then signField f (wm1.toNat + 1) else f) s
/-- BFI (R107). -/
def execBfi (d a : SReg) (wm1 pos : BitVec 6) (s : State) : Out :=
  alu (.bfi d a wm1 pos) d 1 (fun s => insertField (s.rx d) (s.rx a) pos.toNat (wm1.toNat + 1)) s
/-- BITC (R108). -/
def execBitc (d a : SReg) (k : BitKind) (s : State) : Out :=
  alu (.bitc d a k) d 1 (fun s => BitVec.ofNat 64 (bitCount k (s.rx a))) s
/-- ADDA (R109). -/
def execAdda (d a b : SReg) (sh : BitVec 3) (s : State) : Out :=
  alu (.adda d a b sh) d 1 (fun s => effAddr (s.rx a) ((s.rx b <<< sh.toNat).setWidth 19)) s

end Sys2Proof.Machine
end

