-- ==== Sys2Proof/Machine/Control.lean ====
section
/-! DEFINITION. Meanings of branches and loop openings (spec/04_scalar_and_control.md R110, R111, R119 to R120) and the loop-nest sequencer (R121 to R125). -/
namespace Sys2Proof.Machine

/-- The address of the next sequential bundle (R40). -/
def State.nextAddr (s : State) : DWord := s.frame.addr + BitVec.ofNat 64 s.frame.len
/-- A PC-relative target (R53, R110). -/
def State.pcTarget (s : State) (imm : BitVec 20) : DWord := s.frame.addr + imm.signExtend 64 * 2
/-- An instruction address that R35 refuses: bit 0 set or bits [63:48] non-zero. -/
def badTarget (t : DWord) : Bool := t.getLsbD 0 || t.extractLsb' 48 16 != 0
/-- R111: the target is checked at the branch. -/
def checkTarget (t : DWord) : Option Trap := Trap.orIf (badTarget t) ⟨13, 0x07, t⟩ none
/-- The transfer of R46: the bundle at `t` is next. -/
def State.jump (s : State) (t : DWord) : State := { s with frame := { s.frame with target := some t } }

/-- BR (R110). -/
def execBr (imm : BitVec 20) (s : State) : Out :=
  operation (.br imm) (fun s => checkTarget (s.pcTarget imm)) (fun s => s.jump (s.pcTarget imm)) s
/-- JAL (R110). -/
def execJal (d : SReg) (imm : BitVec 20) (s : State) : Out :=
  operation (.jal d imm) (fun s => checkTarget (s.pcTarget imm)) (fun s => (s.jump (s.pcTarget imm)).wx d s.nextAddr 1) s
/-- JALR's target (R110). -/
def State.regTarget (s : State) (a : SReg) (imm : BitVec 14) : DWord := s.rx a + imm.signExtend 64 * 2
/-- JALR (R110). -/
def execJalr (d a : SReg) (imm : BitVec 14) (s : State) : Out :=
  operation (.jalr d a imm) (fun s => checkTarget (s.regTarget a imm))
    (fun s => (s.jump (s.regTarget a imm)).wx d s.nextAddr 1) s

/-- The levels that count the context's bundles: all but those that C0's trap left open (R121, R126). -/
def Ctx.live (x : Ctx) : List Level := x.levels.drop x.frozen
/-- R120: six levels are open, or an open body has too few bundles left. -/
def State.loopCheck (s : State) (len : BitVec 5) : Option Trap :=
  Trap.orIf (decide (6 ≤ s.cur.levels.length)) ⟨13, 0x01, 1⟩ <|
  Trap.orIf (s.cur.live.any fun l => decide (l.len.toNat < l.pos.toNat + len.toNat + 1)) ⟨13, 0x01, 2⟩ none
/-- The level that a LOOP or LOOPX opens with trip count a[31:0] (R119, R121). -/
def State.openLevel (s : State) (d a : SReg) (stride : BitVec 7) (src lo fo : Bool) (len : BitVec 5) : State :=
  let n : BitVec 32 := (s.rx a).setWidth 32
  let l : Level := ⟨s.nextAddr, n, len, 0, fo, lo, d, src, stride, true, n == 0⟩
  { s with frame := { s.frame with opened := some l } }
/-- LOOP (R119). -/
def execLoop (d a : SReg) (stride : BitVec 7) (lo fo : Bool) (len : BitVec 5) (s : State) : Out :=
  operation (.loop d a stride lo fo len) (fun s => s.loopCheck len) (fun s => s.openLevel d a stride false lo fo len) s
/-- LOOPX (R119): its stride is register b at each pass's last bundle. -/
def execLoopx (d a b : SReg) (lo fo : Bool) (len : BitVec 5) (s : State) : Out :=
  operation (.loopx d a b lo fo len) (fun s => s.loopCheck len)
    (fun s => s.openLevel d a (b.setWidth 7) true lo fo len) s

/-! ## The sequencer -/

/-- A bundle at the levels' positions is suppressed (R123). -/
def suppressed (ls : List Level) : Bool :=
  ls.any fun l => (l.fo && l.pos == 0 && !l.first) || (l.lo && l.pos == l.len && decide (1 < l.count.toNat)) || l.skip
/-- A level ends a pass at a bundle if that bundle is its last (R121). -/
def Level.ends (l : Level) : Bool := l.pos == l.len
/-- The levels whose pass ends at the bundle now at their positions, innermost first, down to one that loops back (R121): the number that close or loop back. -/
def endingLevels : List Level → List Level
  | [] => []
  | l :: t => if l.ends then l :: (if !l.skip && decide (1 < l.count.toNat) then [] else endingLevels t) else []
/-- The levels of a context whose pass ends at its next bundle, innermost first; an outer level's position counts the inner body once more when the inner level closes, which is how its own position already stands (R121). -/
def Ctx.ending (x : Ctx) : List Level := endingLevels x.live.reverse
/-- The induction registers that a pass end writes (R122): destinations of the bundle. -/
def Ctx.strideRegs (x : Ctx) : List SReg :=
  (x.ending.filter fun l => !l.skip && l.dreg != 0).map (·.dreg)
/-- The stride of a level, read in the bundle's issue cycle (R119). -/
def State.strideOf (s : State) (l : Level) : DWord :=
  if l.src then s.rx (l.stride.extractLsb' 0 6) else l.stride.signExtend 64 * 8
/-- The stride writes of the bundle: one write per register, the sum of the strides that name it (R122). -/
def State.addStrides (s : State) (ls : List Level) : State :=
  let live := ls.filter fun l => !l.skip && l.dreg != 0
  let regs := (live.map (·.dreg)).eraseDups
  regs.foldl (fun t r =>
    let sum := (live.filter (·.dreg == r)).foldl (fun v l => v + s.strideOf l) (s.rx r)
    t.wx r sum 1) s
/-- What the sequencer does after a bundle (R121), on levels innermost first whose positions have been counted: the remaining levels, innermost first, and the loop-back target. -/
def sequence : List Level → List Level × Option DWord
  | [] => ([], none)
  | l :: t =>
    if l.pos.toNat = l.len.toNat + 1 || (l.len == 31 && l.pos == 0) then
      if !l.skip && decide (1 < l.count.toNat) then
        ({ l with count := l.count - 1, first := false, pos := 0 } ::
          t.map (fun k => { k with pos := k.pos - (l.len + 1) }), some l.start)
      else sequence t
    else (l :: t, none)

end Sys2Proof.Machine
end

