-- ==== Sys2Proof/Machine/Special.lean ====
section
/-! DEFINITION. Meanings of MFS, MTS and the writes to TIMER and XVAL (spec/01_machine_state.md R20 to R28, spec/04_scalar_and_control.md R112). -/
namespace Sys2Proof.Machine

/-! ## CSEL and the cross-context window (R26, R27) -/

/-- CSEL.CLASS. -/
def cselClass (v : DWord) : Nat := (v.extractLsb' 24 3).toNat
/-- CSEL.QTR. -/
def cselQtr (v : DWord) : BitVec 2 := v.extractLsb' 22 2
/-- CSEL.ITEM. -/
def cselItem (v : DWord) : Nat := (v.extractLsb' 8 8).toNat
/-- CSEL.RP. -/
def cselRp (v : DWord) : Bool := v.getLsbD 5
/-- CSEL.CTX. -/
def cselCtx (v : DWord) : Nat := (v.extractLsb' 0 4).toNat
/-- The special registers that CLASS 3 admits (R27), with their offsets in a Rockpool entry (R36). -/
def class3 : List (Nat × Nat) :=
  [(0x03, 0x120), (0x08, 0x128), (0x09, 0x130), (0x0A, 0x138), (0x10, 0x140), (0x11, 0x148), (0x12, 0x150), (0x16, 0x158),
   (0x1A, 0x160), (0x1C, 0x168)]
/-- A value that an MTS to CSEL refuses (R26). -/
def cselRefused (v : DWord) : Bool :=
  let i := cselItem v
  (match cselClass v with
   | 0 => 32 ≤ i
   | 1 => 32 ≤ i
   | 2 => 8 ≤ i
   | 3 => !(i ∈ class3.map (·.1))
   | 4 => i != 0
   | _ => true) || (cselRp v && 4 ≤ cselCtx v)
/-- The offset of the selected item in a Rockpool entry (R36), none for x0. -/
def poolItem (v : DWord) : Option Nat :=
  let i := cselItem v
  match cselClass v with
  | 0 => if i = 0 then none else some (0x20 + 8 * (i - 1))
  | 1 => some (0x200 + 32 * i + 8 * (cselQtr v).toNat)
  | 2 => some 0x10
  | 3 => find class3 i
  | _ => some 0
/-- A context-scope special register as XVAL and MFS show it (R20, R27). -/
def Ctx.spr (x : Ctx) (n : Nat) : DWord :=
  match n with
  | 0x03 => x.turn
  | 0x08 => x.fcr
  | 0x09 => x.tags
  | 0x0A => x.seed
  | 0x10 => x.epc
  | 0x11 => x.cause
  | 0x12 => x.tval
  | 0x16 => x.check
  | 0x1A => x.phaseReg
  | 0x1C => x.vseqReg
  | 0x1D => x.mseqReg
  | _ => 0
/-- The item that MFS of XVAL returns (R26): registers of a FREE context read zero (R264). -/
def State.xvalRead (s : State) : DWord :=
  let c := s.here
  let v := c.csel
  let i := cselItem v
  if cselRp v then
    match poolItem v with
    | none => 0
    | some o =>
      let w := c.word (poolAddr (cselCtx v) o)
      if cselClass v = 2 then (if i = 0 then 1 else (w >>> i) &&& 1) else w
  else
    let n := cselCtx v
    let x := c.ctx n
    let d : Option Dest := match cselClass v with
      | 0 => if i = 0 then none else some (.x n (BitVec.ofNat 5 i))
      | 1 => some (.vq n (BitVec.ofNat 5 i) (cselQtr v))
      | 2 => if i = 0 then none else some (.q n (BitVec.ofNat 3 i))
      | 3 => some (.spr n (BitVec.ofNat 6 i) 0)
      | _ => some (.next n)
    if x.st = .free then (if cselClass v = 2 && i = 0 then 1 else 0)
    else if (match d with | some d => c.early s.now d | none => false) then (if cselClass v = 2 then s.anyWord 400 &&& 1 else s.anyWord 400)
    else match cselClass v with
    | 0 => if i = 0 then 0 else look 0 x.xs i
    | 1 => (look 0 x.vs i >>> (64 * (cselQtr v).toNat)).setWidth 64
    | 2 => if i = 0 then 1 else (BitVec.ofBool (x.qs.getLsbD i)).setWidth 64
    | 3 => x.spr i
    | _ => x.next
/-- The bits of a context-scope register that C0 may write (R20 to R25, R27). -/
def xvalMask (i : Nat) : DWord :=
  match i with
  | 0x08 => fcrMask
  | 0x11 => 0x0000FFFFFF001FFF
  | 0x16 => 0xFFFF0007
  | _ => 0xFFFFFFFFFFFFFFFF
/-- The write that MTS to XVAL makes (R26, R27): none where it is discarded. -/
def xvalDest (v val : DWord) : Option (Dest × Val) :=
  let i := cselItem v
  let n := cselCtx v
  let drop := cselClass v = 3 && i ∈ [0x03, 0x1A, 0x1C]
  if drop then none
  else if cselRp v then
    match poolItem v with
    | none => none
    | some o =>
      if cselClass v = 2 then (if i = 0 then none else some (.pool n o (1 <<< i), .word ((val &&& 1) <<< i)))
      else some (.pool n o (if cselClass v = 3 then xvalMask i else 0xFFFFFFFFFFFFFFFF), .word val)
  else match cselClass v with
  | 0 => if i = 0 then none else some (.x n (BitVec.ofNat 5 i), .word val)
  | 1 => some (.vq n (BitVec.ofNat 5 i) (cselQtr v), .word val)
  | 2 => if i = 0 then none else some (.q n (BitVec.ofNat 3 i), .bit (val.getLsbD 0))
  | 3 => some (.spr n (BitVec.ofNat 6 i) (xvalMask i), .word val)
  | _ => some (.next n, .word val)

/-! ## MFS and MTS -/

/-- The register that MFS reads, as it stands in the issue cycle (R13, R20, R112). What Emonef code reads of TURN and TIDE is not fixed (R418). -/
def State.mfsVal (s : State) (n : BitVec 6) : DWord :=
  let c := s.here
  let k := s.frame.ctx
  let x := s.cur
  match n.toNat with
  | 0x00 => BitVec.ofNat 64 k
  | 0x01 => c.logicalReg k
  | 0x02 => BitVec.ofNat 64 s.frame.core
  | 0x03 => if c.emonef then s.anyWord 406 else x.turn
  | 0x04 => if c.emonef then s.anyWord 407 else BitVec.ofNat 64 (s.now - c.replayShift)
  | 0x13 => if c.early s.now (.cspr 0x13) then s.anyWord 401 else c.tvec
  | 0x14 => c.deleg
  | 0x15 => if c.early s.now (.cspr 0x15) then s.anyWord 402 else c.timer
  | 0x18 => c.banksReg k
  | 0x19 => c.launchReg k
  | 0x20 => if c.early s.now (.cspr 0x20) then s.anyWord 403 else c.csel
  | 0x21 => s.xvalRead
  | 0x28 => if c.early s.now (.cspr 0x28) then s.anyWord 404 else c.qarb
  | m => if c.early s.now (.spr k n 0) then s.anyWord 405 else x.spr m
/-- MFS (R112). A read of TIDE is a receive of the log (R335, kind 0x09). -/
def execMfs (d : SReg) (n : BitVec 6) (s : State) : Out :=
  operation (.mfs d n) noCheck (fun s =>
    let t := s.wx d (s.mfsVal n) 1
    if n = 0x04 then t.onHere fun c =>
      c.receive (receiveOf 0x09 s.frame.ctx (c.logicalOf s.frame.ctx) s.frame.ctx s.now (BitVec.ofNat 64 s.now) 0 8 [] none)
    else t) s
/-- The values that MTS refuses at step 13 (R21, R26). -/
def mtsCheck (n : BitVec 6) (v : DWord) : Option Trap :=
  badValue ((n == 0x08 && fcrRefused v) || (n == 0x20 && cselRefused v)) v none
/-- The register that MTS writes, and under which bits (R20, R23, R25). A worker's write to CHECK changes LV and FELIM alone. -/
def mtsDest (k : Nat) (n : BitVec 6) : Dest :=
  match n.toNat with
  | 0x09 => .tagsClear k
  | 0x13 => .cspr n
  | 0x20 => .cspr n
  | 0x28 => .cspr n
  | 0x16 => .spr k n (if k = 0 then 0xFFFF0007 else 0xFFFF0001)
  | 0x11 => .spr k n (xvalMask 0x11)
  | 0x1C => .spr k n 0xFFFF
  | _ => .spr k n 0xFFFFFFFFFFFFFFFF
/-- The cycle of a write to SEED is kept (R84). -/
def State.noteSeed (s : State) (n : Nat) : State := s.onCtx s.frame.core n fun x => { x with seedWrite := some s.now }
/-- MTS (R112), latency 1. -/
def execMts (n : BitVec 6) (a : SReg) (s : State) : Out :=
  operation (.mts n a) (fun s => mtsCheck n (s.rx a)) (fun s =>
    let t := s.write (mtsDest s.frame.ctx n) (.word (s.rx a)) 1
    if n = 0x0A then t.noteSeed s.frame.ctx else t) s
/-- TIMER_WRITE: MTS to TIMER (R23). -/
def execTimerWrite (a : SReg) (s : State) : Out :=
  operation (.timerWrite a) noCheck (fun s => s.write (.cspr 0x15) (.word (s.rx a)) 1) s
/-- A value that an MTS to XVAL refuses (R27): one that an MTS to FCR would refuse. -/
def xvalCheck (csel v : DWord) : Option Trap := badValue (cselClass csel == 3 && cselItem csel == 0x08 && fcrRefused v) v none
/-- XVAL_WRITE: MTS to XVAL (R26, R27), as a write from context 0. -/
def execXvalWrite (a : SReg) (s : State) : Out :=
  operation (.xvalWrite a) (fun s => xvalCheck s.here.csel (s.rx a)) (fun s =>
    let v := s.here.csel
    match xvalDest v (s.rx a) with
    | none => s
    | some (d, val) =>
      let t := s.write d val 1
      if cselClass v = 3 && cselItem v = 0x0A && !cselRp v then t.noteSeed (cselCtx v) else t) s

end Sys2Proof.Machine
end

