-- ==== Sys2Proof/Machine/ScalarFloat.lean ====
section
/-! DEFINITION. Meanings of FOP, FFMA, FCMP and FCVT (spec/04_scalar_and_control.md R113 to R118). -/
namespace Sys2Proof.Machine

/-- A scalar operand of a wide type: the low bits of its register (R113). -/
def fpIn (t : FpTy) (v : DWord) : Nat := v.toNat % 2 ^ t.width
/-- A scalar operation that rounds once: SEED steps in SR, the flags merge, the result has latency 2 (R78 to R84, R113). -/
def State.scalarFp (s : State) (m : RMode) (d : SReg) (f : Mode → Nat × Fl) : State :=
  let (seed, t) := s.forMode m
  let (v, fl) := f (m.at seed 0)
  (t.wx d (BitVec.ofNat 64 v) 2).scalarFlags fl 2

/-- FOP's exact result (R114). -/
def fopExact (op : FopKind) (m : Mode) (a b : Num) : Exact × Fl :=
  match op with
  | .add => numAdd m a b
  | .sub => let (r, f) := numAdd m a b.neg; (r, f)
  | .mul => let (p, f) := numMul a b; (p.exact, f)
  | .div => numDiv a b
  | .sqrt => numSqrt a
  | .min => (a.exact, 0)
  | .max => (a.exact, 0)
/-- FOP (R114, R115). min and max are exact: no rounding, no flush, no SEED. -/
def execFop (op : FopKind) (t : FpTy) (d a b : SReg) (s : State) : Out :=
  operation (.fop op t d a b) noCheck (fun s =>
    let ff := ffOf t
    let x := fpIn t (s.rx a)
    let y := if op = .sqrt then 0 else fpIn t (s.rx b)
    let ftz := s.fcrNow.getLsbD 3
    match op with
    | .min => let (v, f) := ff.minmax false x y; (s.wx d (BitVec.ofNat 64 v) 2).scalarFlags f 2
    | .max => let (v, f) := ff.minmax true x y; (s.wx d (BitVec.ofNat 64 v) 2).scalarFlags f 2
    | _ => s.scalarFp (rmMode (s.fcrNow.extractLsb' 0 3).toNat) d fun m =>
        let (e, f) := fopExact op m (ff.num x) (ff.num y)
        let (v, g) := ff.finish ftz m e
        (v, f ||| g)) s
/-- The signs of the product and the addend (R116). -/
def fmaSigns : FmaForm → Bool × Bool
  | .ma => (false, false) | .ms => (false, true) | .nma => (true, false) | .nms => (true, true)
/-- FFMA (R116). -/
def execFfma (form : FmaForm) (t : FpTy) (d a b : SReg) (s : State) : Out :=
  operation (.ffma form t d a b) noCheck (fun s =>
    let ff := ffOf t
    s.scalarFp (rmMode (s.fcrNow.extractLsb' 0 3).toNat) d fun m =>
      let (e, f) := numFma m (fmaSigns form).1 (fmaSigns form).2 (ff.num (fpIn t (s.rx a))) (ff.num (fpIn t (s.rx b)))
        (ff.num (fpIn t (s.rx d)))
      let (v, g) := ff.finish (s.fcrNow.getLsbD 3) m e
      (v, f ||| g)) s
/-- FCMP (R117), latency 2. -/
def execFcmp (c : FCond) (t : FpTy) (q : PReg) (a b : SReg) (s : State) : Out :=
  operation (.fcmp c t q a b) noCheck (fun s =>
    let ff := ffOf t
    let (r, f) := numCond c (ff.num (fpIn t (s.rx a))) (ff.num (fpIn t (s.rx b)))
    (s.wq q r 2).scalarFlags f 2) s

/-- A floating-point type of FCVT (R118). -/
def cvtFp : CvtTy → Option FpTy
  | .f32 => some .f32 | .bf16 => some .bf16 | .f16 => some .f16 | _ => none
/-- Width and signedness of an integer type of FCVT (R118). -/
def cvtInt : CvtTy → Nat × Bool
  | .s32 => (32, true) | .n32 => (32, false) | .s64 => (64, true) | _ => (64, false)
/-- A pair without a rounding: BF16 or FP16 to FP32 (R118). -/
def fcvtExact (src dst : CvtTy) : Bool := dst == .f32 && (src == .bf16 || src == .f16)
/-- The mode of FCVT (R118). -/
def cvtMode (rm : Nat) : CvtMode → RMode
  | .fcr => rmMode rm | .rtz => .rtz | .rne => .rne
/-- The integer that a source register holds (R118). -/
def intIn (t : CvtTy) (v : DWord) : Int :=
  match t with
  | .s32 => (v.setWidth 32).toInt
  | .n32 => (v.setWidth 32).toNat
  | .s64 => v.toInt
  | _ => v.toNat
/-- FCVT's conversion (R90, R91, R118). -/
def fcvtVal (src dst : CvtTy) (ftz : Bool) (m : Mode) (v : DWord) : DWord × Fl :=
  match cvtFp src, cvtFp dst with
  | some a, some b =>
    let (r, f) := (ffOf b).convert (ftz && !fcvtExact src dst) m ((ffOf a).num (fpIn a v))
    (BitVec.ofNat 64 r, f)
  | some a, none =>
    let (r, f) := numToInt m (cvtInt dst).2 (cvtInt dst).1 ((ffOf a).num (fpIn a v))
    (BitVec.ofInt 64 r, f)
  | none, some b =>
    let (r, f) := (ffOf b).ofInt ftz m (intIn src v)
    (BitVec.ofNat 64 r, f)
  | none, none => (v, 0)
/-- FCVT (R118). -/
def execFcvt (src dst : CvtTy) (cm : CvtMode) (d a : SReg) (s : State) : Out :=
  operation (.fcvt src dst cm d a) noCheck (fun s =>
    let m := if fcvtExact src dst then RMode.rne else cvtMode (s.fcrNow.extractLsb' 0 3).toNat cm
    s.scalarFp m d fun md =>
      let (r, f) := fcvtVal src dst (s.fcrNow.getLsbD 3) md (s.rx a)
      (r.toNat, f)) s

end Sys2Proof.Machine
end

