-- ==== Sys2Proof/Machine/Vector.lean ====
section
/-! DEFINITION. Meanings of the vector arithmetic of the V slot (spec/06_vector_arithmetic.md R152 to R179). -/
namespace Sys2Proof.Machine

/-! ## Lanes (R152, R153) -/

/-- Lane j of width w. -/
def laneOf (w : Nat) (v : Vec) (j : Nat) : Nat := v.toNat / 2 ^ (w * j) % 2 ^ w
/-- Lanes of width w from lane 0 up as one number. -/
def packNat (w : Nat) : List Nat → Nat
  | [] => 0
  | a :: t => a % 2 ^ w + 2 ^ w * packNat w t
/-- A register from its lanes. -/
def packLanes (w : Nat) (l : List Nat) : Vec := BitVec.ofNat 256 (packNat w l)
/-- A register computed lane by lane, with the flags of all lanes. -/
def lanesFl (w : Nat) (f : Nat → Nat × Fl) : Vec × Fl :=
  let r := (upTo (256 / w)).map f
  (packLanes w (r.map (·.1)), r.foldl (fun a p => a ||| p.2) 0)
/-- A register computed lane by lane, without flags. -/
def lanes (w : Nat) (f : Nat → Nat) : Vec := packLanes w ((upTo (256 / w)).map f)
/-- The vector result of a V operation, its dispatch and its flags (R153, R179). -/
def State.vec (s : State) (d : VReg) (lat : Nat) (r : Vec × Fl) : State :=
  ((s.dispatch false).wv d r.1 lat).vectorFlags r.2 lat s.cur.vseqNext
/-- FCR.FTZ as sampled at issue (R153). -/
def State.ftzNow (s : State) : Bool := s.fcrNow.getLsbD 3
/-- The mode that a field selects, or the effective mode of FCR (R156). -/
def State.rmoNow (s : State) (m : Rmo) : RMode := Rmo.mode (s.fcrNow.extractLsb' 0 3).toNat m
/-- An operation with one rounding per lane (R153, R155). -/
def State.fpLanes (s : State) (t : FpTy) (m : RMode) (d : VReg) (lat : Nat) (f : Mode → Nat → Exact × Fl) : State :=
  let (seed, u) := s.forMode m
  u.vec d lat (lanesFl t.width fun j =>
    let (e, fl) := f (m.at seed j) j
    let (v, g) := (ffOf t).finish s.ftzNow (m.at seed j) e
    (v, fl ||| g))
/-- Lane j of a register as a number. -/
def laneNum (t : FpTy) (v : Vec) (j : Nat) : Num := (ffOf t).num (laneOf t.width v j)

/-- VADD (R155). -/
def execVadd (t : FpTy) (d a b : VReg) (m : Rmo) (s : State) : Out :=
  operation (.vadd t d a b m) noCheck (fun s => s.fpLanes t (s.rmoNow m) d 1 fun md j =>
    numAdd md (laneNum t (s.rv a) j) (laneNum t (s.rv b) j)) s
/-- VSUB (R155). -/
def execVsub (t : FpTy) (d a b : VReg) (m : Rmo) (s : State) : Out :=
  operation (.vsub t d a b m) noCheck (fun s => s.fpLanes t (s.rmoNow m) d 1 fun md j =>
    numAdd md (laneNum t (s.rv a) j) (laneNum t (s.rv b) j).neg) s
/-- VMUL (R155). -/
def execVmul (t : FpTy) (d a b : VReg) (m : Rmo) (s : State) : Out :=
  operation (.vmul t d a b m) noCheck (fun s => s.fpLanes t (s.rmoNow m) d 1 fun _ j =>
    let (p, f) := numMul (laneNum t (s.rv a) j) (laneNum t (s.rv b) j)
    (p.exact, f)) s
/-- VFMA (R88, R155). -/
def execVfma (t : FpTy) (d a b c : VReg) (s : State) : Out :=
  operation (.vfma t d a b c) noCheck (fun s => s.fpLanes t (s.rmoNow .fcr) d 2 fun md j =>
    numFma md false false (laneNum t (s.rv a) j) (laneNum t (s.rv b) j) (laneNum t (s.rv c) j)) s
/-- VFMS (R88, R155). -/
def execVfms (t : FpTy) (d a b c : VReg) (s : State) : Out :=
  operation (.vfms t d a b c) noCheck (fun s => s.fpLanes t (s.rmoNow .fcr) d 2 fun md j =>
    numFma md false true (laneNum t (s.rv a) j) (laneNum t (s.rv b) j) (laneNum t (s.rv c) j)) s
/-- VMIN and VMAX: exact, no mode, no SEED (R157). -/
def State.vminmax (s : State) (mx : Bool) (t : FpTy) (d a b : VReg) : State :=
  s.vec d 1 (lanesFl t.width fun j => (ffOf t).minmax mx (laneOf t.width (s.rv a) j) (laneOf t.width (s.rv b) j))
/-- VMIN (R157). -/
def execVmin (t : FpTy) (d a b : VReg) (s : State) : Out :=
  operation (.vmin t d a b) noCheck (fun s => s.vminmax false t d a b) s
/-- VMAX (R157). -/
def execVmax (t : FpTy) (d a b : VReg) (s : State) : Out :=
  operation (.vmax t d a b) noCheck (fun s => s.vminmax true t d a b) s
/-- One lane of VABSN (R157). -/
def absLane (op : AbsOp) (t : FpTy) (x : Nat) : Nat × Fl :=
  let ff := ffOf t
  let mag := x % 2 ^ (t.width - 1)
  let neg := x / 2 ^ (t.width - 1) == 1
  match ff.num x with
  | .nan sig => (ff.nan, if sig then flNV else 0)
  | _ => (mag + ff.sign (match op with | .abs => false | .neg => !neg | .nabs => true), 0)
/-- VABSN (R157). -/
def execVabsn (op : AbsOp) (t : FpTy) (d a : VReg) (s : State) : Out :=
  operation (.vabsn op t d a) noCheck
    (fun s => s.vec d 1 (lanesFl t.width fun j => absLane op t (laneOf t.width (s.rv a) j))) s
/-- VCMP (R158). -/
def execVcmp (c : FCond) (t : FpTy) (d a b : VReg) (s : State) : Out :=
  operation (.vcmp c t d a b) noCheck (fun s => s.vec d 1 (lanesFl t.width fun j =>
    let (r, f) := numCond c (laneNum t (s.rv a) j) (laneNum t (s.rv b) j)
    (if r then 2 ^ t.width - 1 else 0, f))) s

/-! ## Integer lanes (R159 to R165) -/

/-- An integer V operation: its result register, no flags. -/
def valu (i : Instr) (d : VReg) (lat : Nat) (f : State → Vec) : State → Out :=
  operation i noCheck fun s => s.vec d lat (f s, 0)
/-- A w-bit pattern as a signed number. -/
def sInt (w x : Nat) : Int := if x < 2 ^ (w - 1) then x else (x : Int) - 2 ^ w
/-- A number as a w-bit pattern. -/
def toPat (w : Nat) (x : Int) : Nat := (x % 2 ^ w).toNat
/-- A number clamped to a range. -/
def clampInt (lo hi x : Int) : Int := if x < lo then lo else if hi < x then hi else x
/-- One lane of VIADD or VISUB (R159). -/
def satLane (w : Nat) (m : SatMode) (sub : Bool) (x y : Nat) : Nat :=
  let f (a b : Int) : Int := if sub then a - b else a + b
  match m with
  | .wrap => toPat w (f x y)
  | .signed => toPat w (clampInt (-(2 ^ (w - 1))) (2 ^ (w - 1) - 1) (f (sInt w x) (sInt w y)))
  | .natural => toPat w (clampInt 0 (2 ^ w - 1) (f x y))
/-- Lanes computed from lanes of two registers. -/
def lanes2 (w : Nat) (a b : Vec) (f : Nat → Nat → Nat) : Vec := lanes w fun j => f (laneOf w a j) (laneOf w b j)
/-- VIADD (R159). -/
def execViadd (t : IntTy) (m : SatMode) (d a b : VReg) (s : State) : Out :=
  valu (.viadd t m d a b) d 1 (fun s => lanes2 t.width (s.rv a) (s.rv b) (satLane t.width m false)) s
/-- VISUB (R159). -/
def execVisub (t : IntTy) (m : SatMode) (d a b : VReg) (s : State) : Out :=
  valu (.visub t m d a b) d 1 (fun s => lanes2 t.width (s.rv a) (s.rv b) (satLane t.width m true)) s
/-- One lane of VIMUL (R160). -/
def mulLane (w : Nat) (h : HiMode) (x y : Nat) : Nat :=
  match h with
  | .low => x * y % 2 ^ w
  | .hiSigned => toPat w (sInt w x * sInt w y / 2 ^ w)
  | .hiNatural => x * y / 2 ^ w
/-- VIMUL (R160). -/
def execVimul (t : IntTy) (h : HiMode) (d a b : VReg) (s : State) : Out :=
  valu (.vimul t h d a b) d 1 (fun s => lanes2 t.width (s.rv a) (s.rv b) (mulLane t.width h)) s
/-- VIMAD (R160). -/
def execVimad (t : IntTy) (d a b c : VReg) (s : State) : Out :=
  valu (.vimad t d a b c) d 1 (fun s => lanes t.width fun j =>
    laneOf t.width (s.rv a) j * laneOf t.width (s.rv b) j + laneOf t.width (s.rv c) j) s
/-- b, inverted where INV = 1 (R161). -/
def invIf (inv : Bool) (b : Vec) : Vec := if inv then ~~~b else b
/-- VAND (R161). -/
def execVand (d a b : VReg) (inv : Bool) (s : State) : Out :=
  valu (.vand d a b inv) d 1 (fun s => s.rv a &&& invIf inv (s.rv b)) s
/-- VOR (R161). -/
def execVor (d a b : VReg) (inv : Bool) (s : State) : Out :=
  valu (.vor d a b inv) d 1 (fun s => s.rv a ||| invIf inv (s.rv b)) s
/-- VXOR (R161). -/
def execVxor (d a b : VReg) (inv : Bool) (s : State) : Out :=
  valu (.vxor d a b inv) d 1 (fun s => s.rv a ^^^ invIf inv (s.rv b)) s
/-- The amount that shifts lane j (R162). -/
def State.shiftAt (s : State) (w : Nat) (n : ShiftAmt) (j : Nat) : Nat :=
  match n with
  | .lanes b => laneOf w (s.rv b) j % w
  | .imm k => k.toNat
/-- VSHL (R162). -/
def execVshl (t : IntTy) (d a : VReg) (n : ShiftAmt) (s : State) : Out :=
  valu (.vshl t d a n) d 1 (fun s => lanes t.width fun j => laneOf t.width (s.rv a) j * 2 ^ s.shiftAt t.width n j) s
/-- VSHR (R162). -/
def execVshr (t : IntTy) (d a : VReg) (n : ShiftAmt) (s : State) : Out :=
  valu (.vshr t d a n) d 1 (fun s => lanes t.width fun j => laneOf t.width (s.rv a) j / 2 ^ s.shiftAt t.width n j) s
/-- VSAR (R162). -/
def execVsar (t : IntTy) (d a : VReg) (n : ShiftAmt) (s : State) : Out :=
  valu (.vsar t d a n) d 1 (fun s => lanes t.width fun j =>
    toPat t.width (sInt t.width (laneOf t.width (s.rv a) j) / 2 ^ s.shiftAt t.width n j)) s
/-- VICMP (R163). -/
def execVicmp (c : Cond) (t : IntTy) (d a b : VReg) (s : State) : Out :=
  valu (.vicmp c t d a b) d 1 (fun s => lanes2 t.width (s.rv a) (s.rv b) fun x y =>
    if condHolds c (BitVec.ofNat t.width x) (BitVec.ofNat t.width y) then 2 ^ t.width - 1 else 0) s
/-- VBITC (R164). -/
def execVbitc (k : BitKind) (t : IntTy) (d a : VReg) (s : State) : Out :=
  valu (.vbitc k t d a) d 1
    (fun s => lanes t.width fun j => bitCount k (BitVec.ofNat t.width (laneOf t.width (s.rv a) j))) s
/-- One lane of VSATN to width w (R165). -/
def narrowLane (w : Nat) (m : NarrowMode) (x : Nat) : Nat :=
  match m with
  | .signed => toPat w (clampInt (-(2 ^ (w - 1))) (2 ^ (w - 1) - 1) (sInt (2 * w) x))
  | .signedToNatural => toPat w (clampInt 0 (2 ^ w - 1) (sInt (2 * w) x))
  | .natural => toPat w (clampInt 0 (2 ^ w - 1) x)
/-- VSATN (R165). -/
def execVsatn (t : NarrowTy) (m : NarrowMode) (d a b : VReg) (s : State) : Out :=
  let w := t.width
  let n := 256 / w
  valu (.vsatn t m d a b) d 1 (fun s => lanes w fun j =>
    narrowLane w m (if j < n / 2 then laneOf (2 * w) (s.rv a) j else laneOf (2 * w) (s.rv b) (j - n / 2))) s

/-! ## Selection and permutation (R166 to R173) -/

/-- VSEL (R166). -/
def execVsel (d a b c : VReg) (s : State) : Out :=
  valu (.vsel d a b c) d 1 (fun s => (s.rv a &&& s.rv c) ||| (s.rv b &&& ~~~(s.rv c))) s
/-- VPERMB (R167), latency 2. -/
def execVpermb (d a b : VReg) (upper hi : Bool) (s : State) : Out :=
  valu (.vpermb d a b upper hi) d 2 (fun s => lanes 8 fun j =>
    let k := laneOf 8 (s.rv b) j
    laneOf 8 (s.rv a) ((if upper then 16 else 0) + (if hi then k / 16 else k % 16))) s
/-- Byte k of the pair a, b: a in bytes 0 to 31 (R168, R169). -/
def pairByte (a b : Vec) (k : Nat) : Nat := if k < 32 then laneOf 8 a k else laneOf 8 b (k - 32)
/-- VSHUF (R168), latency 2. -/
def execVshuf (d a b c : VReg) (s : State) : Out :=
  valu (.vshuf d a b c) d 2 (fun s => lanes 8 fun j =>
    let k := laneOf 8 (s.rv c) j
    if 128 ≤ k then 0 else pairByte (s.rv a) (s.rv b) (k % 64)) s
/-- VSLIDE (R169). -/
def execVslide (t : IntTy) (d a b : VReg) (n : BitVec 6) (s : State) : Out :=
  valu (.vslide t d a b n) d 1 (fun s => lanes 8 fun j => pairByte (s.rv a) (s.rv b) (j + n.toNat * (t.width / 8))) s
/-- VBCAST's value (R170). -/
def State.bcastVal (s : State) (w : Nat) : BcastSrc → Nat
  | .scalar a => (s.rx a).toNat
  | .lane a i => laneOf w (s.rv a) i.toNat
/-- VBCAST (R170). -/
def execVbcast (t : IntTy) (d : VReg) (src : BcastSrc) (s : State) : Out :=
  valu (.vbcast t d src) d 1 (fun s => lanes t.width fun _ => s.bcastVal t.width src) s
/-- The lane index of VEXT and VINS (R171). -/
def State.laneIndex (s : State) (t : IntTy) : LaneSel → Nat
  | .imm i => i.toNat
  | .reg r => (s.rx r).toNat % 32 % t.lanes
/-- VEXT (R171). -/
def execVext (t : IntTy) (d : SReg) (a : VReg) (i : LaneSel) (s : State) : Out :=
  operation (.vext t d a i) noCheck
    (fun s => (s.dispatch false).wx d (BitVec.ofNat 64 (laneOf t.width (s.rv a) (s.laneIndex t i))) 1) s
/-- VINS (R171). -/
def execVins (t : IntTy) (d : VReg) (a : SReg) (i : LaneSel) (s : State) : Out :=
  valu (.vins t d a i) d 1 (fun s => lanes t.width fun j =>
    if j = s.laneIndex t i then (s.rx a).toNat else laneOf t.width (s.rv d) j) s
/-- VIOTA (R172). -/
def execViota (t : IntTy) (d : VReg) (a b : SReg) (s : State) : Out :=
  valu (.viota t d a b) d 1 (fun s => lanes t.width fun j => (s.rx a).toNat + j * (s.rx b).toNat) s
/-- Lane j of a mask is set (R173). -/
def laneSet (t : IntTy) (v : Vec) (j : Nat) : Bool := v.getLsbD (t.width * j + t.width - 1)
/-- VMASKQ (R173). -/
def execVmaskq (t : IntTy) (d : MaskDest) (a : VReg) (s : State) : Out :=
  operation (.vmaskq t d a) noCheck (fun s =>
    let v := s.rv a
    let u := s.dispatch false
    match d with
    | .any q => u.wq q ((upTo t.lanes).any (laneSet t v)) 1
    | .all q => u.wq q ((upTo t.lanes).all (laneSet t v)) 1
    | .bits x => u.wx x (BitVec.ofNat 64 (packNat 1 ((upTo t.lanes).map fun j => if laneSet t v j then 1 else 0))) 1) s

/-! ## Reduction (R174) -/

/-- One level of the tree of R89: neighbours joined, the lower index left. -/
def treeLevel (f : Nat → Nat → Nat × Fl) : List Nat → List Nat × Fl
  | a :: b :: t =>
    let (v, g) := f a b
    let (r, h) := treeLevel f t
    (v :: r, g ||| h)
  | l => (l, 0)
/-- The tree of R89 over 2^k lanes, with the flags of every node. -/
def tree (f : Nat → Nat → Nat × Fl) : Nat → List Nat → Nat × Fl
  | 0, l => (nthD 0 l 0, 0)
  | k + 1, l =>
    let (l', g) := treeLevel f l
    let (v, h) := tree f k l'
    (v, g ||| h)
/-- A node of VRED (R174): each addition rounds in the effective mode, never SR (R85). -/
def redNode (op : RedOp) (t : RedTy) (ftz : Bool) (m : Mode) (x y : Nat) : Nat × Fl :=
  match t with
  | .fp t =>
    let ff := ffOf t
    match op with
    | .add =>
      let (e, f) := numAdd m (ff.num x) (ff.num y)
      let (v, g) := ff.finish ftz m e
      (v, f ||| g)
    | .min => ff.minmax false x y
    | .max => ff.minmax true x y
  | .int t u =>
    let w := t.width
    let less := if u then decide (x < y) else decide (sInt w x < sInt w y)
    (match op with
     | .add => (x + y) % 2 ^ w
     | .min => if less then x else y
     | .max => if less then y else x, 0)
/-- Lane width of VRED's type. -/
def redWidth : RedTy → Nat
  | .fp t => t.width
  | .int t _ => t.width
/-- VRED (R174), latency 3. -/
def execVred (op : RedOp) (t : RedTy) (d : RedDest) (a : VReg) (s : State) : Out :=
  operation (.vred op t d a) noCheck (fun s =>
    let w := redWidth t
    let m := (s.rmoNow .fcr).noSr
    let (v, f) := tree (redNode op t s.ftzNow m) (Nat.log2 (256 / w)) ((upTo (256 / w)).map (laneOf w (s.rv a)))
    match d with
    | .vec r => s.vec r 3 (BitVec.ofNat 256 v, f)
    | .scalar r => ((s.dispatch false).wx r (BitVec.ofNat 64 v) 3).vectorFlags f 3 s.cur.vseqNext) s

/-! ## VDOT (R175) -/

/-- The elements' values of VDOT's formats. -/
def dotFmts : DotTy → Fmt × Fmt
  | .e4m3 => (.e4m3, .e4m3) | .e5m2 => (.e5m2, .e5m2) | .mixed => (.e4m3, .e5m2) | .mxint8 => (.mxint8, .mxint8)
/-- A sum of exact products added to a start, and the flags of Inf × 0. -/
def sumProducts (start : Sum) (l : List (Num × Num)) : Sum × Fl :=
  l.foldl (fun (p : Sum × Fl) xy =>
    let (v, f) := numMul xy.1 xy.2
    (p.1.add v, p.2 ||| f)) (start, 0)
/-- VDOT (R88, R175), latency 2. -/
def execVdot (f : DotTy) (d a b c : VReg) (s : State) : Out :=
  operation (.vdot f d a b c) noCheck (fun s => s.fpLanes .f32 (s.rmoNow .fcr) d 2 fun m j =>
    let addend := laneNum .f32 (s.rv c) j
    let (sum, fl) := sumProducts (Sum.empty.add addend) ((upTo 4).map fun k =>
      (fmtNum (dotFmts f).1 (laneOf 8 (s.rv a) (4 * j + k)), fmtNum (dotFmts f).2 (laneOf 8 (s.rv b) (4 * j + k))))
    let (e, g) := sum.exact m
    (e, fl ||| g ||| sigFlag [addend])) s

/-! ## VSFU (R176 to R178) -/

/-- Roots of 2 in units of 2^−128: the product of 2^(2^−i) over the set bits i of a 64-bit fraction, from the root r of bit k. -/
def exp2Bits (f : Nat) : Nat → Nat → Nat → Nat
  | 0, _, acc => acc
  | k + 1, r, acc =>
    let r' := isqrtFrom (r * 2 ^ 128) 130 0
    exp2Bits f k r' (if f / 2 ^ k % 2 = 1 then acc * r' / 2 ^ 128 else acc)
/-- 2^(x ÷ 2^64) as m × 2^e, to more than 60 bits; x is held within ±400 × 2^64. -/
def exp2Approx (x : Int) : Nat × Int :=
  let x := clampInt (-400 * 2 ^ 64) (400 * 2 ^ 64) x
  (exp2Bits (x % 2 ^ 64).toNat 64 (2 ^ 129) (2 ^ 128), x / 2 ^ 64 - 128)
/-- Fraction bits of log2 of y ÷ 2^128, y in [2^128, 2^129), by squaring. -/
def log2Bits : Nat → Nat → Nat → Nat
  | 0, _, acc => acc
  | k + 1, y, acc =>
    let z := y * y / 2 ^ 128
    if 2 ^ 129 ≤ z then log2Bits k (z / 2) (2 * acc + 1) else log2Bits k z (2 * acc)
/-- log2 of m × 2^e in units of 2^−64. -/
def log2Approx (m : Nat) (e : Int) : Int :=
  let k := Nat.log2 m
  (e + k) * 2 ^ 64 + log2Bits 64 (m * 2 ^ 128 / 2 ^ k) 0
/-- log2 of Euler's number in units of 2^−128. -/
def log2e : Int := 490923683258796565746369346286093237521
/-- m × 2^e as units of 2^−64, toward −∞. -/
def fix64 (neg : Bool) (m : Nat) (e : Int) : Int :=
  let (p, q) := scale2 (clampInt (-400) 400 (e + 64))
  signedOf neg m * p / q
/-- The function's value at a finite input outside the exact cases, to far more bits than FP32 has: sign, numerator, denominator, exponent. -/
def sfuApprox (fn : SfuFn) (neg : Bool) (m : Nat) (e : Int) : Bool × Nat × Nat × Int :=
  match fn with
  | .exp2 => let (p, k) := exp2Approx (fix64 neg m e); (false, p, 1, k)
  | .log2 => let l := log2Approx m e; (l < 0, l.natAbs, 1, -64)
  | .rcp => (neg, 1, m, -e)
  | .rsqrt =>
    let o := (e % 2).toNat
    (false, isqrtFrom (2 ^ 400 / (m * 2 ^ o)) 201 0, 1, -200 - (e - o) / 2)
  | .sigmoid =>
    let (p, k) := exp2Approx (-(fix64 neg m e * log2e / 2 ^ 128))
    let (a, b) := scale2 k
    (false, b, b + p * a, 0)
  | .tanh =>
    if floorLog2 m 1 e < -12 then
      -- x − x³ ÷ 3
      let (a, b) := scale2 (2 * e)
      (neg, m * (3 * b - m * m * a), 3 * b, e)
    else
      let (p, k) := exp2Approx (2 * fix64 false m e * log2e / 2 ^ 128)
      let (a, b) := scale2 k
      (neg, p * a - b, p * a + b, 0)
/-- The cases of R177: an exact result with its flags, or none. -/
def sfuSpecial (fn : SfuFn) (x : Num) : Option (Exact × Fl) :=
  let one (k : Int) : Exact := .mag false 1 1 k
  match fn, x with
  | _, .nan sig => some (.nan, if sig then flNV else 0)
  | .exp2, .inf neg => some (if neg then .zero false else .inf false, 0)
  | .exp2, .fin neg m e =>
    if m = 0 then some (one 0, 0) else
    if !neg && 7 ≤ floorLog2 m 1 e then some (.inf false, flOF)
    else if neg && numCmp (.fin true m e) (.fin true 150 0) == .lt then some (.zero false, flUF)
    else
      let (n, inex) := roundInt .rtz neg m 1 e
      if !inex && -149 ≤ n then some (one n, 0) else none
  | .log2, .inf neg => some (if neg then .nan else .inf false, if neg then flNV else 0)
  | .log2, .fin neg m e =>
    if m = 0 then some (.inf true, flDZ) else if neg then some (.nan, flNV)
    else if m = 2 ^ Nat.log2 m then some (Exact.ofInt (e + Nat.log2 m) 0 false, 0) else none
  | .rcp, .inf neg => some (.zero neg, 0)
  | .rcp, .fin neg m e =>
    if m = 0 then some (.inf neg, flDZ)
    else if m = 2 ^ Nat.log2 m && -127 ≤ e + Nat.log2 m then some (.mag neg 1 1 (-(e + Nat.log2 m)), 0)
    else if ffF32.round false .rtz .ieee neg 1 m (-e) == (ffF32.max neg, flOF) then some (.inf neg, flOF)
    else none
  | .rsqrt, .inf neg => some (if neg then .nan else .zero false, if neg then flNV else 0)
  | .rsqrt, .fin neg m e =>
    if m = 0 then some (.inf neg, flDZ) else if neg then some (.nan, flNV)
    else if m = 2 ^ Nat.log2 m && (e + Nat.log2 m) % 2 = 0 then some (one (-((e + Nat.log2 m) / 2)), 0) else none
  | .sigmoid, .inf neg => some (if neg then .zero false else one 0, 0)
  | .sigmoid, .fin _ m _ => if m = 0 then some (one (-1), 0) else none
  | .tanh, .inf neg => some (.mag neg 1 1 0, 0)
  | .tanh, .fin neg m _ => if m = 0 then some (.zero neg, 0) else none
/-- The FP32 value at a place among all of them in order, 0 for either zero; the zero has the sign of the exact result. -/
def f32At (neg : Bool) (i : Int) : Nat := if i < 0 || (i == 0 && neg) then 2 ^ 31 + i.natAbs else i.toNat
/-- The bound of R176 on the error at an input: w × 2^u, u the exponent of an ulp of the exact result n ÷ dn × 2^k, or that of the absolute bound of log2. -/
def sfuBound (fn : SfuFn) (m : Nat) (e : Int) (n dn : Nat) (k : Int) : Nat × Int :=
  let q := floorLog2 m 1 e
  if fn = .log2 && (q = -1 || q = 0) then (1, -22)
  else (match fn with | .rcp | .rsqrt => 1 | _ => 2, max (floorLog2 n dn k - 23) (-149))
/-- The least and the greatest place, as magnitudes, that the bound alone leaves at an input; no finite result becomes an infinity or changes its sign. -/
def sfuBand (fn : SfuFn) (neg : Bool) (m : Nat) (e : Int) : Int × Int :=
  let (_, n, dn, k) := sfuApprox fn neg m e
  let (w, u) := sfuBound fn m e n dn k
  let e0 := min k u
  let a := n * 2 ^ (k - e0).toNat
  let b := w * dn * 2 ^ (u - e0).toNat
  let hi : Int := min (ffF32.round false .rdn .ieee false (a + b) dn e0).1 0x7F7FFFFF
  (if a ≤ b then 0 else (ffF32.round false .rup .ieee false (a - b) dn e0).1, hi)
/-- The greatest lower end of the bands of up to four inputs whose results lie nearer to zero, where a band can begin lower than theirs: at a power of 2 that is no exact result. -/
def sfuEarlier (fn : SfuFn) (x : Nat) : Nat → Int
  | 0 => 0
  | n + 1 =>
    let y := match fn with | .tanh => x - 1 | _ => x + 1
    match sfuSpecial fn (ffF32.num y), ffF32.num y with
    | none, .fin neg m e => max (sfuBand fn neg m e).1 (sfuEarlier fn y n)
    | _, _ => 0
/-- The magnitudes of the exact results of R177 around that of an input, which no monotonic function passes; 0x7F7FFFFF where none is above. -/
def sfuExact (fn : SfuFn) (neg : Bool) (m : Nat) (e : Int) : Int × Int :=
  let two (k : Int) : Int := (ffF32.round false .rtz .ieee false 1 1 k).1
  let j := floorLog2 m 1 e
  match fn with
  | .exp2 => let n := (roundInt .rdn neg m 1 e).1; (two n, two (n + 1))
  | .log2 =>
    let at_ (k : Int) : Int := (ffF32.finish false .rne (Exact.ofInt k.natAbs 0 false)).1
    if j < 0 then (at_ (j + 1), at_ j) else (at_ j, at_ (j + 1))
  | .rcp => (if j = 127 then 0 else two (-j - 1), two (-j))
  | .rsqrt => let i := j / 2; (if i = 63 then 0 else two (-i - 1), two (-i))
  | .sigmoid => if neg then (0, 0x3F000000) else (0x3F000000, 0x3F800000)
  | .tanh => (0, 0x3F800000)
/-- The least and the greatest place that R176 and R177 leave at an input to a monotonic function. -/
def sfuRange (fn : SfuFn) (x : Nat) (neg : Bool) (m : Nat) (e : Int) : Int × Int :=
  let (lo, hi) := sfuBand fn neg m e
  let (below, above) := sfuExact fn neg m e
  let earlier := match fn with | .sigmoid => if neg then sfuEarlier fn x 4 else 0 | .tanh => sfuEarlier fn x 4 | _ => 0
  let lo := max lo (max below earlier)
  let hi := min hi above
  if (sfuApprox fn neg m e).1 then (-hi, -lo) else (lo, hi)
/-- The number of an FP32 input in the order in which the function does not decrease: from −Inf up; for rcp and rsqrt from one end of the input's sign down (R176). -/
def sfuRank (fn : SfuFn) (x : Nat) : Nat :=
  match fn with
  | .rcp | .rsqrt => if x < 2 ^ 31 then 0x7F800000 - x else x - 2 ^ 31
  | _ => if x < 2 ^ 31 then x + 0x7F800001 else 0x7F800000 - (x - 2 ^ 31)
/-- A free function of d bits that never decreases, with values from lo to hi: its value at the middle is free, and each half lies on its side of it. Every such function is one of these. -/
def freeRising (free : Nat → Nat) : Nat → Nat → Int → Int → Nat → Int
  | 0, node, lo, hi, _ => lo + (free node % ((hi - lo).toNat + 1) : Nat)
  | d + 1, node, lo, hi, r =>
    let mid : Int := lo + (free node % ((hi - lo).toNat + 1) : Nat)
    if r / 2 ^ d % 2 = 0 then freeRising free d (2 * node) lo mid r else freeRising free d (2 * node + 1) mid hi r
/-- An FP32 result outside the cases of R177 (R176): a free function that never goes the wrong way, held within what R176 leaves at the input (log 8). -/
def sfuFree (fn : SfuFn) (x : Nat) (neg : Bool) (m : Nat) (e : Int) : Nat :=
  let (lo, hi) := sfuRange fn x neg m e
  let free (node : Nat) : Nat := (Config.vsfu (2 * fn.code + x / 2 ^ 31) node).toNat
  f32At (sfuApprox fn neg m e).1 (clampInt lo hi (freeRising free 32 1 (-0x7F800000) 0x7F800000 (sfuRank fn x)))
/-- The FP32 result before it is narrowed, and its flags; whether it is outside the cases of R177. -/
def sfuF32 (fn : SfuFn) (x : Nat) : Exact × Fl × Bool :=
  match sfuSpecial fn (ffF32.num x) with
  | some (e, f) => (e, f, false)
  | none =>
    match ffF32.num x with
    | .fin neg m e => ((ffF32.num (sfuFree fn x neg m e)).exact, flNX, true)
    | _ => (.nan, 0, false)
/-- A result of a lane that R178 counts as subnormal or flushed; by the model's reading a zero is one (log 59). -/
def subnormalLane (t : FpTy) (v : Nat) : Bool := v / 2 ^ (ffOf t).f % 2 ^ (ffOf t).w == 0
/-- VSFU in one lane (R176 to R178): the input is widened exactly, the result rounded once in RNE to the lane type, FTZ last. By the model's reading FTZ flushes a subnormal result of an exact case too (log 59). -/
def sfuLane (fn : SfuFn) (t : FpTy) (ftz : Bool) (x : Nat) : Nat × Fl :=
  let wide := match (ffOf t).num x with
    | .nan sig => if sig then 0x7F800001 else 0x7FC00000
    | n => (ffF32.finish false .rne n.exact).1
  let (e, f, general) := sfuF32 fn wide
  let (v, g) := (ffOf t).finish ftz .rne e
  let sub := subnormalLane t v
  (if general && ftz && sub then v / 2 ^ (t.width - 1) * 2 ^ (t.width - 1) else v,
    f ||| g ||| (if general && sub then flUF else 0))
/-- VSFU (R176 to R178), latency 4. -/
def execVsfu (fn : SfuFn) (t : FpTy) (d a : VReg) (s : State) : Out :=
  operation (.vsfu fn t d a) noCheck
    (fun s => s.vec d 4 (lanesFl t.width fun j => sfuLane fn t s.ftzNow (laneOf t.width (s.rv a) j))) s

end Sys2Proof.Machine
end

