-- ==== Sys2Proof/Machine/Convert.lean ====
section
/-! DEFINITION. Meanings of the conversions, quantisation, compression, packing and random lanes of the V slot (spec/07_conversion_and_quantisation.md R180 to R194, spec/03_number_formats.md R92 to R95). -/
namespace Sys2Proof.Machine

/-! ## VCVT and VCVTI (R182 to R185) -/

/-- Width of a unit of a run (R182). -/
def unitWidth (f : Fmt) : Nat := if f.isElem then 8 else 16
/-- A value converted into a format of R49: with saturation where it is one of 8 bits or fewer (R90, R92, R93). -/
def convertTo (f : Fmt) (sat ftz : Bool) (m : Mode) (x : Num) : Nat × Fl :=
  if f.isElem then toFmt f sat m x else (ffOfFmt f).convert ftz m x
/-- VCVT (R183, R184), latency 2. -/
def execVcvt (t : FpTy) (other : Fmt) (into : Bool) (pos : BitVec 2) (sat : Bool) (m : Rmo) (d a : VReg) (s : State) : Out :=
  operation (.vcvt t other into pos sat m d a) noCheck (fun s =>
    let n := t.lanes
    let u := unitWidth other
    let first := pos.toNat * n
    let rm := if vcvtExact t other into then RMode.rne else s.rmoNow m
    let (seed, s') := s.forMode rm
    if into then
      s'.vec d 2 (lanesFl t.width fun j =>
        (ffOf t).convert s.ftzNow (rm.at seed j) (fmtNum other (laneOf u (s.rv a) (first + j))))
    else
      s'.vec d 2 (lanesFl u fun k =>
        if first ≤ k && k < first + n then
          convertTo other sat s.ftzNow (rm.at seed (k - first)) (laneNum t (s.rv a) (k - first))
        else (laneOf u (s.rv d) k, 0))) s
/-- VCVTI (R185), latency 2. -/
def execVcvti (t : FpTy) (toFp u : Bool) (m : Rmo) (d a : VReg) (s : State) : Out :=
  operation (.vcvti t toFp u m d a) noCheck (fun s =>
    let w := t.width
    let rm := s.rmoNow m
    let (seed, s') := s.forMode rm
    s'.vec d 2 (lanesFl w fun j =>
      let x := laneOf w (s.rv a) j
      if toFp then (ffOf t).ofInt s.ftzNow (rm.at seed j) (if u then (x : Int) else sInt w x)
      else
        let (k, f) := numToInt (rm.at seed j) (!u) w ((ffOf t).num x)
        (toPat w k, f))) s

/-! ## VRNG (R186) -/

/-- VRNG (R186): it steps SEED as an SR operation does and raises no flag. -/
def execVrng (unif : Bool) (d : VReg) (s : State) : Out :=
  operation (.vrng unif d) noCheck (fun s =>
    let g := s.seedStep
    let v := if unif then lanes 32 fun j => ffF32.pack false ((srMix g j).extractLsb' 40 24).toNat (-24)
      else lanes 64 fun i => (srMix g i).toNat
    (s.seedTo g).vec d 1 (v, 0)) s

/-! ## Scales (R74, R75) -/

/-- A scale's value m × 2^e; none for NaN. -/
def scaleNum (sf : ScaleFmt) (v : Nat) : Option (Nat × Int) :=
  match sf with
  | .e8m0 => if v % 256 = 255 then none else some (1, (v % 256 : Nat) - 127)
  | .e8m12 =>
    let e := v / 4096 % 256
    if e = 255 then none else some (4096 + v % 4096, (e : Int) - 139)
/-- A number times a scale (R190, R191): a NaN scale gives a NaN. -/
def timesScale (x : Num) (k : Option (Nat × Int)) : Num :=
  match x, k with
  | .nan s, _ => .nan s
  | _, none => .nan false
  | .inf n, _ => .inf n
  | .fin n m e, some (p, q) => .fin n (m * p) (e + q)
/-- Element i of a dense block in a register (R181). -/
def denseElem (f : Fmt) (v : Vec) (i : Nat) : Nat := laneOf f.width v i

/-! ## VQMX (R94, R187 to R189) -/

/-- EMAX and MAXV of a format (R188), MAXV as numerator and denominator. -/
def quantLimits (f : Fmt) : Int × Nat × Nat :=
  match f with
  | .e4m3 => (8, 448, 1) | .e5m2 => (15, 57344, 1) | .e3m2 => (4, 28, 1) | .e2m3 => (2, 15, 2) | .e2m1 => (2, 6, 1)
  | _ => (0, 127, 64)
/-- The larger of two magnitudes m × 2^e. -/
def maxMagnitude (a b : Nat × Int) : Nat × Int :=
  if numCmp (.fin false a.1 a.2) (.fin false b.1 b.2) == .lt then b else a
/-- The largest finite magnitude of a block (R188). -/
def blockMax (l : List Num) : Nat × Int :=
  l.foldl (fun a x => match x with | .fin _ m e => maxMagnitude a (m, e) | _ => a) (0, 0)
/-- The invalid condition QV (R94). -/
def quantInvalid (f : Fmt) (l : List Num) : Bool :=
  l.any Num.isNan || (f != .e5m2 && l.any fun x => match x with | .inf _ => true | _ => false)
/-- The scale's code (R188). -/
def quantScale (f : Fmt) (sf : ScaleFmt) (l : List Num) : Nat :=
  if quantInvalid f l then (if sf = .e8m0 then 0xFF else 0xFF000) else
  let (m, e) := blockMax l
  let (emax, mv, md) := quantLimits f
  if m = 0 then (if sf = .e8m0 then 0x7F else 0x7F000) else
  match sf with
  | .e8m0 => (max (-127) (floorLog2 m 1 e - emax) + 127).toNat
  | .e8m12 =>
    -- The smallest value at or above m × 2^e × md ÷ mv.
    let q := floorLog2 (m * md) mv e
    if q < -127 then 0 else
    let (a, b) := scale2 (e - q)
    let n := m * md * a * 4096
    let u := (n + mv * b - 1) / (mv * b)
    if u = 8192 then (q + 128).toNat * 4096 else (q + 127).toNat * 4096 + (u - 4096)
/-- One element of the block (R189): the exact quotient with one rounding; a clamp raises NX and never OF. -/
def quantElem (f : Fmt) (m : Mode) (k : Nat × Int) (x : Num) : Nat × Fl :=
  let ff := ffOfFmt f
  match x with
  | .nan _ => (0, 0)
  | .inf neg => (ff.inf neg, 0)
  | .fin neg a e =>
    if a = 0 then (if f = .mxint8 then 0 else ff.sign neg, 0) else
    let (v, g) := if f = .mxint8 then toMx m (.mag neg a k.1 (e - k.2)) else ff.round false m .sat neg a k.1 (e - k.2)
    (v, g &&& ~~~4)
/-- The mode of VQMX (R187). -/
def State.quantMode (s : State) : QRnd → RMode
  | .fcr => s.rmoNow .fcr | .rne => .rne | .sr => .sr
/-- The 32 elements of the block that starts at a (R187). -/
def State.quantBlock (s : State) (a : VReg) : List Num :=
  (upTo 32).map fun i => laneNum .f32 (s.rv (a + BitVec.ofNat 6 (i / 8))) (i % 8)
/-- VQMX (R187 to R189), latency 3. -/
def execVqmx (f : Fmt) (sf : ScaleFmt) (r : QRnd) (d a : VReg) (c : SReg) (s : State) : Out :=
  operation (.vqmx f sf r d a c) noCheck (fun s =>
    let l := s.quantBlock a
    let code := quantScale f sf l
    let qv := quantInvalid f l
    let rm := s.quantMode r
    let (seed, s') := s.forMode rm
    let es := (upTo 32).map fun i => quantElem f (rm.at seed i) ((scaleNum sf code).getD (1, 0)) (nthD (.nan false) l i)
    let v := if qv then 0 else packLanes f.width (es.map (·.1))
    let fl := if qv then flNV else es.foldl (fun g p => g ||| p.2) 0
    (s'.vec d 3 (v, fl)).wx c (BitVec.ofNat 64 (code + if qv then 2 ^ 63 else 0)) 3) s
/-- VDQMX (R190). -/
def execVdqmx (t : FpTy) (f : Fmt) (sf : ScaleFmt) (pos : BitVec 2) (d a : VReg) (c : SReg) (s : State) : Out :=
  operation (.vdqmx t f sf pos d a c) noCheck (fun s => s.fpLanes t (s.rmoNow .fcr) d 1 fun _ j =>
    ((timesScale (fmtNum f (denseElem f (s.rv a) (pos.toNat * t.lanes + j))) (scaleNum sf (s.rx c).toNat)).exact, 0)) s
/-- VSCL (R191). -/
def execVscl (t : FpTy) (sf : ScaleFmt) (pair : Bool) (m : Rmo) (d a : VReg) (c : SReg) (s : State) : Out :=
  operation (.vscl t sf pair m d a c) noCheck (fun s => s.fpLanes t (s.rmoNow m) d 1 fun _ j =>
    let k := (s.rx c).toNat
    let x := laneNum t (s.rv a) j
    let y := timesScale x (scaleNum sf k)
    ((if pair then timesScale y (scaleNum sf (k / 2 ^ 32)) else y).exact, sigFlag [x])) s

/-! ## VCMPR (R95, R192) -/

/-- Width of VCMPR's elements: byte containers or lanes (R192). -/
def cmprWidth : CmprKind → Nat
  | .fmt f => unitWidth f
  | .f32 => 32
/-- An element's value. -/
def cmprNum (k : CmprKind) (x : Nat) : Num :=
  match k with
  | .fmt f => fmtNum f x
  | .f32 => ffF32.num x
/-- Whether x ranks above y (R95): NaN, infinity, then magnitude. -/
def ranksAbove (x y : Num) : Bool :=
  let mag : Num → Num := fun n => match n with | .inf _ => .inf false | .fin _ m e => .fin false m e | n => n
  if x.isNan then !y.isNan else !y.isNan && numCmp (mag x) (mag y) == .gt
/-- The first lane of a group that no other ranks above, apart from lane `skip`. -/
def bestLane (l : List Num) (skip : Nat) : Nat :=
  ((upTo 4).filter (· != skip)).foldl (fun b i =>
    if b = 4 || ranksAbove (nthD (.nan false) l i) (nthD (.nan false) l b) then i else b) 4
/-- The two lanes kept, in ascending order (R95). -/
def keptLanes (l : List Num) : Nat × Nat :=
  let i := bestLane l 4
  let j := bestLane l i
  (min i j, max i j)
/-- Canon (R192): a NaN in its canonical form, container upper bits zero. -/
def canonElem (k : CmprKind) (x : Nat) : Nat :=
  match k with
  | .f32 => if (ffF32.num x).isNan then ffF32.nan else x
  | .fmt .mxint8 => x
  | .fmt f => if (fmtNum f x).isNan then (ffOfFmt f).nan else x % 2 ^ f.width
/-- VCMPR (R192, R193), latency 3. -/
def execVcmpr (k : CmprKind) (pos : Bool) (d a : VReg) (c : SReg) (s : State) : Out :=
  operation (.vcmpr k pos d a c) noCheck (fun s =>
    let w := cmprWidth k
    let n := 256 / w
    let elem (i : Nat) : Nat := laneOf w (s.rv a) i
    let kept := (upTo (n / 4)).map fun g => keptLanes ((upTo 4).map fun i => cmprNum k (elem (4 * g + i)))
    let units := ((upTo (n / 4)).map fun g =>
      let p := nthD (0, 0) kept g
      [canonElem k (elem (4 * g + p.1)), canonElem k (elem (4 * g + p.2))]).flatten
    let first := if pos then n / 2 else 0
    let v := lanes w fun i => if first ≤ i && i < first + n / 2 then nthD 0 units (i - first) else laneOf w (s.rv d) i
    (s.vec d 3 (v, 0)).wx c (BitVec.ofNat 64 (packNat 4 (kept.map fun p => 4 * p.2 + p.1))) 3) s

/-! ## VPACK and VUNPK (R194) -/

/-- VPACK (R194). -/
def execVpack (w4 : Bool) (d a : VReg) (s : State) : Out :=
  let w := if w4 then 4 else 6
  valu (.vpack w4 d a) d 1 (fun s => packLanes w ((upTo 32).map fun i => laneOf 8 (s.rv a) i)) s
/-- VUNPK (R194). -/
def execVunpk (w4 : Bool) (d a : VReg) (s : State) : Out :=
  let w := if w4 then 4 else 6
  valu (.vunpk w4 d a) d 1 (fun s => lanes 8 fun i => laneOf w (s.rv a) i) s

end Sys2Proof.Machine
end

