-- ==== Sys2Proof/Machine/Packets.lean ====
section
/-! DEFINITION. Packets of the eddy plane: their paths, bounds and order (spec/16_tidal_eddy_and_swell_fabric.md R361, R368, R369; spec/13_execution_and_scheduling.md R322), the requester's and the owner's side that every request shares (spec/05_local_memory_and_atomics.md R132, R134), and the receive log and trace rings (spec/14_faults_preemption_and_replay.md R335, R336). -/
namespace Sys2Proof.Machine

/-- The hub as the end of a packet's path. -/
def hubId : Nat := 65536
/-- The barrier unit of a shore as the end of a packet's path. -/
def shoreUnit (key : Nat) : Nat := 131072 + key

/-- An entry of the link table (R388). -/
def Hub.link (h : Hub) (k : Nat) : DWord := look 0 h.links k
/-- A link is locked and not down (R373, R388). -/
def Hub.linkUp (h : Hub) (k : Nat) : Bool := (h.link k).getLsbD 12 && !(h.link k).getLsbD 13
/-- A link's locked latency at the current clock step (R370, R388). -/
def Hub.linkLat (h : Hub) (k : Nat) : Nat := ((h.link k).extractLsb' 0 12).toNat
/-- The die of a packet's end; the hub is reached through the die of the other end (R361). -/
def endDie (p other : Nat) : Nat :=
  if 131072 ≤ p then (p - 131072) / 64 else if p = hubId then (if 131072 ≤ other then (other - 131072) / 64 else dieOf other) else dieOf p
/-- Row and column, in the joined grid of 64 by 64, of the mesh router through which a packet's end is reached (R361, R368): a quay or strand core's and the hub's are those of their outward ports, the hub's being the corner nearest the package centre, and a shore's barrier unit is at the shore's first core. -/
def gridPos (p other : Nat) : Nat × Nat :=
  let d := endDie p other
  let (r, c) : Nat × Nat :=
    if p = hubId then (if d < 2 then 31 else 0, if d % 2 = 0 then 31 else 0)
    else if 131072 ≤ p then let k := (p - 131072) % 64; (k / 8 * 4, k % 8 * 4)
    else match kindOf p with
      | 0 => (rowOf p, colOf p)
      | 1 => (if d < 2 then 0 else 31, 2 * colOf p)
      | _ => (8 * colOf p + 4, if d % 2 = 0 then 0 else 31)
  (d / 2 * 32 + r, d % 2 * 32 + c)
/-- A quay or strand core has a router of its own beyond the mesh (R361). -/
def ownRouter (p : Nat) : Nat := if p < hubId && kindOf p ≠ 0 then 1 else 0
/-- The eddy plane's side of a router at which a quay or strand core attaches, as an input: north 1, east 2, south 3, west 4 (R361). -/
def outPort (p : Nat) : Nat := if kindOf p = 1 then (if dieOf p < 2 then 1 else 3) else (if dieOf p % 2 = 0 then 4 else 2)
/-- The number of a mesh router at a row and column of the joined grid (R368). -/
def meshNode (row col : Nat) : Nat := 64 * row + col
/-- The router of a quay or strand core. -/
def ownNode (p : Nat) : Nat := 4096 + p
/-- Numbers from a to b, up or down. -/
def between (a b : Nat) : List Nat := if a ≤ b then upFrom a (b - a + 1) else (upTo (a - b + 1)).map (a - ·)
/-- The routers that a packet crosses: along its row first, then along the column (R361, R368). -/
def nodesOf (a b : Nat) : List Nat :=
  let u := gridPos a b
  let v := gridPos b a
  let own (p : Nat) : List Nat := if ownRouter p = 1 then [ownNode p] else []
  if a = b && ownRouter a = 1 then [ownNode a] else
  own a ++ (between u.2 v.2).map (meshNode u.1) ++ ((between u.1 v.1).drop 1).map (fun r => meshNode r v.2) ++ own b
/-- Neighbours in a list. -/
def zipNext (l : List Nat) : List (Nat × Nat) := l.zip (l.drop 1)
/-- The die of a router. -/
def nodeDie (n : Nat) : Nat := if 4096 ≤ n then dieOf (n - 4096) else n / 64 / 32 * 2 + n % 64 / 32
/-- The die pair that joins two neighbouring routers, if they lie on two dies (R361). -/
def pairBetween (x y : Nat) : Option Nat :=
  if nodeDie x = nodeDie y then none else some (if x / 64 / 32 = y / 64 / 32 then x / 64 / 32 else 2 + x % 64 / 32)
/-- The hub as the router from which a packet came. -/
def hubVia : Nat := 1000000
/-- The input of router n at which a packet from `via` waits: local 0, north 1, east 2, south 3, west 4 (R132, R322, R361). -/
def inputOf (via n : Nat) : Nat :=
  if via = 0 || via = hubVia then 0 else
  let m := via - 1
  if 4096 ≤ n then (outPort (n - 4096) + 1) % 4 + 1
  else if 4096 ≤ m then outPort (m - 4096)
  else if m / 64 < n / 64 then 1 else if n / 64 < m / 64 then 3 else if n % 64 < m % 64 then 2 else 4
/-- A packet of the response channel (R368). -/
def Body.isReply : Body → Bool
  | .reply _ _ => true
  | _ => false
/-- Bytes of a packet's payload: operands, data, a record or a message; addresses and numbers are its header's. Model's choice (log 4). -/
def Body.payload : Body → Nat
  | .access i _ _ =>
    match i with
    | .ld8 _ _ _ | .ld8z _ _ _ | .ld16 _ _ _ | .ld16z _ _ _ | .ld32 _ _ _ | .ld32z _ _ _ | .ld64 _ _ _ | .ldv _ _ _ | .ldf _ _ _
    | .ldff _ _ _ => 0
    | .stv _ _ _ => 32
    | .acas _ _ _ _ | .stbit _ _ _ _ => 16
    | _ => 8
  | .ringPush _ _ | .signal _ _ => 8
  | .barrier (.bara _ _ _) _ => 0
  | .barrier _ _ => 8
  | .spawn _ _ _ _ _ _ _ => 56
  | .message _ _ data => data.length
  | .notice _ _ => 16
  | .reply _ (.record _) => 48
  | .reply _ (.vec _) => 32
  | .reply _ (.value _) => 8
  | _ => 0
/-- Beats of a packet: one header and its payload in units of 16 bytes (R322); a refusal on its way back has no payload. -/
def Packet.beats (k : Packet) : Nat := 1 + (if k.back then 0 else (k.body.payload + 15) / 16)
/-- The channel of a packet: requests 0, responses and refusals 1 (R368). -/
def Packet.channel (k : Packet) : Nat := if k.back || k.body.isReply then 1 else 0
/-- A packet set on its way from one end to another, in the next cycle. -/
def Packet.depart (k : Packet) (now src dst : Nat) : Packet :=
  { k with path := nodesOf src dst, via := if src = hubId then hubVia else 0, entered := now + 1, due := now + 1 }
/-- A packet has reached its end. -/
def Packet.arrived (k : Packet) (now : Nat) : Bool :=
  k.path.isEmpty && !k.back && k.accepted.isNone && k.resend.isNone && decide (k.due ≤ now)
/-- A packet sent now; its name is the answer's first part (R134, R322, R368). -/
def State.send (s : State) (src sctx dst laddr : Nat) (body : Body) (cmd : Nat) (launch : Option Nat) : Nat × State :=
  let k : Packet := ⟨s.ids, src, sctx, dst, laddr, body, 0, none, 0, cmd, launch, none, [], 0, 0, false⟩
  (s.ids, { s with ids := s.ids + 1, packets := s.packets ++ [k.depart s.now src dst] })

/-! ## Routers (R322, R369) -/

/-- The output through which a packet leaves the router that holds it: channel, router, and the next router, one more than its number (0: the end's own port). -/
def Packet.output (k : Packet) : Nat × Nat × Nat :=
  match k.path with
  | x :: y :: _ => (k.channel, x, y + 1)
  | [x] => (k.channel, x, 0)
  | [] => (k.channel, 0, 0)
/-- The name of an output among the routers' state. -/
def outKey (o : Nat × Nat × Nat) : Nat := (o.1 * 131072 + o.2.1) * 131072 + o.2.2
/-- The packets that wait at an input of a router, in the order in which they entered it. -/
def State.inputQueue (s : State) (ch node via : Nat) : List Packet :=
  sortBy (·.entered) (s.packets.filter fun k => k.path.head? == some node && k.via == via && k.channel == ch)
/-- The packet at the head of each input of a router. The hub's port shares the local input with the router's core, the one not served last before the other (R361). -/
def State.inputHeads (s : State) (ch node : Nat) : List Packet :=
  let at_ := s.packets.filter fun k => k.path.head? == some node && k.channel == ch
  let heads := ((at_.map (·.via)).eraseDups).filterMap fun v => (s.inputQueue ch node v).head?
  let hub := heads.any fun k => k.via == hubVia && decide (k.entered ≤ s.now)
  let core := heads.any fun k => k.via == 0 && decide (k.entered ≤ s.now)
  if !(hub && core) then heads else
  let last := (look (0, 0) s.eddyOuts (outKey (2 + ch, node, 0))).2
  heads.filter fun k => k.via != last || (k.via != 0 && k.via != hubVia)
/-- The next router has room for a packet: 5 beats in an input (R322), and 8 packets in the window of a lane between dies, whose credits come back when they leave the facing input (R369). -/
def State.roomFor (s : State) (k : Packet) : Bool :=
  match k.path with
  | x :: y :: _ =>
    let there := s.inputQueue k.channel y (x + 1)
    match pairBetween x y with
    | none => decide (total (there.map Packet.beats) + k.beats ≤ 5)
    | some _ => decide (there.length + ((look [] s.eddyCredits (outKey k.output)).filter fun t => decide (s.now < t)).length < 8)
  | _ => true
/-- The die pair that a packet is about to cross. -/
def Packet.crosses (k : Packet) : Option Nat :=
  match k.path with
  | x :: y :: _ => pairBetween x y
  | _ => none
/-- A packet is sent on: its output is busy for its beats, a lane's latency passes, and the credit of the lane that it came by sets out (R322, R369). From its last router it arrives within two cycles more (log 4), after those that left for the same end before it (R368). -/
def State.hop (s : State) (k : Packet) : State :=
  let o := k.output
  let outs := put s.eddyOuts (outKey o) (s.now + k.beats, inputOf k.via o.2.1)
  let outs := if k.via = 0 || k.via = hubVia then put outs (outKey (2 + o.1, o.2.1, 0)) (0, k.via) else outs
  let credits := match (if k.via = 0 || k.via = hubVia then none else pairBetween (k.via - 1) o.2.1) with
    | some n =>
      let key := outKey (o.1, k.via - 1, o.2.1 + 1)
      put s.eddyCredits key (((look [] s.eddyCredits key).filter fun t => decide (s.now < t)) ++ [s.now + s.hub.linkLat n])
    | none => s.eddyCredits
  let k' : Packet := match k.path with
    | x :: y :: t =>
      let at_ := s.now + (match pairBetween x y with | some n => max 1 (s.hub.linkLat n) | none => 1)
      { k with path := y :: t, via := x + 1, entered := at_, due := at_ }
    | _ =>
      let before := s.packets.filter fun q => q.path.isEmpty && q.accepted.isNone && q.resend.isNone && q.channel == k.channel &&
        (if q.back then q.src else q.dst) == (if k.back then k.src else k.dst)
      { k with path := [], due := before.foldl (fun t q => max t (q.due + 1)) (s.now + k.beats + s.anyWide k.id 3) }
  { s with eddyOuts := outs, eddyCredits := credits, packets := s.packets.map fun q => if q.id = k.id then k' else q }
/-- An output serves the router's inputs in turn, one whole packet at a time (R322). One whose next lane is down holds its packets, which try again every 16 cycles (R373). -/
def State.serveOutput (s : State) (o : Nat × Nat × Nat) : State :=
  let (free, last) := look (0, 0) s.eddyOuts (outKey o)
  if s.now < free then s else
  let ks := (s.inputHeads o.1 o.2.1).filter fun k => k.output == o && decide (k.due ≤ s.now)
  let turn (k : Packet) : Nat := (inputOf k.via o.2.1 + 9 - last) % 5
  match sortBy turn ks with
  | [] => s
  | k :: _ =>
    if (match k.crosses with | some n => (s.hub.link n).getLsbD 13 | none => false) then
      { s with packets := s.packets.map fun q => if ks.any fun k => k.id == q.id then { q with due := s.now + 16 } else q }
    else if s.roomFor k then s.hop k else s
/-- The eddy plane in a cycle. -/
def State.eddyCycle (s : State) : State :=
  (((s.packets.filter fun k => !k.path.isEmpty && decide (k.due ≤ s.now)).map Packet.output).eraseDups).foldl State.serveOutput s
/-- The packet of a name, if it is on its way or waits. -/
def State.packet (s : State) (id : Nat) : Option Packet := firstOf (fun k => k.id == id) s.packets
/-- The state without a packet. -/
def State.dropPacket (s : State) (id : Nat) : State := { s with packets := s.packets.filter fun k => k.id != id }
/-- The state with a packet changed. -/
def State.onPacket (s : State) (id : Nat) (f : Packet → Packet) : State :=
  { s with packets := s.packets.map fun k => if k.id = id then f k else k }
/-- The request is answered: it is gone, and its response is on its way (R134). -/
def State.answer (s : State) (k : Packet) (r : Reply) : State :=
  ((s.dropPacket k.id).send k.dst k.sctx k.src k.laddr (.reply k.id r) k.cmd k.launch).2
/-- The request is refused for now: the refusal travels back, and the requester sends it again 16 cycles after it arrives (R147, R322). -/
def State.refuseForNow (s : State) (k : Packet) : State :=
  s.onPacket k.id fun k => { (k.depart s.now k.dst k.src) with accepted := none, waited := 0, back := true }
/-- An event's meaning: it changes the state, and later free values are fresh (log 3). -/
def event (f : State → State) (s : State) : Out := .next (f s).bump
/-- The state after an event that is due: the meaning that exec gives it (log 5). -/
def State.also (s : State) (f : State → Out) : State :=
  match f s with
  | .next t => t
  | _ => s

/-- The logical number by which a log names a source (R335). -/
def State.logSource (s : State) (src sctx : Nat) : Half :=
  if hubId ≤ src then 0xFFFF else if kindOf src ≠ 0 then 0xFFFE else (s.core src).logicalOf sctx
/-- The port may reach local stores and the registers of stopped contexts, and capture is permitted (R428). -/
def Hub.opened (h : Hub) : Bool := h.debug != 0 && h.lifecycle != 2
/-- A receive of a core (R335): the bytes of its words only while capture is enabled and permitted (R337, R428); the Lighthouse's own descriptors it knows. -/
def State.logReceive (s : State) (p kind ctx src sctx : Nat) (value : DWord) (laddr len : Nat) (bytes : List Byte)
    (what : Option Got := none) : State :=
  s.onCore p fun c => c.receive (receiveOf kind (s.realCtx p ctx) (s.logSource src sctx) sctx s.now value laddr len
    (if (s.hub.capture && s.hub.opened) || kind = 0x0A then bytes else []) what)
/-- The words of a list are noted as written by a source (R299). -/
def Core.noteWriter (c : Core) (ws : List Nat) (src ctx : Nat) : Core :=
  { c with writers := ws.foldl (fun m w => put m w (src, ctx)) c.writers }
/-- A remote write at a word whose last write came from another source enters the bank's trace ring of 64 records (R299, R336). -/
def Core.traceRace (c : Core) (now w src sctx : Nat) (logical : Half) : Core :=
  match find c.writers w with
  | some p =>
    if p = (src, sctx) then c else
    let b := bankOf w
    let l := look [] c.traces b ++ [(w, logical, BitVec.ofNat 4 sctx, now)]
    if l.length ≤ 64 then { c with traces := put c.traces b l }
    else { c with traces := put c.traces b (l.drop 1), lostLog := c.lostLog + 1 }
  | none => c

/-- A remote write of some words is performed at core p (R299): races enter the trace rings, and the source is the words' last writer. -/
def State.noteRemote (s : State) (p : Nat) (ws : List Nat) (src sctx : Nat) : State :=
  let who := s.logSource src sctx
  s.onCore p fun c => (ws.foldl (fun c w => c.traceRace s.now w src sctx who) c).noteWriter ws src sctx

/-! ## The requester's side of a wait (R12, R134, R329) -/

/-- A wait of a context changed, by the name it waits for. -/
def Ctx.onPark (x : Ctx) (id : Nat) (f : Park → Park) : Ctx :=
  { x with parks := x.parks.map fun k => if k.id = id && k.ended == .waiting then f k else k }
/-- The context of a core that waits for the request or command of a name. -/
def Core.waiter (c : Core) (id : Nat) : Option Nat :=
  (firstOf (fun nx => nx.2.parks.any fun k => k.id == id && k.ended == .waiting) c.ctxs).map (·.1)
/-- Where a context's commands report to (R217, R284, R285, R332). A command bears the number of its context, 16 + e for the context OUT in Rockpool entry e, or 32 + n for context n of the core to which the work has moved, whichever of its entries or slots holds it. -/
def State.home (s : State) (p n : Nat) : Nat × Nat :=
  if n < 32 then (p, n) else
  let c := s.core p
  let q := match c.forward with
    | some q => q
    | none => (c.migration.map (·.target)).getD p
  match firstOf (fun kq => kq.2.ctx == n - 32) (s.core q).pool with
  | some kq => (q, 16 + kq.1)
  | none => (q, n - 32)
/-- A wait of a context, or of the context OUT in Rockpool entry n − 16, changed. -/
def State.onWait (s : State) (p n id : Nat) (f : Park → Park) : State :=
  if n < 16 then s.onCtx p n fun x => x.onPark id f
  else s.onCore p fun c => { c with pool := c.pool.map fun kq =>
    if kq.1 = n - 16 then (kq.1, { kq.2 with parks := kq.2.parks.map fun k => if k.id = id && k.ended == .waiting then f k else k })
    else kq }
/-- The wait of a name is over: what it was owed is readable from the bundle after the PARK on. -/
def State.endWait (s : State) (p n id : Nat) (v : Option Val) : State :=
  let t := s.onWait p n id fun k => { k with ended := .done }
  t.onCore p fun c => match v with
    | some v => c.settle id v (turnLast s.now)
    | none => c.forgo id
/-- The wait of a name ends with a trap, which the context takes at its PARK exit (R329); its destinations keep their values. -/
def State.trapWait (s : State) (p n id : Nat) (cause tval : DWord) : State :=
  let t := s.onWait p n id fun k => { k with ended := .trapped cause tval }
  t.onCore p fun c => c.forgo id

end Sys2Proof.Machine
end

