-- ==== Sys2Proof/Machine/Local.lean ====
section
/-! DEFINITION. Meanings of the L slot (spec/05_local_memory_and_atomics.md R129 to R151): the effect of an access at the core that owns its words, the paths of local, relaxed and remote accesses to it, WAITM and FENCE. -/
namespace Sys2Proof.Machine

/-! ## An access at its owner (R132) -/

/-- Element bytes, lanes and index width of a gather (R143). -/
def gatherShape : GatherSize → Nat × Nat × Nat
  | .n32 => (4, 8, 32) | .n64 => (8, 4, 64) | .n16 => (2, 16, 16)
/-- Address of lane j: the index is the lane, of which a 64-bit one gives its low 32 bits (R143). -/
def gatherAddr (sz : GatherSize) (sh : BitVec 3) (a : DWord) (idx : Vec) (j : Nat) : DWord :=
  effNat a (laneOf (gatherShape sz).2.2 idx j % 2 ^ 32 * 2 ^ sh.toNat)
/-- Bytes of an access (R140 to R150). -/
def accessSize : Instr → Nat
  | .ld8 _ _ _ | .ld8z _ _ _ | .st8 _ _ _ => 1
  | .ld16 _ _ _ | .ld16z _ _ _ | .st16 _ _ _ => 2
  | .ld32 _ _ _ | .ld32z _ _ _ | .st32 _ _ _ => 4
  | .ldv _ _ _ | .stv _ _ _ => 32
  | .aswp _ _ _ w | .acas _ _ _ w | .aadd _ _ _ w | .alog _ _ _ _ w | .aminmax _ _ _ _ _ w => if w then 4 else 8
  | .afadd _ _ _ _ => 4
  | .ldgv _ _ _ sz _ | .stsv _ _ _ sz _ => (gatherShape sz).1
  | _ => 8
/-- Width of the field of LDBIT and STBIT. -/
def fieldWidth : Instr → Nat
  | .ldbit _ _ _ _ wm1 | .stbit _ _ _ wm1 => wm1.toNat + 1
  | _ => 0
/-- A field of `b` bits position passes into the next word (R142). -/
def straddles (i : Instr) (b : DWord) : Bool := decide (64 < b.toNat % 64 + fieldWidth i)
/-- The next word of a store (R129). -/
def nextWord (a : Nat) : Nat := (a + 8) % 2 ^ 19
/-- The byte ranges that an access touches. -/
def accessPieces (i : Instr) (a : Nat) (b : DWord) (idx : Vec) : List (Nat × Nat) :=
  match i with
  | .ldbit _ _ _ _ _ | .stbit _ _ _ _ => (a, 8) :: (if straddles i b then [(nextWord a, 8)] else [])
  | .ldgv _ _ _ sz sh | .stsv _ _ _ sz sh =>
    (upTo (gatherShape sz).2.1).map fun j =>
      (laddrOf (gatherAddr sz sh (BitVec.ofNat 64 a) idx j), (gatherShape sz).1)
  | _ => [(a, accessSize i)]
/-- The words of some byte ranges. -/
def wordsOf (l : List (Nat × Nat)) : List Nat :=
  ((l.map fun p => (upFrom (p.1 / 8) ((p.1 + p.2 + 7) / 8 - p.1 / 8)).map (8 * ·)).flatten).eraseDups
/-- An access that writes its word (R299). -/
def isStore : Instr → Bool
  | .st8 _ _ _ | .st16 _ _ _ | .st32 _ _ _ | .st64 _ _ _ | .stv _ _ _ | .stbit _ _ _ _ | .ste _ _ _ | .stf _ _ _
  | .aswp _ _ _ _ | .acas _ _ _ _ | .aadd _ _ _ _ | .alog _ _ _ _ _ | .aminmax _ _ _ _ _ _ | .afadd _ _ _ _
  | .stsv _ _ _ _ _ => true
  | _ => false
/-- A local atomic, performed in the last cycle of its core turn (R132). -/
def isAtomic : Instr → Bool
  | .aswp _ _ _ _ | .acas _ _ _ _ | .aadd _ _ _ _ | .alog _ _ _ _ _ | .aminmax _ _ _ _ _ _ | .afadd _ _ _ _ => true
  | _ => false
/-- A store that replaces whole words and so reads none of their bits. -/
def replacesWords : Instr → Bool
  | .st64 _ _ _ | .stv _ _ _ => true
  | _ => false

/-- AFADD on 32 bits (R96). -/
def afaddVal (bf16 : Bool) (old v : Nat) : Nat :=
  let one (ff : Ff) (x y : Nat) : Nat := (ff.finish false .rne (numAdd .rne (ff.num x) (ff.num y)).1).1
  if bf16 then one ffBf16 (old % 65536) (v % 65536) + 65536 * one ffBf16 (old / 65536) (v / 65536 % 65536)
  else one ffF32 old (v % 2 ^ 32)
/-- The new value of an atomic at width n, of the old value, the operand and the compare value (R151). -/
def atomicVal (n : Nat) (i : Instr) (old v cmp : BitVec n) : BitVec n :=
  match i with
  | .acas _ _ _ _ => if old = cmp then v else old
  | .aadd _ _ _ _ => old + v
  | .alog op _ _ _ _ => match op with | .and => old &&& v | .or => old ||| v | .xor => old ^^^ v
  | .aminmax _ _ _ mx u _ => if lessThan u old v then (if mx then v else old) else (if mx then old else v)
  | .afadd _ _ _ bf => BitVec.ofNat n (afaddVal bf old.toNat v.toNat)
  | _ => v
/-- An ACAS whose compare value is not the word's: it writes nothing (R151). -/
def Core.acasFails (c : Core) (i : Instr) (a : Nat) (cmp : DWord) : Bool :=
  match i with
  | .acas _ _ _ _ => if accessSize i = 8 then c.word a != cmp else BitVec.ofNat 32 (memRead c.ls a 4) != cmp.setWidth 32
  | _ => false
/-- An atomic at its word (R151): the new word, and the old value. A failed ACAS writes nothing. -/
def Core.atomic (c : Core) (i : Instr) (a : Nat) (v cmp : DWord) : Core × DWord :=
  if accessSize i = 8 then
    let old := c.word a
    let new := atomicVal 64 i old v cmp
    (if c.acasFails i a cmp then c else c.storeBytes a 8 new.toNat, old)
  else
    let old : Word := BitVec.ofNat 32 (memRead c.ls a 4)
    let new := atomicVal 32 i old (v.setWidth 32) (cmp.setWidth 32)
    let c' := if c.acasFails i a cmp then c else c.storeBytes a 4 new.toNat
    (c', match i with | .afadd _ _ _ _ => old.setWidth 64 | _ => old.signExtend 64)
/-- A load of n bytes, extended (R140). -/
def Core.loadExt (c : Core) (a n : Nat) (sx : Bool) : DWord :=
  let v := BitVec.ofNat 64 (memRead c.ls a n)
  if sx then signField v (8 * n) else v
/-- The bits of the word at a below those of the next one (R142). -/
def Core.pairAt (c : Core) (a : Nat) : BitVec 128 := c.word (nextWord a) ++ c.word a
/-- STBIT's effect (R142). -/
def Core.storeField (c : Core) (a p w : Nat) (v : DWord) : Core :=
  let m : BitVec 128 := (BitVec.ofNat 128 (2 ^ w - 1)) <<< p
  let n := (c.pairAt a &&& ~~~m) ||| ((v.setWidth 128 <<< p) &&& m)
  let c' := c.storeBytes a 8 (n.setWidth 64).toNat
  if 64 < p + w then c'.storeBytes (nextWord a) 8 (n.extractLsb' 64 64).toNat else c'
/-- An access at the core that owns its words: `a` the local address, `b` the operand (for a bit field, its position), `data` the stored or compared value. None where a synchronising access's condition fails, and then nothing changes (R145, R149). -/
def Core.access (c : Core) (i : Instr) (a : Nat) (b : DWord) (data idx : Vec) : Option (Core × Val) :=
  let dat : DWord := data.setWidth 64
  match i with
  | .ld8 _ _ _ => some (c, .word (c.loadExt a 1 true))
  | .ld8z _ _ _ => some (c, .word (c.loadExt a 1 false))
  | .ld16 _ _ _ => some (c, .word (c.loadExt a 2 true))
  | .ld16z _ _ _ => some (c, .word (c.loadExt a 2 false))
  | .ld32 _ _ _ => some (c, .word (c.loadExt a 4 true))
  | .ld32z _ _ _ => some (c, .word (c.loadExt a 4 false))
  | .ld64 _ _ _ => some (c, .word (c.word a))
  | .ldv _ _ _ => some (c, .vec (BitVec.ofNat 256 (memRead c.ls a 32)))
  | .st8 _ _ _ => some (c.storeBytes a 1 dat.toNat, .word 0)
  | .st16 _ _ _ => some (c.storeBytes a 2 dat.toNat, .word 0)
  | .st32 _ _ _ => some (c.storeBytes a 4 dat.toNat, .word 0)
  | .st64 _ _ _ => some (c.storeBytes a 8 dat.toNat, .word 0)
  | .stv _ _ _ => some (c.storeBytes a 32 data.toNat, .word 0)
  | .ldbit _ _ _ sx wm1 =>
    let f := ((c.pairAt a >>> (b.toNat % 64)).setWidth 64) &&& lowMask (wm1.toNat + 1)
    some (c, .word (if sx then signField f (wm1.toNat + 1) else f))
  | .stbit _ _ _ wm1 => some (c.storeField a (b.toNat % 64) (wm1.toNat + 1) dat, .word 0)
  | .ldf _ _ _ => if c.full a then some ((c.setFull a false).touch a, .word (c.word a)) else none
  | .ldff _ _ _ => if c.full a then some (c, .word (c.word a)) else none
  | .ste _ _ _ => if c.full a then none else some ((c.storeBytes a 8 dat.toNat).setFull a true, .word 0)
  | .stf _ _ _ => some ((c.storeBytes a 8 dat.toNat).setFull a true, .word 0)
  | .sigw _ _ _ k => if condHolds k (c.word a) b then some (c, .word (c.word a)) else none
  | .swait _ _ _ k => if condHolds k (c.word a) b then some (c, .word (c.word a)) else none
  | .ldgv _ _ _ sz sh =>
    let w := 8 * (gatherShape sz).1
    some (c, .vec (lanes w fun j => memRead c.ls (laddrOf (gatherAddr sz sh (BitVec.ofNat 64 a) idx j)) (w / 8)))
  | .stsv _ _ _ sz sh =>
    let w := 8 * (gatherShape sz).1
    some ((upTo (256 / w)).foldl (fun c j =>
      c.storeBytes (laddrOf (gatherAddr sz sh (BitVec.ofNat 64 a) idx j)) (w / 8) (laneOf w data j)) c, .word 0)
  | _ =>
    let r := c.atomic i a b dat
    some (r.1, .word r.2)

/-! ## Operands and checks (R129, R130, R142 to R144) -/

/-- The operands of an L operation, read at issue: address, operand, data, indices. -/
structure LOperands where
  a : DWord
  b : DWord
  data : Vec
  idx : Vec
  deriving DecidableEq, Repr
/-- The word and bit position of LDBIT and STBIT (R142). -/
def bitWord (a b : DWord) : DWord × DWord :=
  let t : BitVec 22 := (a.extractLsb' 0 19).setWidth 22 * 8 + b.setWidth 22
  (a.extractLsb' 19 45 ++ (t.extractLsb' 6 16 ++ (0 : BitVec 3)), (t.extractLsb' 0 6).setWidth 64)
/-- The operands that an L operation reads (R129, R140 to R150). -/
def State.lOperands (s : State) (i : Instr) : LOperands :=
  let st (d : SReg) : Vec := (s.rx d).setWidth 256
  match i with
  | .ld8 _ a m | .ld8z _ a m | .ld16 _ a m | .ld16z _ a m | .ld32 _ a m | .ld32z _ a m | .ld64 _ a m | .ldf _ a m
  | .ldff _ a m => ⟨effImm (s.rx a) m, 0, 0, 0⟩
  | .ldv _ a m => ⟨effImm (s.rx a) m, 0, 0, 0⟩
  | .st8 d a m | .st16 d a m | .st32 d a m | .st64 d a m | .ste d a m | .stf d a m => ⟨effImm (s.rx a) m, 0, st d, 0⟩
  | .stv d a m => ⟨effImm (s.rx a) m, 0, s.rv d, 0⟩
  | .ldbit _ a b _ _ => let (w, p) := bitWord (s.rx a) (s.rx b); ⟨w, p, 0, 0⟩
  | .stbit d a b _ => let (w, p) := bitWord (s.rx a) (s.rx b); ⟨w, p, st d, 0⟩
  | .acas d a b _ => ⟨s.rx a, s.rx b, st d, 0⟩
  | .aswp _ a b _ | .aadd _ a b _ | .afadd _ a b _ => ⟨s.rx a, s.rx b, 0, 0⟩
  | .alog _ _ a b _ => ⟨s.rx a, s.rx b, 0, 0⟩
  | .aminmax _ a b _ _ _ => ⟨s.rx a, s.rx b, 0, 0⟩
  | .sigw _ a b _ => ⟨s.rx a, s.rx b, 0, 0⟩
  | .ldgv _ a b _ _ => ⟨s.rx a, 0, 0, s.rv b⟩
  | .stsv d a b _ _ => ⟨s.rx a, 0, s.rv d, s.rv b⟩
  | _ => ⟨0, 0, 0, 0⟩
/-- The address of a gather or scatter lane in conflict (R144): the first in ascending order of the higher lane. -/
def gatherConflict (addr : Nat → DWord) (n : Nat) : Option (Nat × Nat) :=
  let clash (i j : Nat) : Bool :=
    let x := laddrOf (addr i); let y := laddrOf (addr j)
    x / 8 != y / 8 && bankOf x == bankOf y
  firstOf (fun p => clash p.1 p.2) ((upTo n).map fun j => (upTo j).map fun i => (i, j)).flatten
/-- R130 and R144 over the lanes of a gather. -/
def State.checkLanes (s : State) (addr : Nat → DWord) (size n : Nat) : Option Trap :=
  (upTo n).foldr (fun j rest => s.checkAddr (addr j) size true rest)
    (match gatherConflict addr n with
     | some (i, j) => some ⟨13, 0x09, BitVec.ofNat 4 j ++ BitVec.ofNat 4 i ++ (0 : BitVec 37) ++ (addr j).extractLsb' 0 19⟩
     | none => none)
/-- A word with an uncorrectable error that an access reads (R33, R328). -/
def Core.poisonHit (c : Core) (i : Instr) (a : Nat) (b : DWord) (idx : Vec) : Option Nat :=
  if replacesWords i then none else firstOf (· ∈ c.poison) (wordsOf (accessPieces i a b idx))
/-- The checks of an L operation at step 13 (R130, R328); a relaxed one meets a bad word when it is performed. -/
def State.lCheck (s : State) (i : Instr) : Option Trap :=
  let o := s.lOperands i
  let t := match i with
    | .ldbit _ _ _ _ _ | .stbit _ _ _ _ =>
      s.checkAddr o.a 8 false (if straddles i o.b then s.checkAddr (effNat o.a 8) 8 false none else none)
    | .ldgv _ _ _ sz sh | .stsv _ _ _ sz sh =>
      s.checkLanes (gatherAddr sz sh o.a o.idx) (gatherShape sz).1 (gatherShape sz).2.1
    -- Every word of a vector lies in a bank of its own (R31, R141).
    | .ldv _ _ _ | .stv _ _ _ =>
      s.checkAddr o.a 32 false ((upFrom 1 3).foldr (fun k rest => s.checkAddr (effNat o.a (8 * k)) 8 false rest) none)
    | _ => s.checkAddr o.a (accessSize i) false none
  match t with
  | some t => some t
  | none =>
    if isRemote o.a || hdrRx s.frame.hdr then none else
    match s.here.poisonHit i (laddrOf o.a) o.b o.idx with
    | some w => some ⟨13, 0x1D, BitVec.ofNat 64 w⟩
    | none => none

/-! ## Paths of an access -/

/-- A value written to the operation's destinations with latency `lat`. -/
def State.result (s : State) (i : Instr) (v : Val) (lat : Nat) : State :=
  (Instr.destsOf i s.frame.ctx).foldl (fun s d => s.write d v lat) s
/-- The operation's destinations are owed by the access of a name. -/
def State.oweAll (s : State) (i : Instr) (id : Nat) : State :=
  (Instr.destsOf i s.frame.ctx).foldl (fun s d => s.owe d id) s
/-- The launch that a context's packets name. -/
def Core.launchId (c : Core) (n : Nat) : Option Nat := (c.launchOf n).map (·.id.toNat)
/-- An access writes its words (R299): a store, an atomic other than a failed ACAS. -/
def Core.writesAt (c : Core) (i : Instr) (a : Nat) (data : Vec) : Bool := isStore i && !c.acasFails i a (data.setWidth 64)
/-- An access performed at its own core by a context, its banks used (R131), and its words' writer noted. -/
def Core.ownAccess (c : Core) (p n : Nat) (i : Instr) (o : LOperands) : Option (Core × Val) :=
  let ws := wordsOf (accessPieces i (laddrOf o.a) o.b o.idx)
  let c' := { c with used := c.used ++ ws.map bankOf }
  match c'.access i (laddrOf o.a) o.b o.data o.idx with
  | some (d, v) => some (if c.writesAt i (laddrOf o.a) o.data then d.noteWriter ws p n else d, v)
  | none => none
/-- A request for the target of a remote address. -/
def State.sendAccess (s : State) (p n : Nat) (i : Instr) (o : LOperands) : Nat × State :=
  let c := s.core p
  s.send p n ((c.target n o.a).getD p) (laddrOf o.a) (.access i o.b o.data) 0 (c.launchId n)
/-- A non-relaxed remote access (R134): the context parks. -/
def State.remoteAccess (s : State) (i : Instr) (o : LOperands) : State :=
  let (id, t) := s.sendAccess s.frame.core s.frame.ctx i o
  (t.oweAll i id).parkAs .eddy i o.a o.b (o.data.setWidth 64) id
/-- What keeps a local access from being performed when its turn has come after its issue: a bank that its launch has released meanwhile (R31, R239), or an uncorrectable error (R328), with the cause and TVAL of the trap. -/
def Core.stopsAt (c : Core) (n : Nat) (i : Instr) (a : Nat) (b : DWord) (idx : Vec) : Option (Nat × DWord) :=
  match c.lostBank n (accessPieces i a b idx) with
  | some w => some (0x06, BitVec.ofNat 64 w)
  | none => (c.poisonHit i a b idx).map fun w => (0x1D, BitVec.ofNat 64 w)
/-- A relaxed remote access is outstanding (R135): sent, or held back behind one that it overlaps, and not performed. -/
def Relaxed.out (r : Relaxed) : Bool := r.remote && (r.sent || r.held) && !r.performed
/-- Relaxed remote accesses that are outstanding (R135). -/
def Ctx.outstanding (x : Ctx) : Nat := (x.relaxed.filter Relaxed.out).length
/-- The core whose store a relaxed access acts on (R32). -/
def Core.ownerOf (c : Core) (p n : Nat) (r : Relaxed) : Nat := if r.remote then (c.target n r.a).getD p else p
/-- The byte ranges of a relaxed access. -/
def Relaxed.pieces (r : Relaxed) : List (Nat × Nat) := accessPieces r.op (laddrOf r.a) r.b r.idx
/-- Two relaxed accesses of context n overlap in a byte (R137, R293). -/
def Core.relaxedOverlap (c : Core) (p n : Nat) (r q : Relaxed) : Bool :=
  c.ownerOf p n r == c.ownerOf p n q &&
  r.pieces.any fun a => q.pieces.any fun b => decide (a.1 < b.1 + b.2 && b.1 < a.1 + a.2)
/-- No earlier relaxed access of the context that overlaps it is still to be performed (R137, R293). -/
def Core.relaxedFirst (c : Core) (p n : Nat) (r : Relaxed) : Bool :=
  !((c.ctx n).relaxed.any fun q => !q.performed && decide (q.id < r.id) && c.relaxedOverlap p n q r)
/-- A relaxed remote access of context n may not be sent yet: an earlier one of the list that overlaps it is still to be performed, and is a local one, or was sent by another core (R137, R293, R303). Requests of one core for one word are performed in their order. -/
def Core.relaxedHeld (c : Core) (p n : Nat) (l : List Relaxed) (r : Relaxed) : Bool :=
  l.any fun q => !q.performed && decide (q.id < r.id) && (!q.remote || q.from_ != p) && c.relaxedOverlap p n q r
/-- A relaxed local access is performed at its bank; its value waits for the covering WAITM or FENCE (R137). One that meets an uncorrectable error, or a bank that its launch has released, has no effect, and its context traps at its next issue turn (R239, R328). -/
def Core.performRelaxed (c : Core) (now p n : Nat) (r : Relaxed) : Core :=
  let done_ (d : Core) : Core := d.onCtx n fun x =>
    { x with relaxed := x.relaxed.map fun q => if q.id = r.id then { q with performed := true } else q }
  match c.stopsAt n r.op (laddrOf r.a) r.b r.idx with
  | some (e, v) => (done_ (c.forgo r.id)).onCtx n fun x => x.addLate ⟨.first r.slot r.addr, causeOf e, v, min now r.issue⟩
  | none =>
    match c.ownAccess p n r.op ⟨r.a, r.b, r.data, r.idx⟩ with
    | some (d, v) => done_ (d.fill r.id v)
    | none => c
/-- The banks of a relaxed access. -/
def Relaxed.banks (r : Relaxed) : List Nat := (wordsOf r.pieces).map bankOf
/-- Relaxed local accesses of a context that a test selects are performed, in issue order, if none that overlaps and came earlier is left (R137) and their banks are free in this cycle (R131). -/
def Core.performSome (c : Core) (now p n : Nat) (f : Relaxed → Bool) : Core :=
  ((c.ctx n).relaxed.filter fun r => !r.remote && !r.performed && f r).foldl
    (fun c r => if c.relaxedFirst p n r && !(r.banks.any fun b => b ∈ c.used) then c.performRelaxed now p n r else c) c
/-- A relaxed access (R135, R137): a local one will be performed at some cycle before the next WAITM or FENCE. Relaxed local accesses that the context has still to perform use different banks, so that each cycle performs at most one access at a bank (R131): an earlier one of a shared bank, or one that overlaps a remote one to the own core, is performed now. A remote one that overlaps one still to be performed is sent later. -/
def State.relaxedAccess (s : State) (i : Instr) (o : LOperands) : State :=
  let p := s.frame.core
  let n := s.frame.ctx
  let remote := isRemote o.a
  let ready := !remote || decide (s.cur.outstanding < 8)
  let due := s.now + 1 + Config.freeNat (s.free * 65536 + 9000 + s.frame.slot)
  let r (id : Nat) : Relaxed :=
    ⟨id, i, s.frame.slot, s.frame.addr, o.a, o.b, o.data, o.idx, remote, ready, false, p, false, none, s.now, due⟩
  let now (q : Relaxed) : Bool :=
    if remote then s.here.relaxedOverlap p n q (r 0) else q.banks.any fun b => (r 0).banks.contains b
  let s := s.onHere fun c => c.performSome s.now p n now
  let held := remote && ready && s.here.relaxedHeld p n s.cur.relaxed (r s.ids)
  let (id, t) := if remote && ready && !held then s.sendAccess p n i o else s.newId
  let u := (t.oweAll i id).onCur fun x => { x with relaxed := x.relaxed ++ [{ r id with sent := ready && !held, held := held }] }
  if ready then u else u.parkAs .relaxedFull i o.a o.b 0 id
/-- A local atomic waits for the last cycle of its core turn (R132). -/
def State.turnOp (s : State) (i : Instr) (a b c : DWord) : State :=
  let (id, t) := s.newId
  let x (r : SReg) := s.rx r
  let op : TurnOp := ⟨s.frame.ctx, s.frame.slot, i, s.frame.words, a, b, c, x 4, x 5, x 6, x 7, s.frame.addr, s.now, id⟩
  (t.oweAll i id).onHere fun c => { c with turnOps := c.turnOps ++ [op] }
/-- An L operation's effect, by its path (R132, R134, R137, R146). -/
def State.lPerform (s : State) (i : Instr) : State :=
  let o := s.lOperands i
  if hdrRx s.frame.hdr then s.relaxedAccess i o
  else if isRemote o.a then s.remoteAccess i o
  else if isAtomic i then s.turnOp i o.a o.b (o.data.setWidth 64)
  else
    match s.here.ownAccess s.frame.core s.frame.ctx i o with
    | some (c, v) => (s.onHere fun _ => c).result i v 1
    | none =>
      let (id, t) := s.newId
      (t.oweAll i id).parkAs .retry i o.a o.b (o.data.setWidth 64) id
/-- The shape of an L operation's meaning. -/
def lOp (i : Instr) : State → Out := operation i (fun s => s.lCheck i) (fun s => s.lPerform i)

/-- LD8 (R140). -/
def execLd8 (d a : SReg) (m : BitVec 14) (s : State) : Out := lOp (.ld8 d a m) s
/-- LD8Z (R140). -/
def execLd8z (d a : SReg) (m : BitVec 14) (s : State) : Out := lOp (.ld8z d a m) s
/-- LD16 (R140). -/
def execLd16 (d a : SReg) (m : BitVec 14) (s : State) : Out := lOp (.ld16 d a m) s
/-- LD16Z (R140). -/
def execLd16z (d a : SReg) (m : BitVec 14) (s : State) : Out := lOp (.ld16z d a m) s
/-- LD32 (R140). -/
def execLd32 (d a : SReg) (m : BitVec 14) (s : State) : Out := lOp (.ld32 d a m) s
/-- LD32Z (R140). -/
def execLd32z (d a : SReg) (m : BitVec 14) (s : State) : Out := lOp (.ld32z d a m) s
/-- LD64 (R140). -/
def execLd64 (d a : SReg) (m : BitVec 14) (s : State) : Out := lOp (.ld64 d a m) s
/-- ST8 (R140). -/
def execSt8 (d a : SReg) (m : BitVec 14) (s : State) : Out := lOp (.st8 d a m) s
/-- ST16 (R140). -/
def execSt16 (d a : SReg) (m : BitVec 14) (s : State) : Out := lOp (.st16 d a m) s
/-- ST32 (R140). -/
def execSt32 (d a : SReg) (m : BitVec 14) (s : State) : Out := lOp (.st32 d a m) s
/-- ST64 (R140). -/
def execSt64 (d a : SReg) (m : BitVec 14) (s : State) : Out := lOp (.st64 d a m) s
/-- LDV (R141). -/
def execLdv (d : VReg) (a : SReg) (m : BitVec 14) (s : State) : Out := lOp (.ldv d a m) s
/-- STV (R141). -/
def execStv (d : VReg) (a : SReg) (m : BitVec 14) (s : State) : Out := lOp (.stv d a m) s
/-- LDBIT (R142). -/
def execLdbit (d a b : SReg) (sx : Bool) (wm1 : BitVec 6) (s : State) : Out := lOp (.ldbit d a b sx wm1) s
/-- STBIT (R142). -/
def execStbit (d a b : SReg) (wm1 : BitVec 6) (s : State) : Out := lOp (.stbit d a b wm1) s
/-- LDF (R145, R146). -/
def execLdf (d a : SReg) (m : BitVec 14) (s : State) : Out := lOp (.ldf d a m) s
/-- LDFF (R145, R146). -/
def execLdff (d a : SReg) (m : BitVec 14) (s : State) : Out := lOp (.ldff d a m) s
/-- STE (R145, R146). -/
def execSte (d a : SReg) (m : BitVec 14) (s : State) : Out := lOp (.ste d a m) s
/-- STF (R145). -/
def execStf (d a : SReg) (m : BitVec 14) (s : State) : Out := lOp (.stf d a m) s
/-- ASWP (R150, R151). -/
def execAswp (d a b : SReg) (w : Bool) (s : State) : Out := lOp (.aswp d a b w) s
/-- ACAS (R150, R151). -/
def execAcas (d a b : SReg) (w : Bool) (s : State) : Out := lOp (.acas d a b w) s
/-- AADD (R150, R151). -/
def execAadd (d a b : SReg) (w : Bool) (s : State) : Out := lOp (.aadd d a b w) s
/-- ALOG (R150, R151). -/
def execAlog (op : LogOp) (d a b : SReg) (w : Bool) (s : State) : Out := lOp (.alog op d a b w) s
/-- AMINMAX (R150, R151). -/
def execAminmax (d a b : SReg) (max u w : Bool) (s : State) : Out := lOp (.aminmax d a b max u w) s
/-- AFADD (R96, R150, R151). -/
def execAfadd (d a b : SReg) (bf16 : Bool) (s : State) : Out := lOp (.afadd d a b bf16) s
/-- LDGV (R143, R144). -/
def execLdgv (d : VReg) (a : SReg) (b : VReg) (sz : GatherSize) (sh : BitVec 3) (s : State) : Out := lOp (.ldgv d a b sz sh) s
/-- STSV (R143, R144). -/
def execStsv (d : VReg) (a : SReg) (b : VReg) (sz : GatherSize) (sh : BitVec 3) (s : State) : Out := lOp (.stsv d a b sz sh) s
/-- SIGW (R149). -/
def execSigw (d a b : SReg) (c : Cond) (s : State) : Out := lOp (.sigw d a b c) s

/-- The words of FEBIT (R148). -/
def febitWord (a : DWord) (k : Nat) : DWord := effNat a (8 * k)
/-- FEBIT (R148). Model's choice (log 65): with b = 0 no word is named, and the address is not checked. -/
def execFebit (a b : SReg) (full : Bool) (s : State) : Out :=
  operation (.febit a b full) (fun s =>
    let n := (s.rx b).toNat
    let chk := (upTo (min n 256)).foldr (fun k rest => s.checkAddr (febitWord (s.rx a) k) 8 true rest) none
    match chk with
    | some t => some t
    | none => Trap.orIf (decide (256 < n)) ⟨13, 0x06, febitWord (s.rx a) 256⟩ none)
    (fun s => s.onHere fun c => (upTo (s.rx b).toNat).foldl (fun c k =>
      let w := laddrOf (febitWord (s.rx a) k)
      { (c.setFull w full).touch w with used := c.used ++ [bankOf w] }) c) s

/-! ## Relaxed accesses, WAITM and FENCE (R136 to R139) -/

/-- Every relaxed local access of a context is performed, in issue order (R137). One that overlaps an earlier remote one to the own core still waits for it (R137, R293; log 64), and is due from now on. -/
def Core.performAllRelaxed (c : Core) (now p n : Nat) : Core :=
  (c.performSome now p n fun _ => true).onCtx n fun x => { x with relaxed := x.relaxed.map fun r => { r with due := min r.due now } }
/-- A relaxed local access may be performed now: its time has come, no earlier one that overlaps it waits, and its banks are free (R131, R137). -/
def Core.relaxedReady (c : Core) (now p n : Nat) (r : Relaxed) : Bool :=
  !r.remote && !r.performed && decide (r.due ≤ now) && c.relaxedFirst p n r && !(r.banks.any fun b => b ∈ c.used)
/-- RELAXED_ACCESS_PERFORM (R137). -/
def execRelaxedAccessPerform (core ctx id : Nat) (s : State) : Out :=
  event (fun s =>
    match firstOf (fun r => r.id == id) (s.ctx core ctx).relaxed with
    | some r => if (s.core core).relaxedReady s.now core ctx r then s.onCore core fun c => c.performRelaxed s.now core ctx r else s
    | none => s) s
/-- A WAITM or FENCE retires, or gives the trap of a refused access in its place (R136): every relaxed destination is readable after cycle `due`. -/
def Core.retireRelaxed (c : Core) (n due : Nat) : Core × Option (DWord × DWord) :=
  let rs := (c.ctx n).relaxed
  let c' := rs.foldl (fun (c : Core) r =>
    if r.refused.isSome then c.forgo r.id
    else { c with writes := c.writes.map fun w => if w.id = r.id && w.due.isNone then { w with due := some due } else w }) c
  (c'.onCtx n fun x => { x with relaxed := [] },
    match firstOf (fun r => r.refused.isSome) rs with
    | some r => some (causeWord 0x08 true 0 0 0, r.a)
    | none => none)
/-- The copies of a context whose tags are set and of which words are in a staging store: what a FENCE.pkg or FENCE.sys that issues now waits for (R139, R294). -/
def State.stagedNow (s : State) (p n : Nat) : List Nat :=
  ((s.quays.map fun q => (q.2.staging.map fun w => (w.by_.filter fun o =>
    s.home o.2.2.1 o.2.2.2 == (p, n) && !(s.copies.any fun k => k.id == o.1)).map (·.1)).flatten).flatten).eraseDups
/-- Words of some copies are still in a staging store. -/
def State.stagedOf (s : State) (copies : List Nat) : Bool :=
  s.quays.any fun q => q.2.staging.any fun w => w.by_.any fun o => o.1 ∈ copies
/-- A WAITM or FENCE has nothing left to wait for (R138, R139): `counts` names the copies that it counts. -/
def State.fenceClear (s : State) (p n : Nat) (i : Instr) (counts : List Nat) : Bool :=
  !((s.ctx p n).relaxed.any fun r => !r.performed) &&
  (match i with
   | .fence .pkg | .fence .sys => !s.stagedOf counts
   | _ => true)
/-- The relaxed accesses of a context of Emonef code are performed and retired without a WAITM of the program, so that its next bundle sees them; a refused one traps there (R136, R418; log 27). -/
def State.settleRelaxed (s : State) (p n : Nat) : State :=
  let s1 := s.onCore p fun c => c.performAllRelaxed s.now p n
  let l := (s1.ctx p n).relaxed
  if l.any fun r => !r.performed then s1 else
  let s2 := s1.onCore p fun c => (c.retireRelaxed n (s.now / 16 * 16 + 15)).1
  match firstOf (fun r => r.refused.isSome) l with
  | some r => s2.onCtx p n fun x => x.addLate ⟨.first r.slot r.addr, causeWord 0x08 true 0 0 0, r.a, s.now⟩
  | none => s2
/-- WAITM and FENCE (R137 to R139): local relaxed accesses are performed; the operation retires at once, or parks. -/
def State.doFence (s : State) (i : Instr) : State :=
  let p := s.frame.core
  let n := s.frame.ctx
  let counts := s.stagedNow p n
  let s1 := s.onHere fun c => c.performAllRelaxed s.now p n
  if s1.fenceClear p n i counts then
    let (c, t) := s1.here.retireRelaxed n (s.now + 15)
    let s2 := s1.onHere fun _ => c
    match t with
    | none => s2
    | some (cause, tval) =>
      s2.parkWith .fence i 0 0 0 s.ids (.trapped cause tval) []
  else s1.parkWith .fence i 0 0 0 s.ids .waiting counts
/-- WAITM (R138). -/
def execWaitm (s : State) : Out := operation .waitm noCheck (fun s => { s.doFence .waitm with ids := s.ids + 1 }) s
/-- FENCE (R139). -/
def execFence (sc : Scope) (s : State) : Out :=
  operation (.fence sc) noCheck (fun s => { s.doFence (.fence sc) with ids := s.ids + 1 }) s

/-! ## Retries and limits (R146, R147) -/

/-- LOCAL_RETRY (R146): a parked local synchronising access is tried again in the context's issue cycle. One that meets an uncorrectable error, or a bank that its launch has released, traps (R239, R328). -/
def execLocalRetry (core ctx : Nat) (s : State) : Out :=
  event (fun s =>
    let x := s.ctx core ctx
    if x.st ≠ .park then s else
    x.parks.foldl (fun s k =>
      let pop : Bool := match k.op with | .rpop _ _ _ _ => true | _ => false
      -- An RPOP is tried again in the last cycle of the core turn (R233).
      if k.kind == .retry && k.ended == .waiting && !pop then
        match (s.core core).stopsAt ctx k.op (laddrOf k.a) k.b 0 with
        | some (e, v) => s.trapWait core ctx k.id (causeOf e) v
        | none =>
          match (s.core core).ownAccess core ctx k.op ⟨k.a, k.b, k.c.setWidth 256, 0⟩ with
          | some (c, v) => (s.setCore core c).endWait core ctx k.id (some v)
          | none => s
      else s) s) s
/-- The cause and TVAL of a wait at the CHECK.FELIM limit; none for a wait that the limit does not end (R146, R147, R149, R230, R231, R236, R239). -/
def felimTrap (k : Park) : Option (Nat × DWord) :=
  match k.op with
  | .ldf _ _ _ | .ldff _ _ _ | .ste _ _ _ | .sigw _ _ _ _ | .ercv _ _ _ => some (0x0C, k.a)
  | .swait _ _ _ _ => some (0x1F, k.a)
  | .barw _ bar | .bara _ bar true => some (0x0C, BitVec.ofNat 64 (2 ^ 62 + bar.toNat))
  | .bankw _ => some (0x0C, BitVec.ofNat 64 (2 ^ 63 + k.a.toNat % 65536))
  | _ => none
/-- Where a wait's request has gone. -/
def State.waitTarget (s : State) (p n : Nat) (k : Park) : Nat :=
  match k.op with
  | .barw _ _ | .bara _ _ _ =>
    match firstOf (fun b => b.2.waiters.any fun w => w.1.id == k.id) s.barriers with
    | some b => shoreUnit (b.1 / 32)
    | none => shoreUnit (shoreKey p)
  | _ => ((s.core p).target n k.a).getD p
/-- A wait given up at its limit: one at the core itself ends with its trap; a remote one sends a cancel, or is withdrawn where its request waits to be sent again (R146, R147). -/
def State.giveUp (s : State) (p n : Nat) (k : Park) (cause : Nat) (tval : DWord) : State :=
  if k.kind != .eddy then s.trapWait p n k.id (causeOf cause) tval
  else if (match s.packet k.id with | some q => q.resend.isSome || q.back | none => false) then
    (s.dropPacket k.id).trapWait p n k.id (causeOf cause) tval
  else
    let (_, t) := s.send p n (s.waitTarget p n k) (laddrOf k.a) (.cancel k.id) 0 ((s.core p).launchId n)
    t.onCtx p n fun x => x.onPark k.id fun k => { k with cancelled := true }
/-- FELIM_EXPIRY (R146, R147): at the end of the limit's last PARK turn. -/
def execFelimExpiry (core ctx : Nat) (s : State) : Out :=
  event (fun s =>
    let x := s.ctx core ctx
    if x.st ≠ .park || x.felim = 0 then s else
    x.parks.foldl (fun s k =>
      match felimTrap k with
      | some (cause, tval) =>
        if k.ended == .waiting && !k.cancelled && decide (x.felim ≤ k.turns) then s.giveUp core ctx k cause tval else s
      | none => s) s) s

/-! ## The owner's side (R132, R136, R147) -/

/-- The banks that the launch of a packet owns at a core; none where the core has left its reach (R136). -/
def Core.banksFor (c : Core) (launch : Option Nat) : Option Half :=
  match launch with
  | some l => (firstOf (fun k => k.id.toNat == l) c.launches).map (·.own)
  | none => none
/-- The banks that admit an access of a launch from core `src` at core `dst`: those of the launch there, or, at the armed target of a migration, those that the arming core owns (R136, R444). -/
def State.banksAt (s : State) (dst src : Nat) (launch : Option Nat) : Option Half :=
  match (s.core dst).banksFor launch with
  | some o => some o
  | none => if (s.core src).armed = some dst then (s.core src).banksFor launch else none
/-- The first word of a remote access that holds an uncorrectable error at its owner (R136). -/
def State.badWord (s : State) (k : Packet) (i : Instr) (b : DWord) : Option Nat :=
  firstOf (· ∈ (s.core k.dst).poison) (wordsOf (accessPieces i k.laddr b 0))
/-- A remote access that its owner refuses (R136). -/
def State.refuses (s : State) (k : Packet) (i : Instr) (b : DWord) : Bool :=
  match s.banksAt k.dst k.src k.launch with
  | none => true
  | some own =>
    (wordsOf (accessPieces i k.laddr b 0)).any (fun w => !own.getLsbD (bankOf w)) || (s.badWord k i b).isSome
/-- A value as a reply. -/
def replyOf : Val → Reply
  | .word v => .value v
  | .vec v => .vec v
  | .bit b => .value ((BitVec.ofBool b).setWidth 64)
/-- A remote access performed at its owner: its effect, the trace of a race, the log, and the response (R134, R299, R335). -/
def State.performRemote (s : State) (k : Packet) (i : Instr) (c : Core) (v : Val) (b : DWord) : State :=
  let ws := wordsOf (accessPieces i k.laddr b 0)
  let u := s.setCore k.dst c
  let data : Vec := match k.body with | .access _ _ d => d | _ => 0
  let t := (if (s.core k.dst).writesAt i k.laddr data then u.noteRemote k.dst ws k.src k.sctx else u).logReceive k.dst 0x01 0 k.src k.sctx v.word! k.laddr (accessSize i) [] (some (.packet k.body))
  t.answer k (replyOf v)
/-- The lowest free watch slot of 32 (R147). -/
def Core.freeWatch (c : Core) : Option Nat := firstOf (fun n => !(c.watches.any fun w => w.slot == n)) (upTo 32)
/-- M-mode is told of an error (R33, R328, R359, R373, R380): the notice of kind and value, and bit 3 of gqirq. -/
def State.noticeM (s : State) (kind : Nat) (v : DWord) : State :=
  { s with hub := { (s.hub.raise 8 0) with mNotices := s.hub.mNotices ++ [(kind, v)] } }
/-- A word of core p with an uncorrectable error is reported to M-mode, by the core and the word's address (R33, R136, R328). -/
def State.reportWord (s : State) (p a : Nat) : State := s.noticeM 5 (BitVec.ofNat 64 (a + 2 ^ 32 * p))
/-- A remote access is refused (R136), a bad word being reported. -/
def State.refuseAccess (s : State) (k : Packet) (i : Instr) (b : DWord) : State :=
  let t := match s.badWord k i b with
    | some w => s.reportWord k.dst w
    | none => s
  t.answer k (.refused 0x08)
/-- An access granted port A at its owner (R134, R136, R147). -/
def State.grantAccess (s : State) (k : Packet) (i : Instr) (b : DWord) (data : Vec) : State :=
  let c := s.core k.dst
  if s.refuses k i b then s.refuseAccess k i b else
    match c.access i k.laddr b data 0 with
    | some (d, v) => s.performRemote k i d v b
    | none =>
      match c.freeWatch with
      | none => s.refuseForNow k
      | some n =>
        (s.dropPacket k.id).onCore k.dst fun c => { c with watches := c.watches ++ [⟨n, k, 0⟩] }

end Sys2Proof.Machine
end

