-- ==== Sys2Proof/Machine/Commands.lean ====
section
/-! DEFINITION. What matrix and engine commands share: their records, the hazard table and FOOT regions (spec/09_engines_tags_and_channels.md R225, R226), starts (spec/02_bundles_and_opcode_map.md R51), and regions of the local store (R201, R221). -/
namespace Sys2Proof.Machine

/-- The start of an M or N command; operations without one start when accepted (R51). -/
def Instr.start : Instr → Start
  | .mma _ _ st | .mmas _ _ st | .mmaz _ _ st | .mclr _ st | .mrdv _ _ _ st | .mscl _ _ _ st | .mtrn _ st => st
  | .mrd _ _ _ _ _ _ st | .mwr _ _ _ _ _ _ st | .mseq _ _ _ _ st => st
  | .cpyi _ _ _ _ e | .cpyo _ _ _ _ e | .cpyl _ _ _ e | .sdldCell _ _ _ e | .sdldCoup _ _ e | .sdldBridge _ _ e
  | .sdldClear e | .sdclpClamp _ _ _ e | .sdclpRelease _ _ _ e | .sdclpSet _ _ _ e | .sdswp _ _ _ _ e | .sdrd _ _ _ _ e
  | .sdcnt _ _ _ _ e | .sdseed _ e | .sdseedStore _ e | .sdtbl _ e | .sdbeta _ _ e | .sigs _ _ _ e | .codel _ _ e
  | .lsnd _ _ e | .lrcv _ _ e | .lred _ _ e | .hnfy _ _ e | .movc _ _ _ e | .tide _ e => e.start
  | .tsnd _ _ st | .trcv _ _ _ st | .esnd _ _ _ _ _ _ st => st
  | _ => ⟨false, 0⟩
/-- A tide-locked start (R51). -/
def Cmd.timed (k : Cmd) : Bool := (Instr.start k.op).f
/-- The device cycle of a tide-locked command's start, as its context's displacement stands (R51, R305). -/
def Core.startOf (c : Core) (k : Cmd) : Nat := (c.ctx k.ctx).startCycle (Instr.start k.op)
/-- The check of R51: the OFFSET must lie in a later turn. -/
def State.passedCheck (s : State) (st : Start) (rest : Option Trap) : Option Trap :=
  Trap.orIf (s.offsetPassed st) ⟨13, 0x0A, st.off.setWidth 64⟩ rest

/-! ## Regions -/

/-- The first byte of a local region that breaks R30 or R31 for context n: bits [62:19] of its address are not zero, or it leaves the store, the context's own stack slice, or banks that `own` names (none: banks are not checked). -/
def Core.regionFault (n : Nat) (own : Option Half) (a : DWord) (len : Nat) : Option DWord :=
  if a.extractLsb' 19 44 ≠ 0 then some a else
  let lo := laddrOf a
  let bad (b : Nat) : Bool :=
    if b < 0x70000 then (match own with | some o => !o.getLsbD (bankOf b) | none => false)
    else 0x80000 ≤ b || (n ≠ 0 && !(0x78000 + 0x600 * n ≤ b && b < 0x78000 + 0x600 * (n + 1)))
  let ws := lo :: ((upFrom (lo / 8 + 1) ((lo + len - 1) / 8 - lo / 8)).map (8 * ·))
  (firstOf bad ws).map fun b => a - BitVec.ofNat 64 lo + BitVec.ofNat 64 b
/-- Two regions overlap and one of them is written (R225). -/
def Region.conflicts (r q : Region) : Bool :=
  (r.wr || q.wr) && decide (r.lo < q.lo + q.len) && decide (q.lo < r.lo + r.len)

/-! ## The hazard table (R225, R226) -/

/-- A command's regions have entered the table. -/
def Core.entered (c : Core) (k : Cmd) : Bool := k.foot.isEmpty || c.hazards.any (·.cmd == k.id)
/-- Entries in use: live regions, and the reservations of FOOT, those that waiting commands have taken over included (R226). -/
def Core.hazardsUsed (c : Core) : Nat :=
  c.hazards.length + total (c.ctxs.map fun kx => kx.2.foot.length) +
    total (((c.mwait ++ c.ewait).filter fun k => !c.entered k).map (·.reserved))
/-- Room for `n` more entries. -/
def Core.hazardRoom (c : Core) (n : Nat) : Bool := decide (c.hazardsUsed + n ≤ 32)
/-- Room for a command that waits: its FOOT regions have their entries reserved. -/
def Core.roomFor (c : Core) (k : Cmd) : Bool := c.hazardRoom (k.foot.length - k.reserved)
/-- The local regions whose banks a command needs at its start: those of the hazard table, and what an ESND reads (R216, R221, R229). -/
def Cmd.regions (k : Cmd) : List Region :=
  match k.op with
  | .esnd _ _ _ _ _ _ _ => [⟨laddrOf k.b, k.c.toNat, false⟩]
  | _ => k.foot
/-- A matrix command. -/
def Cmd.matrix (k : Cmd) : Bool := Instr.isM k.op
/-- A command's regions enter the table (R225). -/
def Core.enterHazards (c : Core) (k : Cmd) : Core :=
  { c with hazards := c.hazards ++ k.foot.map fun r => ⟨k.id, k.order, c.cmdOrder, r⟩, cmdOrder := c.cmdOrder + 1 }
/-- A command's entries are released. -/
def Core.releaseHazards (c : Core) (id : Nat) : Core := { c with hazards := c.hazards.filter (·.cmd != id) }
/-- A command has an unresolved edge: an entry of an earlier-issued command, live when its own region entered, conflicts with that region (R225). Two matrix commands form none (R211, log 19). -/
def Core.hazardBlocked (c : Core) (k : Cmd) : Bool :=
  -- The words of a copy that the freeze holds are not waited for by C0, whose commands move the core's work (R284, R446).
  let heldBack (id : Nat) : Bool := c.frozen && k.ctx == 0 && c.eflight.any fun q => q.id == id && (match q.op with
    | .cpyi _ _ _ _ _ | .cpyl _ _ _ _ => q.ctx != 0
    | _ => false)
  (c.hazards.filter fun m => m.cmd == k.id).any fun m =>
    c.hazards.any fun h => decide (h.order < m.order) && decide (h.entered < m.entered) && m.region.conflicts h.region && !heldBack h.cmd &&
      !(k.matrix && (c.mq ++ c.mflight ++ c.mwait).any fun q => q.id == h.cmd)

/-! ## Command records -/

/-- A command of the operation being issued (R195, R216). -/
def State.newCmd (s : State) (i : Instr) (a b c : DWord) (foot : List Region) : Cmd :=
  let x := s.cur
  ⟨s.ids, s.frame.ctx, s.here.launchId s.frame.ctx, i, s.frame.words, a, b, c, s.frame.addr, s.now, s.here.cmdOrder, x.fcr,
    x.vseqNext, 0, foot, 0, none, 0, [], 0, 0, 0, false, none⟩
/-- A command takes the unattached FOOT regions of its context (R226). -/
def Ctx.takeFoot (x : Ctx) : Ctx := { x with foot := [] }
/-- Command k waits behind command w: an earlier one of its context (R332), but for one of its own bundle, the operations of a bundle being performed at issue (R195). -/
def Cmd.behind (k w : Cmd) : Bool := w.ctx == k.ctx && decide (w.order < k.order) && (w.saved || w.issue != k.issue)
/-- The command of context n that may enter its queue next: the first of those that wait for it, if it is behind no other (R195, R216, R332). -/
def Core.firstWaiting (c : Core) (n : Nat) (matrix : Bool) : Option Cmd :=
  match firstOf (fun k => k.ctx == n) (sortBy (·.order) (if matrix then c.mwait else c.ewait)) with
  | some k => if (c.mwait ++ c.ewait).any fun w => k.behind w then none else some k
  | none => none
/-- The entries of a command that has issued, or waits, enter the table if there is room and none of its context waits before it (R225, R332). -/
def Core.tryEnter (c : Core) (k : Cmd) : Core :=
  if !c.entered k && c.roomFor k && !((c.mwait ++ c.ewait).any fun w => k.behind w && !c.entered w)
  then c.enterHazards k else c
/-- A command of the bundle being issued is handed to its unit: it takes the FOOT regions if it has a footprint, its regions enter the hazard table, and it enters its queue; or it waits in PARK where the queue or the table has no room, or an earlier command of its context, and not of its bundle, waits (R195, R216, R225, R226, R332). -/
def State.submit (s : State) (k : Cmd) (footed matrix : Bool) (full : Core → Bool) : State :=
  let regions := if footed then (s.cur.foot.map (·.1)) else []
  let k := { k with foot := k.foot ++ regions, reserved := regions.length }
  let waits := full s.here || !s.here.hazardRoom (k.foot.length - k.reserved) || (s.here.mwait ++ s.here.ewait).any fun w => k.behind w
  let s := if footed then s.onCur Ctx.takeFoot else s
  let s := { s with ids := s.ids + 1, frame := { s.frame with cmds := s.frame.cmds ++ [k.id] } }
  let s := s.onHere fun c => { c with cmdOrder := c.cmdOrder + 1 }
  if waits then
    (s.onHere fun c =>
      (if matrix then { c with mwait := c.mwait ++ [k] } else { c with ewait := c.ewait ++ [k] }).tryEnter k).parkAs
      .queueFull k.op k.a k.b k.c k.id
  else
    s.onHere fun c =>
      let c := c.enterHazards k
      if matrix then { c with mq := c.mq ++ [k] } else { c with eq := c.eq ++ [k] }
/-- The command of a name in a list. -/
def cmdOf (l : List Cmd) (id : Nat) : Option Cmd := firstOf (·.id == id) l
/-- A command of the bundle being issued, already handed over, takes a further region (R226): its entry is the one that FOOT reserved. -/
def Core.attach (c : Core) (id : Nat) (r : Region) : Core :=
  let f (l : List Cmd) : List Cmd := l.map fun k =>
    if k.id = id then { k with foot := k.foot ++ [r], reserved := k.reserved + 1 } else k
  let c' := { c with mq := f c.mq, eq := f c.eq, mwait := f c.mwait, ewait := f c.ewait, mflight := f c.mflight }
  match cmdOf (c.mq ++ c.eq ++ c.mflight ++ c.mwait ++ c.ewait) id with
  | some k => if c.entered k then
      { c' with hazards := c'.hazards ++ [⟨id, k.order, c'.cmdOrder, r⟩], cmdOrder := c'.cmdOrder + 1 } else c'
  | none => c'
/-- What the core keeps with a Rockpool entry, changed. -/
def Core.onPool (c : Core) (e : Nat) (f : PoolCopy → PoolCopy) : Core :=
  { c with pool := c.pool.map fun kq => if kq.1 = e then (kq.1, f kq.2) else kq }
/-- A late fault of a command is known (R212, R223). A command whose context is OUT bears the number 16 + e of its Rockpool entry e in place of the context's. -/
def State.lateFault (s : State) (p n : Nat) (l : Late) : State :=
  let (p, n) := s.home p n
  if 16 ≤ n then s.onCore p fun c => c.onPool (n - 16) fun q => { q with late := q.late ++ [l] }
  else s.onCtx p n fun x => x.addLate l

end Sys2Proof.Machine
end

