-- ==== Sys2Proof/Machine/Matrix.lean ====
section
/-! DEFINITION. The matrix unit (spec/08_matrix_unit.md R195 to R213; spec/03_number_formats.md R86, R87): the queue, starts and completions, and the meanings of the M slot. -/
namespace Sys2Proof.Machine

/-! ## Accumulators (R16) -/

/-- An element of an accumulator. -/
def Core.acc (c : Core) (m i j : Nat) : Word := look 0 (look [] (look [] c.accs m) i) j
/-- An accumulator replaced row by row. -/
def Core.setRows (c : Core) (m : Nat) (rows : List Nat) (f : Nat → Nat → Word) : Core :=
  let old := look [] c.accs m
  let new := rows.foldl (fun a i => put a i ((upTo 32).map fun j => (j, f i j))) old
  { c with accs := put c.accs m new }
/-- The accumulator of an M command. -/
def accOf : Instr → Nat
  | .mma m _ _ | .mmas m _ _ | .mmaz m _ _ | .mclr m _ | .mrdv m _ _ _ | .mscl m _ _ _ | .mtrn m _ => m.toNat
  | .mrd m _ _ _ _ _ _ | .mwr m _ _ _ _ _ _ | .mseq m _ _ _ _ => m.toNat
  | _ => 0

/-! ## Tiles (R198 to R200) -/

/-- Sizes of a command's tiles in bytes: A with descriptors, A's elements alone, B, scales. -/
structure TileSizes where
  k : Nat
  kx : Nat
  a : Nat
  aElems : Nat
  b : Nat
  s : Nat
  deriving DecidableEq, Repr
/-- The tile sizes of a pair (R199, R200). -/
def tileSizes (t : Tiles) (sparse : Bool) : TileSizes :=
  let k := (pairK t.fa t.fb).getD 16
  let kx := if sparse then 2 * k else k
  let ae := 64 * (k * t.fa.width / 8)
  let nb := kx / 32
  ⟨k, kx, ae + (if sparse then 64 * (kx / 8) else 0), ae, 32 * (kx * t.fb.width / 8),
    if t.fa.isElem then 96 * nb * (if t.sf = .e8m0 then 1 else 4) else 0⟩
/-- The dense size of a row of MRD and MWR (R207). -/
def rowBytes : MemFmt → Nat
  | .f32 => 128 | _ => 64
/-- The pitch of MRD and MWR (R207). -/
def pitchOf (f : MemFmt) (b : DWord) : Nat := if b.toNat % 65536 = 0 then rowBytes f else b.toNat % 65536
/-- The regions of a command in the order of R211, with a and b and c its register values. -/
def matrixRegions (i : Instr) (a b c : DWord) : List (DWord × Nat × Bool) :=
  let tiles (t : Tiles) (sparse : Bool) (n : Nat) : List (DWord × Nat × Bool) :=
    let z := tileSizes t sparse
    [(a, z.a * n, false), (b, z.b * n, false)] ++ (if t.fa.isElem then [(c, z.s * n, false)] else [])
  match i with
  | .mma _ t _ | .mmaz _ t _ => tiles t false 1
  | .mmas _ t _ => tiles t true 1
  | .mseq _ t _ n _ => tiles t false (n.toNat + 1)
  | .mrd _ _ _ _ _ o _ => [(a, 15 * pitchOf o b + rowBytes o, true)]
  | .mwr _ _ _ _ _ f _ => [(a, 15 * pitchOf f b + rowBytes f, false)]
  | .mscl _ _ true _ => [(a, 256, false)]
  | _ => []
/-- A tile command: its regions are the A, B and scale tiles. -/
def isTileCmd : Instr → Bool
  | .mma _ _ _ | .mmaz _ _ _ | .mmas _ _ _ | .mseq _ _ _ _ _ => true
  | _ => false
/-- Bank group of a local address (R29). -/
def groupOf (a : Nat) : Nat := a / 131072
/-- The first check of R201's row 5 that fails: the operand's number. -/
def groupClash (l : List (DWord × Nat × Bool)) : Option Nat :=
  firstOf (fun j =>
    let r := nthD (0, 1, false) l j
    let a := laddrOf r.1
    groupOf a != groupOf (a + r.2.1 - 1) || (upTo j).any fun i => groupOf (laddrOf (nthD (0, 1, false) l i).1) == groupOf a)
    (upTo l.length)
/-- The checks of R201, with R207's of the pitch. -/
def State.matrixCheck (s : State) (i : Instr) (a b c : DWord) : Option Trap :=
  let l := matrixRegions i a b c
  let st := Instr.start i
  let far := firstOf (fun r => isRemote r.1) l
  -- The whole of the reserved area is closed to the matrix unit, stack slices included.
  let out := firstOf Option.isSome (l.map fun r =>
    if r.1.extractLsb' 19 44 ≠ 0 then some r.1
    else if 0x70000 < laddrOf r.1 + r.2.1 then some (effNat (r.1 - BitVec.ofNat 64 (laddrOf r.1)) (max 0x70000 (laddrOf r.1)))
    else none)
  let odd := firstOf (fun r => laddrOf r.1 % 32 != 0) l
  let p := b.toNat % 65536
  let pitched := match i with | .mrd _ _ _ _ _ _ _ => true | .mwr _ _ _ _ _ _ _ => true | _ => false
  match far, out, odd with
  | some r, _, _ => some ⟨13, 0x08, r.1⟩
  | none, some x, _ => some ⟨13, 0x06, x.getD 0⟩
  | none, none, some r => some ⟨13, 0x07, r.1⟩
  | none, none, none =>
    Trap.orIf (pitched && p % 32 != 0) ⟨13, 0x07, BitVec.ofNat 64 p⟩ <|
    s.passedCheck st <|
    if isTileCmd i then
      match groupClash l with
      | some j => some ⟨13, 0x09, BitVec.ofNat 64 (laddrOf (nthD (0, 1, false) l j).1 + 2 ^ 60 * j)⟩
      | none => none
    else none

/-! ## Issue (R195, R210) -/

/-- The register values of an M command: AREG, BREG and SREG. -/
def State.mOperands (s : State) : Instr → DWord × DWord × DWord
  | .mma _ t _ | .mmas _ t _ | .mmaz _ t _ | .mseq _ t _ _ _ => (s.rx t.a, s.rx t.b, s.rx t.s)
  | .mrd _ a b _ _ _ _ | .mwr _ a b _ _ _ _ => (s.rx a, s.rx b, 0)
  | .mrdv _ a _ _ => (s.rx a, 0, 0)
  | .mscl _ a _ _ => (s.rx a, 0, 0)
  | _ => (0, 0, 0)
/-- An M command issues (R195): it is dispatched, MRDV's register is owed, and it enters the queue or waits. -/
def State.mIssue (s : State) (i : Instr) : State :=
  let (a, b, c) := s.mOperands i
  let foot := (matrixRegions i a b c).map fun r => (⟨laddrOf r.1, r.2.1, r.2.2⟩ : Region)
  let k := s.newCmd i a b c foot
  let t := (s.dispatch true).oweAll i k.id
  t.submit k (!foot.isEmpty) true fun c => decide (16 ≤ c.mq.length)
/-- The shape of an M command's meaning. -/
def mOp (i : Instr) : State → Out :=
  operation i (fun s => let (a, b, c) := s.mOperands i; s.matrixCheck i a b c) (fun s => s.mIssue i)
/-- MMA (R203). -/
def execMma (m : Acc) (t : Tiles) (st : Start) (s : State) : Out := mOp (.mma m t st) s
/-- MMAS (R200, R203). -/
def execMmas (m : Acc) (t : Tiles) (st : Start) (s : State) : Out := mOp (.mmas m t st) s
/-- MMAZ (R203). -/
def execMmaz (m : Acc) (t : Tiles) (st : Start) (s : State) : Out := mOp (.mmaz m t st) s
/-- MCLR (R205). -/
def execMclr (m : Acc) (st : Start) (s : State) : Out := mOp (.mclr m st) s
/-- MRD (R207). -/
def execMrd (m : Acc) (a b : SReg) (q : BitVec 2) (clr : Bool) (out : MemFmt) (st : Start) (s : State) : Out :=
  mOp (.mrd m a b q clr out st) s
/-- MWR (R208). -/
def execMwr (m : Acc) (a b : SReg) (q : BitVec 2) (addTo : Bool) (inp : MemFmt) (st : Start) (s : State) : Out :=
  mOp (.mwr m a b q addTo inp st) s
/-- MRDV (R209). -/
def execMrdv (m : Acc) (a : SReg) (v : BitVec 5) (st : Start) (s : State) : Out := mOp (.mrdv m a v st) s
/-- MSCL (R206). -/
def execMscl (m : Acc) (a : SReg) (row : Bool) (st : Start) (s : State) : Out := mOp (.mscl m a row st) s
/-- MTRN (R205). -/
def execMtrn (m : Acc) (st : Start) (s : State) : Out := mOp (.mtrn m st) s
/-- MSEQ (R204). -/
def execMseq (m : Acc) (t : Tiles) (z : Bool) (n : BitVec 4) (st : Start) (s : State) : Out := mOp (.mseq m t z n st) s
/-- Commands of context n that MSYNC still waits for: a tide-locked one that has started counts until 31 cycles after its start (R210). -/
def Core.msyncWaits (c : Core) (n before now : Nat) : Bool :=
  ((c.mwait ++ c.mq ++ c.mflight).any fun k => k.ctx == n && decide (k.id < before)) ||
  (c.mdone.any fun d => d.1 == n && decide (now < d.2))
/-- MSYNC (R210). -/
def execMsync (s : State) : Out :=
  operation .msync noCheck (fun s =>
    let t := s.dispatch true
    if s.here.msyncWaits s.frame.ctx s.ids s.now then { (t.parkAs .msync .msync 0 0 0 s.ids) with ids := s.ids + 1 } else t) s

/-! ## Starts (R196, R204, R212) -/

/-- Steps of a command that are still to be performed. -/
def Cmd.stepsLeft (k : Cmd) : Nat :=
  match k.op with
  | .mseq _ _ _ n _ => n.toNat + 1 - k.step
  | _ => 1
/-- Cycles that a command, or a step of an MSEQ, occupies the unit (R196): twice as many for tile products of a launch of class SZ4-H (R409). -/
def Core.occupancy (c : Core) (k : Cmd) : Nat :=
  let slow := match k.launch with
    | some l => (match firstOf (fun (j : CoreLaunch) => j.id.toNat == l) c.launches with | some j => j.cls | none => false)
    | none => false
  match k.op with
  | .mma _ _ _ | .mmas _ _ _ | .mmaz _ _ _ | .mseq _ _ _ _ _ => if slow then 64 else 32
  | _ => 32
/-- The device cycle of a tide-locked command's next step (R196, R204). -/
def Core.stepStart (c : Core) (k : Cmd) : Nat := c.startOf k + c.occupancy k * k.step
/-- The context cycle that a refused step's TVAL reports (R204, R212). -/
def Core.stepTval (c : Core) (k : Cmd) : DWord := BitVec.ofNat 64 ((Instr.start k.op).off.toNat + c.occupancy k * k.step)
/-- The banks of the launch that a command belongs to. -/
def Core.cmdBanks (c : Core) (k : Cmd) : Half := (c.banksFor k.launch).getD 0
/-- The first byte of a command's footprint in a bank that its launch does not own (R212). -/
def Core.cmdUnowned (c : Core) (k : Cmd) : Option Nat :=
  ((firstOf Option.isSome (k.foot.map (firstUnowned (c.cmdBanks k)))).getD none)
/-- Reasons other than another command's priority for which a tide-locked start is refused (R196). -/
def Core.timedBlocked (c : Core) (now : Nat) (k : Cmd) : Bool :=
  decide (now < c.munit) || (c.cmdUnowned k).isSome || c.hazardBlocked k
/-- Tide-locked commands whose start cycle is now, by context (R196). -/
def Core.timedDue (c : Core) (now : Nat) : List Cmd :=
  sortBy (·.ctx) (c.mq.filter fun k => k.timed && (c.ctx k.ctx).ran && c.stepStart k == now)
/-- The tide-locked command that starts now: the lowest context's that nothing else refuses. -/
def Core.timedWinner (c : Core) (now : Nat) : Option Cmd :=
  if c.mtaken = now + 1 then none else firstOf (fun k => !c.timedBlocked now k) (c.timedDue now)
/-- The window of an F = 0 command is free of reserved starts (R196). -/
def Core.windowFree (c : Core) (now : Nat) (k : Cmd) : Bool :=
  !(c.mq.any fun t => t.timed && ((c.ctx t.ctx).st == .run || (c.ctx t.ctx).st == .park) &&
    decide (now ≤ c.stepStart t) && decide (c.stepStart t < now + c.occupancy k * k.stepsLeft))
/-- The F = 0 command that may start now: the oldest of those that have issued, if it is in the queue and the unit, its edges and its window are free (R196). -/
def Core.freeWinner (c : Core) (now : Nat) : Option Cmd :=
  if now < c.munit || c.mtaken = now + 1 || (c.timedWinner now).isSome then none else
  match firstOf (fun k => !k.timed) (sortBy (·.order) (c.mq ++ c.mwait)) with
  | none => none
  | some k => if k ∈ c.mq && decide (k.issue < now) && !c.hazardBlocked k && c.windowFree now k then some k else none
/-- A command whose accumulator its context has not claimed (R16). -/
def Core.unclaimed (c : Core) (k : Cmd) : Bool := !((accOf k.op, k.ctx) ∈ c.claims)
/-- The SUB and TVAL for which a command at its start is not performable (R212). -/
def Core.notPerformable (c : Core) (k : Cmd) : Option (Nat × DWord) :=
  if c.unclaimed k then some (0x03, BitVec.ofNat 64 (accOf k.op))
  else if k.timed then none
  else (c.cmdUnowned k).map fun a => (0x06, BitVec.ofNat 64 a)
/-- The words of a command's read regions in the cycle of its start: their values before that cycle's stores, and after them (R133). -/
def Core.captured (c : Core) (k : Cmd) : List (Nat × DWord) :=
  ((k.foot.filter fun r => !r.wr).map fun r =>
    ((upFrom (r.lo / 8) ((r.lo + r.len + 7) / 8 - r.lo / 8)).map fun w =>
      let v := c.word (8 * w)
      let u := (find c.wrote (8 * w)).getD v
      if u = v then [(8 * w, v)] else [(8 * w, u), (8 * w, v)]).flatten).flatten
/-- The cycle in which a started command's results are ready for its context (R197, R409): a tide-locked one counts as complete then and never earlier (R210). -/
def Core.readyAt_ (c : Core) (k : Cmd) (now : Nat) : Nat :=
  if k.timed then max now (k.started.getD now + c.occupancy k - 1) else now
/-- Flags of a performed command: merged where its results are ready, at once if that has passed, for an OUT context into its Rockpool entry (R79, R212), and with one that was enabled at issue a late fault (R78, R80). -/
def State.mFlags (s : State) (p : Nat) (k : Cmd) (fl : Fl) (at_ : Nat) : State :=
  let v : DWord := fl.setWidth 64 <<< 8
  let t := s.onCore p fun c =>
    if fl = 0 then c
    else if k.ctx < 16 then if at_ < s.now then c.store (.flags k.ctx) (.word v) else { c with writes := c.writes ++ [⟨.flags k.ctx, .word v, k.ctx, s.now, some at_, 0, []⟩] }
    else c.setWord (poolAddr (k.ctx - 16) 0x128) (c.word (poolAddr (k.ctx - 16) 0x128) ||| v)
  let e := fl &&& k.fcr.extractLsb' 16 5
  if e = 0 then t else t.lateFault p k.ctx ⟨.vm k.seq, causeWord 0x13 true 0 0x16 k.seq, fpTval k.addr e, at_⟩
/-- A command leaves the queue without being performed, or an MSEQ without its later steps: a late fault, and its regions are released (R212). The flags of an MSEQ's performed steps are merged as at the last one's completion (R204; log 19). -/
def State.mRefuse (s : State) (p : Nat) (k : Cmd) (sub : Nat) (tval : DWord) : State :=
  let t := s.onCore p fun c =>
    let c := c.releaseHazards k.id
    { (c.forgo k.id) with mq := c.mq.filter (·.id != k.id), mflight := c.mflight.filter (·.id != k.id),
                          mwait := c.mwait.filter (·.id != k.id) }
  (t.mFlags p k k.flags (if k.step = 0 then s.now else k.until_)).lateFault p k.ctx ⟨.vm k.seq, causeWord 0x13 true 0 sub k.seq, tval, s.now⟩
/-- A tide-locked start of this cycle has been taken or refused: no other start follows in it (R196, R212). -/
def Core.takeStart (c : Core) (k : Cmd) (now : Nat) : Core :=
  if k.timed && c.stepStart k == now then { c with mtaken := now + 1 } else c
/-- A command starts, or is found not performable (R196, R197, R212): its occupancy runs, and it completes within 31 cycles. -/
def State.mStart (s : State) (p : Nat) (k : Cmd) : State :=
  let s := s.onCore p fun c => c.takeStart k s.now
  match (s.core p).notPerformable k with
  | some (sub, tval) => s.mRefuse p k sub tval
  | none =>
    let occ := (s.core p).occupancy k
    let done := s.now + 1 + s.anyBelow (2000 + p % 4096) (occ - 1)
    s.onCore p fun c =>
      let k' := { k with started := some s.now, until_ := done, data := c.captured k, began := some (k.began.getD s.now) }
      { c with mq := c.mq.filter (·.id != k.id), mflight := c.mflight.filter (·.id != k.id) ++ [k'], munit := s.now + occ }
/-- MATRIX_COMMAND_START (R196). -/
def execMatrixCommandStart (core cmd : Nat) (s : State) : Out :=
  event (fun s =>
    let c := s.core core
    match cmdOf c.mq cmd with
    | none => s
    | some k => if (c.timedWinner s.now) = some k || (c.freeWinner s.now) = some k then s.mStart core k else s) s
/-- A tide-locked command whose start is refused now: it is due and cannot start, or its cycle passed outside the queue (R51, R195, R196). -/
def Core.startRefused (c : Core) (now : Nat) (k : Cmd) : Bool :=
  k.timed && ((k ∈ c.mq && k ∈ c.timedDue now && (c.timedBlocked now k || c.mtaken == now + 1)) ||
    (k ∈ c.mwait && (c.ctx k.ctx).ran && decide (c.stepStart k ≤ now)) ||
    -- A start that lies in the past, the time base having moved.
    ((k ∈ c.mq || (k ∈ c.mflight && k.started.isNone)) && (c.ctx k.ctx).ran && decide (c.stepStart k < now)))
/-- MATRIX_START_REFUSED (R51, R196, R212): late fault 0x13 with SUB 0x0A and the refused context cycle. -/
def execMatrixStartRefused (core cmd : Nat) (s : State) : Out :=
  event (fun s =>
    let c := s.core core
    match cmdOf (c.mq ++ c.mwait ++ c.mflight) cmd with
    | none => s
    | some k =>
      -- A second start of the same cycle finds the unit taken by the first.
      if c.startRefused s.now k then
        ((s.onCore core fun c => c.takeStart k s.now).mRefuse core k 0x0A (c.stepTval k)).endWait core k.ctx k.id none
      else s) s
/-- An MSEQ in flight whose next step starts now (R204). -/
def Core.stepDue (c : Core) (now : Nat) (k : Cmd) : Bool :=
  k.started.isNone && decide (0 < k.step) && !(c.swapping.any fun j => j.ctx == k.ctx && j.was.isSome) && (if k.timed then (c.ctx k.ctx).ran && c.stepStart k == now else decide (c.munit ≤ now))
/-- A later step of an MSEQ whose start in this cycle is refused (R196, R204, R212). -/
def Core.stepRefused (c : Core) (now : Nat) (k : Cmd) : Bool :=
  c.stepDue now k && ((k.timed && ((c.cmdUnowned k).isSome || decide (now < c.munit) ||
    (match c.timedWinner now with | some w => decide (w.ctx < k.ctx) | none => false))) || (c.notPerformable k).isSome)
/-- MSEQ_STEP_START (R204): step s starts 32 cycles after step s − 1, or is refused with every later one. Model's choice: at a step's boundary a tide-locked command of a lower context starts, and the step is refused (log 19). -/
def execMseqStepStart (core cmd : Nat) (s : State) : Out :=
  event (fun s =>
    let c := s.core core
    match cmdOf c.mflight cmd with
    | none => s
    | some k =>
      if !c.stepDue s.now k then s
      else if k.timed && ((c.cmdUnowned k).isSome || decide (s.now < c.munit) ||
          (match c.timedWinner s.now with | some w => decide (w.ctx < k.ctx) | none => false)) then
        s.mRefuse core k 0x0A (c.stepTval k)
      else s.mStart core k) s
/-- MATRIX_QUEUE_ENTER (R195, R225, R332): the first waiting command of a context enters the hazard table and the queue as each has room, and a context parked for it leaves PARK. -/
def execMatrixQueueEnter (core ctx : Nat) (s : State) : Out :=
  event (fun s =>
    let c := s.core core
    match c.firstWaiting ctx true with
    | none => s
    | some k =>
      let t := s.onCore core fun c => c.tryEnter k
      if decide (16 ≤ c.mq.length) || !(t.core core).entered k then t else
      (t.onCore core fun c => { c with mq := c.mq ++ [k], mwait := c.mwait.filter (·.id != k.id) }).onCtx core ctx
        fun x => x.onPark k.id fun q => { q with ended := .done }) s

/-! ## What a command computes (R86, R87, R203 to R209) -/

/-- w bits at a bit address, from a reading of words. -/
def bitsAt (rd : Nat → DWord) (bit w : Nat) : Nat :=
  let a := bit / 64
  ((rd (8 * a)).toNat + 2 ^ 64 * (rd (8 * a + 8)).toNat) / 2 ^ (bit % 64) % 2 ^ w
/-- Element k of A row i, dense (R199). -/
def aElem (rd : Nat → DWord) (t : Tiles) (k base i e : Nat) : Num :=
  fmtNum t.fa (bitsAt rd (8 * (base + i * (k * t.fa.width / 8)) + e * t.fa.width) t.fa.width)
/-- Element k of B column j (R199). -/
def bElem (rd : Nat → DWord) (t : Tiles) (kx base j e : Nat) : Num :=
  fmtNum t.fb (bitsAt rd (8 * (base + j * (kx * t.fb.width / 8)) + e * t.fb.width) t.fb.width)
/-- Scale entry n (R199). -/
def scaleEntry (rd : Nat → DWord) (t : Tiles) (base n : Nat) : Option (Nat × Int) :=
  match t.sf with
  | .e8m0 => scaleNum .e8m0 (bitsAt rd (8 * (base + n)) 8)
  | .e8m12 => scaleNum .e8m12 (bitsAt rd (8 * (base + 4 * n)) 20)
/-- A reading of a word by the element read that it is made for (R133). -/
abbrev Reader := Nat → Nat → DWord
/-- The element read of operand `op` (0 A, 1 B, 2 and 3 the scales) for output (i, j) and index e. -/
def readKey (i j e op : Nat) : Nat := ((32 * i + j) * 256 + e) * 4 + op
/-- The A values of one row by their effective index, as pairs index and value (R200): MMAS places its kept elements by descriptor, and the value at an index that no kept element has is 0. -/
def aRow (rd : Reader) (t : Tiles) (z : TileSizes) (sparse : Bool) (base i j : Nat) : List (Nat × Num) :=
  let el (e : Nat) : Num := (aElem (rd (readKey i j e 0)) t z.k base i e).quiet
  if !sparse then (upTo z.k).map fun e => (e, el e) else
  ((upTo (z.k / 2)).map fun g =>
    let d := bitsAt (rd (readKey i j (128 + g) 0)) (8 * (base + z.aElems + i * (z.kx / 8)) + 4 * g) 4
    ((upTo 4).map fun l =>
      let vs := (if d % 4 = l then [el (2 * g)] else []) ++ (if d / 4 = l then [el (2 * g + 1)] else [])
      (if vs.isEmpty then [.fin false 0 0] else vs).map fun v => (4 * g + l, v)).flatten).flatten
/-- The exact sum of one block's products, and the flags of its products and sum (R86, R87). -/
def blockSum (rd : Reader) (t : Tiles) (z : TileSizes) (row : List (Nat × Num)) (bBase i j : Nat) : Num × Fl :=
  let (sum, fl) := row.foldl (fun (p : Sum × Fl) ka =>
    let (v, f) := numMul ka.2 (bElem (rd (readKey i j ka.1 1)) t z.kx bBase j ka.1).quiet
    (p.1.add v, p.2 ||| f)) (Sum.empty, 0)
  (sum.num, fl ||| sum.flags)
/-- One output element (R86, R87, R203): the blocks' sums, each times its scales, are added exactly to the old value, and the sum is rounded once. Model's choice: an infinity beside a NaN of its own block takes no part in Inf − Inf with another part (log 66). -/
def mmaElem (rd : Reader) (t : Tiles) (z : TileSizes) (row : List (Nat × Num)) (aS : Nat → Option (Nat × Int))
    (bBase sBase i j : Nat) (old : Num) : Nat × Fl :=
  let (sum, fl) := (upTo (max 1 (z.kx / 32))).foldl (fun (p : Sum × Fl) b =>
    let (v, f) := blockSum rd t z (row.filter fun ka => ka.1 / 32 == b) bBase i j
    let v := if t.fa.isElem then
        timesScale (timesScale v (aS b)) (scaleEntry (rd (readKey i j b 3)) t sBase (64 * (z.kx / 32) + 32 * b + j))
      else v
    (p.1.add v, p.2 ||| f)) (Sum.empty.add old.quiet, 0)
  let (e, g) := sum.exact .rne
  let (v, h) := ffF32.finish false .rne e
  (v, fl ||| g ||| h)
/-- An MMA over the whole accumulator (R203): rows of words and the flags. -/
def mmaAll (rd : Reader) (t : Tiles) (sparse : Bool) (a b sc : Nat) (old : Nat → Nat → Num) : List (List (Nat × Fl)) :=
  let z := tileSizes t sparse
  (upTo 64).map fun i => (upTo 32).map fun j =>
    mmaElem rd t z (aRow rd t z sparse a i j) (fun bl => scaleEntry (rd (readKey i j bl 2)) t sc (64 * bl + i)) b sc i j (old i j)
/-- Results of rows put into an accumulator, and their flags. -/
def Core.putRows (c : Core) (m first : Nat) (rows : List (List (Nat × Fl))) : Core × Fl :=
  (c.setRows m (upFrom first rows.length) (fun i j => BitVec.ofNat 32 (nthD (0, 0) (nthD [] rows (i - first)) j).1),
    rows.foldl (fun f r => r.foldl (fun f p => f ||| p.2) f) 0)
/-- An element as a number. -/
def Core.accNum (c : Core) (m i j : Nat) : Num := ffF32.num (c.acc m i j).toNat
/-- MSCL's product (R206). -/
def sclElem (x f : Num) : Nat × Fl :=
  match x, f with
  | .nan _, .nan s => (ffF32.nan, if s then flNV else 0)
  | .nan _, _ => (ffF32.nan, 0)
  | _, .nan s => (ffF32.nan, if s then flNV else 0)
  | x, f =>
    let (p, g) := numMul x f
    let (v, h) := ffF32.finish false .rne p.exact
    (v, g ||| h)
/-- Bytes of an element of MRD and MWR. -/
def memBytes_ : MemFmt → Nat
  | .f32 => 4 | _ => 2
/-- An element as MRD writes it (R207). -/
def mrdElem (o : MemFmt) (x : Word) : Nat × Fl :=
  match o with
  | .f32 => (x.toNat, 0)
  | .bf16 => ffBf16.convert false .rne (ffF32.num x.toNat)
  | .f16 => ffF16.convert false .rne (ffF32.num x.toNat)
/-- An element as MWR reads it, widened (R208). -/
def mwrElem (o : MemFmt) (x : Nat) : Nat × Fl :=
  match o with
  | .f32 => (x, 0)
  | .bf16 => ffF32.convert false .rne (ffBf16.num x)
  | .f16 => ffF32.convert false .rne (ffF16.num x)
/-- MWR's new element (R208): with ADD a NaN is canonical and raises nothing of its own. -/
def mwrNew (o : MemFmt) (add : Bool) (old : Num) (x : Nat) : Nat × Fl :=
  let (v, f) := mwrElem o x
  if !add then (v, f) else
  let (e, g) := numAdd .rne old.quiet (ffF32.num v).quiet
  let (w, h) := ffF32.finish false .rne e
  (w, f ||| g ||| h)
/-- The effect of a command on its core, with its reading of words, and its flags (R203 to R209). -/
def Core.mEffect (c : Core) (now : Nat) (k : Cmd) (rd : Reader) : Core × Fl :=
  let m := accOf k.op
  let a := laddrOf k.a
  let b := laddrOf k.b
  let sc := laddrOf k.c
  match k.op with
  | .mma _ t _ => c.putRows m 0 (mmaAll rd t false a b sc (c.accNum m))
  | .mmaz _ t _ => c.putRows m 0 (mmaAll rd t false a b sc fun _ _ => .fin false 0 0)
  | .mmas _ t _ => c.putRows m 0 (mmaAll rd t true a b sc (c.accNum m))
  | .mseq _ t z _ _ =>
    let q := tileSizes t false
    c.putRows m 0 (mmaAll rd t false (a + k.step * q.a) (b + k.step * q.b) (sc + k.step * q.s)
      (if z && k.step = 0 then fun _ _ => .fin false 0 0 else c.accNum m))
  | .mclr _ _ => ({ c with accs := del c.accs m }, 0)
  | .mtrn _ _ => (c.setRows m (upTo 64) (fun i j => c.acc m (32 * (i / 32) + j) (i % 32)), 0)
  | .mscl _ _ row _ =>
    c.putRows m 0 ((upTo 64).map fun i =>
      let f := ffF32.num (if row then bitsAt (rd i) (8 * (a + 4 * i)) 32 else k.a.toNat % 2 ^ 32)
      (upTo 32).map fun j => sclElem (c.accNum m i j) f)
  | .mrdv _ _ v _ =>
    let row := k.a.toNat % 64
    let e := k.a.toNat / 64 % 4
    let val := packLanes 32 ((upTo 8).map fun l => (c.acc m row (8 * e + l)).toNat)
    let due := k.started.getD now + 31
    ({ c with writes := c.writes.map fun w =>
        if w.id = k.id && w.due.isNone && w.dst == .v k.ctx v then { w with val := .vec val, due := some (max due now) } else w }, 0)
  | .mrd _ _ _ q clr o _ =>
    let n := memBytes_ o
    let es := (upTo 16).map fun r => (upTo 32).map fun j => mrdElem o (c.acc m (16 * q.toNat + r) j)
    let c2 := { c with mwrites := c.mwrites ++ ((upTo 16).map fun r =>
      let v := packNat (8 * n) ((nthD [] es r).map (·.1))
      (upTo (4 * n)).map fun w => ((a + r * pitchOf o k.b + 8 * w) % 2 ^ 19, BitVec.ofNat 64 (v / 2 ^ (64 * w)))).flatten }
    (if clr then c2.setRows m (upFrom (16 * q.toNat) 16) (fun _ _ => 0) else c2,
      es.foldl (fun f r => r.foldl (fun f p => f ||| p.2) f) 0)
  | .mwr _ _ _ q add o _ =>
    let n := memBytes_ o
    c.putRows m (16 * q.toNat) ((upTo 16).map fun r => (upTo 32).map fun j =>
      mwrNew o add (c.accNum m (16 * q.toNat + r) j) (bitsAt (rd (readKey r 0 0 0)) (8 * (a + r * pitchOf o k.b + n * j)) (8 * n)))
  | _ => (c, 0)
/-- A word as one element read of a command finds it: a store during its occupancy reaches that read or not (R133; log 20). -/
def State.mRead (s : State) (p : Nat) (k : Cmd) (key w : Nat) : DWord :=
  match k.data.filter (·.1 == w) with
  | [] => (s.core p).word w
  | [v] => v.2
  | l => (nthD (w, 0) l (s.anyWide (key * 2 ^ 17 + w / 8) l.length)).2
/-- A command writes its accumulator. -/
def writesAcc : Instr → Bool
  | .mrd _ _ _ _ clr _ _ => clr
  | .mrdv _ _ _ _ | .msync => false
  | _ => true
/-- The byte ranges that an element of a command's result depends on (R199, R200, R206, R208). -/
def Cmd.reads (k : Cmd) (i j : Nat) : List (Nat × Nat) :=
  let a := laddrOf k.a
  let tile (t : Tiles) (sparse : Bool) : List (Nat × Nat) :=
    let z := tileSizes t sparse
    let a := a + k.step * z.a
    let b := laddrOf k.b + k.step * z.b
    let sc := laddrOf k.c + k.step * z.s
    let w := if t.sf = .e8m0 then 1 else 4
    let ra := z.k * t.fa.width / 8
    let rb := z.kx * t.fb.width / 8
    [(a + i * ra, ra), (b + j * rb, rb)] ++ (if sparse then [(a + z.aElems + i * (z.kx / 8), z.kx / 8)] else []) ++
      (if t.fa.isElem then ((upTo (z.kx / 32)).map fun bl =>
        [(sc + w * (64 * bl + i), w), (sc + w * (64 * (z.kx / 32) + 32 * bl + j), w)]).flatten else [])
  match k.op with
  | .mma _ t _ | .mmaz _ t _ | .mseq _ t _ _ _ => tile t false
  | .mmas _ t _ => tile t true
  | .mscl _ _ true _ => [(a + 4 * i, 4)]
  | .mwr _ _ _ q _ o _ =>
    if i / 16 = q.toNat then [(a + (i % 16) * pitchOf o k.b + memBytes_ o * j, memBytes_ o)] else []
  | _ => []
/-- A command writes an element of row i of its accumulator (R197, R207, R208). -/
def writesRow : Instr → Nat → Bool
  | .mrd _ _ _ q clr _ _, i => clr && decide (i / 16 = q.toNat)
  | .mwr _ _ _ q _ _ _, i => decide (i / 16 = q.toNat)
  | op, _ => writesAcc op
/-- Elements that depend on a word with an uncorrectable error are undefined, and the word is reported (R211, R328). So are all that a command writes which started after the unit's failure (R432). -/
def State.mPoison (s : State) (p : Nat) (k : Cmd) : State :=
  let c := s.core p
  let bad := ((k.data.map (·.1)).filter fun w => w ∈ c.poison).eraseDups
  let failed := match (k.launch.bind fun l => firstOf (fun (j : CoreLaunch) => j.id.toNat == l) c.launches).bind (·.failure) with
    | some t => writesAcc k.op && decide (t < k.began.getD 0)
    | none => false
  let hit (i j : Nat) : Bool := (failed && writesRow k.op i) || (k.reads i j).any fun r => bad.any fun w => decide (w < r.1 + r.2) && decide (r.1 < w + 8)
  let t := if bad.isEmpty && !failed then s else
    s.onCore p fun c => c.setRows (accOf k.op) (upTo 64) fun i j =>
      if hit i j then (s.anyWord (4000 + 32 * i + j)).setWidth 32 else c.acc (accOf k.op) i j
  bad.foldl (fun t w => t.reportWord p w) t
/-- MATRIX_COMMAND_COMPLETE (R197, R204, R211, R212): the effect, the flags, the late fault of an enabled one, and the release of the footprint; an MSEQ goes on to its next step. -/
def execMatrixCommandComplete (core cmd : Nat) (s : State) : Out :=
  event (fun s =>
    match cmdOf (s.core core).mflight cmd with
    | none => s
    | some k =>
      if k.started.isNone || decide (s.now < k.until_) then s else
      let (c, f) := (s.core core).mEffect s.now k (s.mRead core k)
      let fl := k.flags ||| f
      let s1 := (s.setCore core c).mPoison core k
      if 1 < k.stepsLeft then
        s1.onCore core fun c =>
          { c with mflight := c.mflight.map fun q =>
              if q.id = cmd then { q with step := q.step + 1, started := none, until_ := (s.core core).readyAt_ k s.now, flags := fl, data := [] }
              else q }
      else
        let ready := c.readyAt_ k s.now
        let s2 := s1.onCore core fun c =>
          { (c.releaseHazards cmd) with
            mflight := c.mflight.filter (·.id != cmd),
            mdone := if k.timed then c.mdone ++ [(k.ctx, ready)] else c.mdone }
        s2.mFlags core k fl ready) s

end Sys2Proof.Machine
end

