-- ==== Sys2Proof/Machine/Engines.lean ====
section
/-! DEFINITION. The engine queue and tags, copies at issue, FOOT, tag waits, eddy messages, barriers, rings, signals and bank hand-over at their issuing core (spec/09_engines_tags_and_channels.md R214 to R236, R239). -/
namespace Sys2Proof.Machine

/-! ## Tags (R217) -/

/-- The engine fields of a command, if it has them. -/
def engOf : Instr → Option Eng
  | .cpyi _ _ _ _ e | .cpyo _ _ _ _ e | .cpyl _ _ _ e | .sdldCell _ _ _ e | .sdldCoup _ _ e | .sdldBridge _ _ e
  | .sdldClear e | .sdclpClamp _ _ _ e | .sdclpRelease _ _ _ e | .sdclpSet _ _ _ e | .sdswp _ _ _ _ e | .sdrd _ _ _ _ e
  | .sdcnt _ _ _ _ e | .sdseed _ e | .sdseedStore _ e | .sdtbl _ e | .sdbeta _ _ e | .sigs _ _ _ e | .codel _ _ e
  | .lsnd _ _ e | .lrcv _ _ e | .lred _ _ e | .hnfy _ _ e | .movc _ _ _ e | .tide _ e => some e
  | _ => none
/-- The tag that a command names (R214). -/
def tagOf (i : Instr) : Option Nat :=
  match i with
  | .trcv _ _ t _ => t.map (·.toNat)
  | .esnd _ _ _ _ _ t _ => some t.toNat
  | _ => (engOf i).map (·.tag.toNat)
/-- The dependency of a command (R216). -/
def depOf (i : Instr) : Option Nat :=
  match engOf i with
  | some e => e.dep.map (·.toNat)
  | none => none
/-- Bit t of a word. -/
def bitAt (t : Nat) : DWord := (1 : DWord) <<< t
/-- A command that names a tag issues: the bit is cleared and the count grows (R217). -/
def Ctx.tagIssue (x : Ctx) (i : Instr) : Ctx :=
  match tagOf i with
  | some t => { x with tags := x.tags &&& ~~~bitAt t, tagOut := put x.tagOut t (look 0 x.tagOut t + 1) }
  | none => x
/-- Tagged commands that are outstanding (R217). -/
def Ctx.tagged (x : Ctx) : Nat := total (x.tagOut.map (·.2))
/-- An outstanding count after one command ends. -/
def lessOne (m : Sparse Nat) (t : Nat) : Sparse Nat := if look 0 m t ≤ 1 then del m t else put m t (look 0 m t - 1)
/-- XVAL writes to the TAGS word of Rockpool entry e whose last cycle has come land before a completion of the same cycle (R217). -/
def Core.landPoolTags (c : Core) (now free e : Nat) : Core :=
  c.landAll free (sortBy landOrder (c.writes.filter fun w =>
    (match w.dst with | .pool f o _ => f == e && o == 0x130 | _ => false) && (match w.due with | some t => decide (t ≤ now) | none => false)))
/-- Writes to a context's TAGS whose last cycle has come land before a completion of the same cycle (R217). -/
def Core.landTags (c : Core) (now free n : Nat) : Core :=
  c.landAll free (sortBy landOrder (c.writes.filter fun w =>
    (w.dst == .tagsClear n || (match w.dst with | .spr k r _ => k == n && r == 0x09 | _ => false)) &&
    (match w.due with | some t => decide (t ≤ now) | none => false)))
/-- A command of context n ends: its tag's count falls, and at zero the bit is set; for an OUT context in its Rockpool entry (R217). -/
def Core.tagEnd (c : Core) (now free n : Nat) (i : Instr) : Core :=
  match tagOf i with
  | none => c
  | some t =>
    if n < 16 then
      (c.landTags now free n).onCtx n fun x =>
        let m := lessOne x.tagOut t
        { x with tagOut := m, tags := if look 0 m t = 0 then x.tags ||| bitAt t else x.tags }
    else
      let e := n - 16
      let m := lessOne (match find c.pool e with | some q => q.tagOut | none => []) t
      let c' := (c.landPoolTags now free e).onPool e fun q => { q with tagOut := m }
      if look 0 m t = 0 then c'.setWord (poolAddr e 0x130) (c'.word (poolAddr e 0x130) ||| bitAt t) else c'
/-- An engine command of context n ends: tag, hazard entries, and its place (R217, R225). -/
def State.engineDone (s : State) (p : Nat) (k : Cmd) : State :=
  let (q, n) := s.home p k.ctx
  let t := s.onCore p fun c =>
    let c := c.releaseHazards k.id
    { c with eq := c.eq.filter (·.id != k.id), eflight := c.eflight.filter (·.id != k.id),
             ewait := c.ewait.filter (·.id != k.id) }
  t.onCore q fun c => c.tagEnd s.now s.free n k.op
/-- A late fault of an engine command (R223, R329). -/
def State.engineFault (s : State) (p : Nat) (k : Cmd) (cause : Nat) (tval : DWord) : State :=
  s.lateFault p k.ctx ⟨.engine s.now ((tagOf k.op).getD 0), causeWord cause true 0 0 0, tval, s.now⟩

/-! ## The engine queue (R216) -/

/-- An engine command issues (R216, R217): its tag is cleared and counted, and it enters the queue or waits. -/
def State.nIssue (s : State) (i : Instr) (a b c : DWord) (foot : List Region) (footed : Bool) : State :=
  let n := s.frame.ctx
  let t := s.onCur fun x => x.tagIssue i
  t.submit (s.newCmd i a b c foot) footed false fun c =>
    decide (32 ≤ c.eq.length) || ((tagOf i).isSome && decide (64 < (c.ctx n).tagged))
/-- ENGINE_QUEUE_ENTER (R195, R216, R225, R332): the first waiting command of a context enters the hazard table and the queue as each has room, and a context parked for it leaves PARK. -/
def execEngineQueueEnter (core ctx : Nat) (s : State) : Out :=
  event (fun s =>
    let c := s.core core
    match c.firstWaiting ctx false with
    | none => s
    | some k =>
      let t := s.onCore core fun c => c.tryEnter k
      if decide (32 ≤ c.eq.length) || !(t.core core).entered k || ((tagOf k.op).isSome && decide (64 < (c.ctx ctx).tagged)) then t else
      (t.onCore core fun c => { c with eq := c.eq ++ [k], ewait := c.ewait.filter (·.id != k.id) }).onCtx core ctx
        fun x => x.onPark k.id fun q => { q with ended := .done }) s

/-! ## Copies at issue (R219 to R221) -/

/-- A copy's shape (R219). -/
structure Shape where
  sstr : Int
  dstr : Int
  rows : Nat
  rowb : Nat
  deriving DecidableEq, Repr
/-- The fields of a shape register. -/
def shapeOf (c : DWord) : Shape :=
  ⟨(c.extractLsb' 46 18).toInt, (c.extractLsb' 28 18).toInt, (c.extractLsb' 16 12).toNat + 1, (c.extractLsb' 0 16).toNat⟩
/-- A shape outside R219. -/
def Shape.bad (z : Shape) : Bool := z.rowb == 0 || z.rowb % 8 != 0
/-- Row addresses of a virtual side, in units of 64 bytes (R219, R220). -/
def virtRow (a : DWord) (str : Int) (r : Nat) : DWord := a + BitVec.ofInt 64 ((r : Int) * str * 64)
/-- Row offset of a local side within its store, in units of 8 bytes. -/
def localRow (a : DWord) (str : Int) (r : Nat) : Int := (laddrOf a : Int) + (r : Int) * str * 8
/-- Row address of a local side: bits [63:19] of its address stand. -/
def localRowAddr (a : DWord) (str : Int) (r : Nat) : DWord := a + BitVec.ofInt 64 ((r : Int) * str * 8)
/-- The sides of a copy: destination and source, each with its stride; true for a Cliffstack side. -/
def copySides (i : Instr) (a b c : DWord) : (DWord × Int × Bool) × (DWord × Int × Bool) :=
  let z := shapeOf c
  match i with
  | .cpyi _ _ _ _ _ => ((a, z.dstr, false), (b, z.sstr, true))
  | .cpyo _ _ _ _ _ => ((a, z.dstr, true), (b, z.sstr, false))
  | _ => ((a, z.dstr, false), (b, z.sstr, false))
/-- A virtual row with bits [63:48] of some byte not zero. -/
def virtBad (a : DWord) (str : Int) (z : Shape) (last : Bool) (r : Nat) : Bool :=
  let v := virtRow a str r
  (v.extractLsb' 48 16 != 0) || (last && (v + BitVec.ofNat 64 (z.rowb - 1)).extractLsb' 48 16 != 0)
/-- The first row, if any, for which a test holds. -/
def firstRow (z : Shape) (f : Nat → Bool) : Option Nat := firstOf f (upTo z.rows)
/-- A local side's bounding range as a region (R225). -/
def boundRegion (a : DWord) (str : Int) (z : Shape) (wr : Bool) : Region :=
  let r0 := localRow a str 0
  let r1 := localRow a str (z.rows - 1)
  let lo := min r0 r1
  let hi := max r0 r1 + z.rowb
  ⟨lo.toNat, (hi - lo).toNat, wr⟩
/-- The checks of R221 on one local-store side: refused remote addresses. -/
def State.sideRemote (s : State) (d : DWord × Int × Bool) (z : Shape) (may : Bool) (rest : Option Trap) : Option Trap :=
  let n := s.frame.ctx
  let a := d.1
  if d.2.2 || !isRemote a || !may then rest else
  Trap.orIf (n != 0 && isPhys a) ⟨13, 0x04, a⟩ <|
  Trap.orIf (!remoteForm a || (s.here.target n a).isNone) ⟨13, 0x08, a⟩ <|
  match firstRow z fun r =>
      let l := localRow a d.2.1 r
      decide (l < 0) || decide (0x70000 < l + z.rowb) with
  | some r => some ⟨13, 0x08, localRowAddr a d.2.1 r⟩
  | none => rest
/-- The checks of R221 on one local-store side: a local region of this core. Model's choice: TVAL is the start of the first row that fails (log 72). -/
def State.sideLocal (s : State) (d : DWord × Int × Bool) (z : Shape) (mayRemote : Bool) (rest : Option Trap) : Option Trap :=
  let a := d.1
  if d.2.2 || (isRemote a && mayRemote) then rest else
  match firstRow z fun r =>
      let v := localRowAddr a d.2.1 r
      isRemote v || (Core.regionFault s.frame.ctx none v z.rowb).isSome with
  | some r => some ⟨13, 0x06, localRowAddr a d.2.1 r⟩
  | none => rest
/-- The checks of a copy (R51, R221). -/
def State.copyCheck (s : State) (i : Instr) (a b c : DWord) : Option Trap :=
  let z := shapeOf c
  let (d, q) := copySides i a b c
  let srcRemote := match i with | .cpyl _ _ _ _ => true | _ => false
  let virt (d : DWord × Int × Bool) (rest : Option Trap) : Option Trap :=
    if !d.2.2 then rest else
    match firstRow z (virtBad d.1 d.2.1 z true) with
    | some r => some ⟨13, 0x11, virtRow d.1 d.2.1 r⟩
    | none => rest
  let odd (d : DWord × Int × Bool) (rest : Option Trap) : Option Trap :=
    Trap.orIf (d.1.toNat % 8 != 0) ⟨13, 0x07, d.1⟩ rest
  Trap.orIf z.bad ⟨13, 0x03, c⟩ <|
  virt d <| virt q <|
  s.sideRemote d z true <| s.sideRemote q z srcRemote <|
  s.sideLocal d z true <| s.sideLocal q z srcRemote <|
  odd d <| odd q <| s.passedCheck (Instr.start i) none
/-- The local regions of a copy (R225). -/
def copyRegions (i : Instr) (a b c : DWord) : List Region :=
  let z := shapeOf c
  let (d, q) := copySides i a b c
  (if q.2.2 || isRemote q.1 then [] else [boundRegion q.1 q.2.1 z false]) ++
  (if d.2.2 || isRemote d.1 then [] else [boundRegion d.1 d.2.1 z true])
/-- The shape of a copy's meaning. -/
def copyOp (i : Instr) (a b c : SReg) : State → Out :=
  operation i (fun s => s.copyCheck i (s.rx a) (s.rx b) (s.rx c))
    (fun s => s.nIssue i (s.rx a) (s.rx b) (s.rx c) (copyRegions i (s.rx a) (s.rx b) (s.rx c)) true)
/-- CPYI (R220). -/
def execCpyi (a b c : SReg) (p : Bool) (e : Eng) (s : State) : Out := copyOp (.cpyi a b c p e) a b c s
/-- CPYO (R220). -/
def execCpyo (a b c : SReg) (p : Bool) (e : Eng) (s : State) : Out := copyOp (.cpyo a b c p e) a b c s
/-- CPYL (R220). -/
def execCpyl (a b c : SReg) (e : Eng) (s : State) : Out := copyOp (.cpyl a b c e) a b c s

/-! ## FOOT (R226) -/

/-- The region that FOOT declares. -/
def footRegion (a b : DWord) (wr : Bool) : Region := ⟨laddrOf a, b.toNat, wr⟩
/-- A matrix command of the bundle being issued that has a footprint. -/
def State.footTarget (s : State) : Option Nat :=
  firstOf (fun id => match cmdOf (s.here.mq ++ s.here.mwait) id with | some k => !k.foot.isEmpty | none => false) s.frame.cmds
/-- FOOT's region attaches to a command of its own bundle, or waits for the next. -/
def State.placeFoot (s : State) (r : Region) : State :=
  match s.footTarget with
  | some id => s.onHere fun c => c.attach id r
  | none => s.onCur fun x => { x with foot := x.foot ++ [(r, 1)] }
/-- FOOT (R226): it parks while the hazard table has no free entry. Model's choice: TVAL of a third FOOT's 0x03 is the length register (log 72). -/
def execFoot (a b : SReg) (wr : Bool) (s : State) : Out :=
  operation (.foot a b wr) (fun s =>
    let n := (s.rx b).toNat
    Trap.orIf (isRemote (s.rx a)) ⟨13, 0x08, s.rx a⟩ <|
    Trap.orIf (n == 0 || decide (524288 < n)) ⟨13, 0x03, s.rx b⟩ <|
    Trap.orIf (decide (2 ≤ s.cur.foot.length)) ⟨13, 0x03, s.rx b⟩ <|
    match Core.regionFault s.frame.ctx none (s.rx a) n with
    | some v => some ⟨13, 0x06, v⟩
    | none => none)
    (fun s =>
      if s.here.hazardRoom 1 then s.placeFoot (footRegion (s.rx a) (s.rx b) wr)
      else { (s.parkAs .queueFull (.foot a b wr) (s.rx a) (s.rx b) 0 s.ids) with ids := s.ids + 1 }) s

/-! ## Tag waits (R218) -/

/-- TAGS as an operation of this cycle sees it. -/
def State.tagsNow (s : State) : DWord :=
  if s.here.early s.now (.tagsClear s.frame.ctx) || s.here.early s.now (.spr s.frame.ctx 0x09 0) then s.anyWord 500 else s.cur.tags
/-- Dead tags of a mask: bit 0 and nothing outstanding (R218). -/
def Ctx.deadTags (x : Ctx) (tags mask : DWord) : List Nat :=
  (upTo 64).filter fun t => mask.getLsbD t && !tags.getLsbD t && look 0 x.tagOut t == 0
/-- The lowest set bit below 64. -/
def lowestBit (v : DWord) : Nat := trailZeros v
/-- The check of TWAIT and TANY: a wait that could never end (R218). -/
def State.deadCheck (s : State) (mask : DWord) (all : Bool) : Option Trap :=
  let dead := s.cur.deadTags s.tagsNow mask
  let ends := if all then dead.isEmpty else dead.length != popCount mask
  match dead with
  | [] => none
  | t :: _ => if ends then none else some ⟨13, 0x03, BitVec.ofNat 64 t⟩
/-- TWAIT (R218). -/
def execTwait (a : SReg) (s : State) : Out :=
  operation (.twait a) (fun s => s.deadCheck (s.rx a) true) (fun s =>
    let m := s.rx a
    if s.tagsNow &&& m = m then s
    else { (s.parkAs .tags (.twait a) m 0 0 s.ids) with ids := s.ids + 1 }) s
/-- TANY (R218). -/
def execTany (a b : SReg) (s : State) : Out :=
  operation (.tany a b) (fun s => badValue (s.rx a == 0) (s.rx a) (s.deadCheck (s.rx a) false)) (fun s =>
    let m := s.rx a
    if s.tagsNow &&& m ≠ 0 then s.wx b (BitVec.ofNat 64 (lowestBit (s.tagsNow &&& m))) 1
    else { ((s.oweX b s.ids).parkAs .tags (.tany a b) m 0 0 s.ids) with ids := s.ids + 1 }) s
/-- TFFR (R218). -/
def execTffr (a b : SReg) (s : State) : Out :=
  operation (.tffr a b) noCheck (fun s => s.wx b (BitVec.ofNat 64 (lowestBit (s.tagsNow &&& s.rx a))) 1) s
/-- TCLR (R218). -/
def execTclr (a : SReg) (s : State) : Out :=
  operation (.tclr a) noCheck (fun s => s.write (.tagsClear s.frame.ctx) (.word (s.rx a)) 1) s

/-! ## Eddy messages (R229, R230) -/

/-- The physical core that the core field of ESND and SPAWN names, if the issuer may reach it: the armed target of a migration is as in the reach (R284). -/
def Core.fieldTarget (c : Core) (n : Nat) (a : DWord) : Option Nat :=
  let k := a.toNat % 65536
  if a.getLsbD 16 then (if physValid k && (c.launches.any (fun l => k ∈ l.map) || c.armed == some k) then some k else none) else c.physOfLogical n k
/-- ESND (R229). -/
def execEsnd (a b c : SReg) (mb : BitVec 7) (wake : Bool) (tag : BitVec 6) (st : Start) (s : State) : Out :=
  operation (.esnd a b c mb wake tag st) (fun s =>
    let n := (s.rx c).toNat
    Trap.orIf (s.frame.ctx != 0 && (s.rx a).getLsbD 16) ⟨13, 0x04, s.rx a⟩ <|
    Trap.orIf (decide (n < 8) || decide (64 < n) || n % 8 != 0) ⟨13, 0x03, s.rx c⟩ <|
    Trap.orIf (s.here.fieldTarget s.frame.ctx (s.rx a)).isNone ⟨13, 0x08, s.rx a⟩ <|
    Trap.orIf (isRemote (s.rx b)) ⟨13, 0x06, s.rx b⟩ <|
    match Core.regionFault s.frame.ctx none (s.rx b) n with
    | some v => some ⟨13, 0x06, v⟩
    | none => Trap.orIf ((s.rx b).toNat % 8 != 0) ⟨13, 0x07, s.rx b⟩ (s.passedCheck st none))
    (fun s => s.nIssue (.esnd a b c mb wake tag st) (s.rx a) (s.rx b) (s.rx c) [] false) s
/-- ERCV (R230): it parks until a message of its mailbox is written. -/
def execErcv (a b : SReg) (mb : BitVec 7) (s : State) : Out :=
  operation (.ercv a b mb) (fun s =>
    Trap.orIf (isRemote (s.rx a)) ⟨13, 0x06, s.rx a⟩ <|
    match Core.regionFault s.frame.ctx (some (s.here.banksOf s.frame.ctx)) (s.rx a) 8 with
    | some v => some ⟨13, 0x06, v⟩
    | none => Trap.orIf ((s.rx a).toNat % 8 != 0) ⟨13, 0x07, s.rx a⟩ none)
    (fun s => { ((s.oweX b s.ids).parkAs .ercv (.ercv a b mb) (s.rx a) 0 0 s.ids) with ids := s.ids + 1 }) s

/-! ## Barriers (R231) -/

/-- A barrier request to the shore's unit: the context parks until it answers. -/
def State.barrierRequest (s : State) (i : Instr) (a : DWord) : State :=
  let p := s.frame.core
  let n := s.frame.ctx
  let (id, t) := s.send p n (shoreUnit (shoreKey p)) 0 (.barrier i a) 0 (s.here.launchId n)
  (t.oweAll i id).parkAs .eddy i 0 a 0 id
/-- BARI (R231). -/
def execBari (a : SReg) (bar : BitVec 5) (s : State) : Out :=
  operation (.bari a bar) noCheck (fun s => s.barrierRequest (.bari a bar) (s.rx a)) s
/-- BARW (R231). -/
def execBarw (a : SReg) (bar : BitVec 5) (s : State) : Out :=
  operation (.barw a bar) noCheck (fun s => s.barrierRequest (.barw a bar) (s.rx a)) s
/-- BARA (R231). -/
def execBara (b : SReg) (bar : BitVec 5) (wait : Bool) (s : State) : Out :=
  operation (.bara b bar wait) noCheck (fun s => s.barrierRequest (.bara b bar wait) 0) s

/-! ## Rings (R232 to R234) -/

/-- The header of a ring in the core's table (R232). -/
def Core.ring (c : Core) (r : Nat) : Option Nat := find c.rings r
/-- A word at an address that a ring's words hold. -/
def Core.at (c : Core) (a : DWord) (off : Nat) : DWord := c.word ((laddrOf a + off) % 2 ^ 19)
/-- A 16-bit count of a segment: CAP 8, RD 16, WR 24 (R232). -/
def Core.segCount (c : Core) (seg : DWord) (off : Nat) : Nat := (c.at seg off).toNat % 65536
/-- A word written at an address of a ring. -/
def Core.putAt (c : Core) (a : DWord) (off : Nat) (v : DWord) : Core := c.storeBytes ((laddrOf a + off) % 2 ^ 19) 8 v.toNat
/-- A 16-bit count of a segment written. -/
def Core.setCount (c : Core) (seg : DWord) (off n : Nat) : Core :=
  c.putAt seg off (((c.at seg off).extractLsb' 16 48) ++ BitVec.ofNat 16 n)
/-- The address of a ring's word. -/
def ringAddr (a : DWord) (off : Nat) : Nat := (laddrOf a + off) % 2 ^ 19
/-- Words that an RPSH on the ring with header h touches, and those that it writes (R233, R299). -/
def Core.pushWords (c : Core) (h : Nat) : List Nat × List Nat :=
  let hd := BitVec.ofNat 64 h
  let t := c.at hd 8
  let wr := c.segCount t 24
  if wr < c.segCount t 8 then
    let w := [ringAddr t (32 + 8 * wr), ringAddr t 24]
    ([ringAddr hd 8, ringAddr t 8] ++ w, w)
  else
    let n := c.at t 0
    let w := if n ≠ c.at hd 0 && c.segCount n 24 = 0 then [ringAddr hd 8, ringAddr n 32, ringAddr n 24] else []
    ([ringAddr hd 8, ringAddr t 8, ringAddr t 24, ringAddr t 0, ringAddr hd 0, ringAddr n 24] ++ w, w)
/-- As `pushWords`, for an RPOP. -/
def Core.popWords (c : Core) (h : Nat) : List Nat × List Nat :=
  let hd := BitVec.ofNat 64 h
  let g := c.at hd 0
  let rd := c.segCount g 16
  if rd < c.segCount g 24 then
    let w := if rd + 1 = c.segCount g 8 then
        [ringAddr g 16, ringAddr g 24] ++ (if g ≠ c.at hd 8 then [ringAddr hd 0] else [])
      else [ringAddr g 16]
    ([ringAddr hd 0, ringAddr hd 8, ringAddr g 24, ringAddr g 8, ringAddr g 0, ringAddr g (32 + 8 * rd)] ++ w, w)
  else ([ringAddr hd 0, ringAddr g 16, ringAddr g 24], [])
/-- RPSH on the ring with header h (R233); none on overflow. -/
def Core.ringPush (c : Core) (h : Nat) (v : DWord) : Option Core :=
  let hd := BitVec.ofNat 64 h
  let t := c.at hd 8
  let wr := c.segCount t 24
  if wr < c.segCount t 8 then some ((c.putAt t (32 + 8 * wr) v).setCount t 24 (wr + 1))
  else
    let n := c.at t 0
    if n ≠ c.at hd 0 && c.segCount n 24 = 0 then
      some (((c.putAt hd 8 n).putAt n 32 v).setCount n 24 1)
    else none
/-- RPOP on the ring with header h (R233); none when it is empty. -/
def Core.ringPop (c : Core) (h : Nat) : Option (Core × DWord) :=
  let hd := BitVec.ofNat 64 h
  let g := c.at hd 0
  let rd := c.segCount g 16
  if rd < c.segCount g 24 then
    let v := c.at g (32 + 8 * rd)
    let c1 := c.setCount g 16 (rd + 1)
    if rd + 1 = c.segCount g 8 then
      let c2 := (c1.setCount g 16 0).setCount g 24 0
      some (if g ≠ c.at hd 8 then c2.putAt hd 0 (c.at g 0) else c2, v)
    else some (c1, v)
  else none
/-- Words used at port A, and written by a context of core p (R131, R299). -/
def Core.usePort (c : Core) (p n : Nat) (ws : List Nat × List Nat) : Core :=
  { c with used := c.used ++ ws.1.map bankOf }.noteWriter ws.2 p n
/-- Watch slots that wait for a ring are re-tested (R147, R234). -/
def Core.touchRing (c : Core) (r : Nat) : Core :=
  { c with watches := c.watches.map fun w => match w.pkt.body with
    | .ringPop q => if q = r then { w with retest := max 1 w.retest } else w
    | _ => w }
/-- A successful push into ring r of a core: C0 may be told of an overflow again, and waiting RPOPs are re-tested (R234). -/
def Core.pushed (c : Core) (r : Nat) : Core := { c with ringTold := c.ringTold.filter (· != r) }.touchRing r
/-- TVAL of a ring's limit and overflow (R234). -/
def Core.ringTval (c : Core) (r h : Nat) : DWord :=
  let hd := BitVec.ofNat 64 h
  BitVec.ofNat 16 (c.segCount (c.at hd 0) 16) ++ BitVec.ofNat 16 (c.segCount (c.at hd 8) 24) ++ (0 : BitVec 27) ++ BitVec.ofNat 5 r
/-- The checks of a ring operation (R233). The table is the launch's, the same on each of its cores (R232, R412), so the issuing core's own says whether the id has a header, and the trap is precise. Model's choice (log 73): TVAL holds the ring id, and this check comes before those of the address. -/
def State.ringCheck (s : State) (c : SReg) (r : BitVec 5) : Option Trap :=
  let a := s.rx c
  Trap.orIf (s.here.ring r.toNat).isNone ⟨13, 0x03, r.setWidth 64⟩ <|
  if c = 0 then none else
  Trap.orIf (s.frame.ctx != 0 && isRemote a && isPhys a) ⟨13, 0x04, a⟩ <|
  Trap.orIf (!isRemote a || !remoteForm a || laddrOf a != 0 || (s.here.target s.frame.ctx a).isNone) ⟨13, 0x08, a⟩ none
/-- A ring request to another core. -/
def State.ringRequest (s : State) (i : Instr) (c : SReg) (b : DWord) (body : Body) : State :=
  let p := s.frame.core
  let n := s.frame.ctx
  let (id, t) := s.send p n ((s.here.target n (s.rx c)).getD p) 0 body 0 (s.here.launchId n)
  (t.oweAll i id).parkAs .eddy i (s.rx c) b (match body with | .ringPush _ v => v | _ => 0) id
/-- RPSH (R233, R234). -/
def execRpsh (a c : SReg) (r : BitVec 5) (s : State) : Out :=
  operation (.rpsh a c r) (fun s => s.ringCheck c r) (fun s =>
    if c = 0 then s.turnOp (.rpsh a c r) (s.rx a) 0 0
    else s.ringRequest (.rpsh a c r) c 0 (.ringPush r.toNat (s.rx a))) s
/-- RPOP (R233, R234). -/
def execRpop (a b c : SReg) (r : BitVec 5) (s : State) : Out :=
  operation (.rpop a b c r) (fun s => s.ringCheck c r) (fun s =>
    if c = 0 then s.turnOp (.rpop a b c r) 0 (s.rx b) 0
    else s.ringRequest (.rpop a b c r) c (s.rx b) (.ringPop r.toNat)) s
/-- The limit of an RPOP in PARK turns: none for 0 (R234). -/
def rpopLimit (b : DWord) : Option Nat := if b = 0 then none else some ((b.toNat + 15) / 16)
/-- RPOP_LIMIT_EXPIRY (R234): at the end of the limit's last PARK turn, trap 0x0D. -/
def execRpopLimitExpiry (core ctx : Nat) (s : State) : Out :=
  event (fun s =>
    let x := s.ctx core ctx
    if x.st ≠ .park then s else
    x.parks.foldl (fun s k =>
      match k.op, rpopLimit k.b with
      | .rpop _ _ _ r, some l =>
        if k.ended == .waiting && !k.cancelled && decide (l ≤ k.turns) then
          let c := s.core (if k.kind == .eddy then s.waitTarget core ctx k else core)
          s.giveUp core ctx k 0x0D (c.ringTval r.toNat ((c.ring r.toNat).getD 0))
        else s
      | _, _ => s) s) s

/-! ## Signals (R235, R236) -/

/-- The word after SIGS (R235). -/
def signalVal (op : SigOp) (w b : DWord) : DWord :=
  match op with
  | .set => b
  | .add => w + b
  | .max => if w.ult b then b else w
/-- The checks of R221, orders 3 to 5, on one word: the whole of it is looked at. -/
def State.wordCheck (s : State) (a : DWord) (rest : Option Trap) : Option Trap :=
  let n := s.frame.ctx
  Trap.orIf (n != 0 && isRemote a && isPhys a) ⟨13, 0x04, a⟩ <|
  Trap.orIf (isRemote a && (!remoteForm a || (s.here.target n a).isNone || decide (0x70000 < laddrOf a + 8))) ⟨13, 0x08, a⟩ <|
  Trap.orIf (!isRemote a && (Core.regionFault n none a 8).isSome) ⟨13, 0x06, a⟩ <|
  Trap.orIf (a.toNat % 8 != 0) ⟨13, 0x07, a⟩ rest
/-- SIGS (R235). A remote one has no footprint, and takes no FOOT region (R225, R226). -/
def execSigs (a b : SReg) (op : SigOp) (e : Eng) (s : State) : Out :=
  operation (.sigs a b op e) (fun s => s.wordCheck (s.rx a) (s.passedCheck e.start none)) (fun s =>
    let foot := if isRemote (s.rx a) then [] else [(⟨laddrOf (s.rx a), 8, true⟩ : Region)]
    s.nIssue (.sigs a b op e) (s.rx a) (s.rx b) 0 foot (!foot.isEmpty)) s
/-- SWAIT (R236). At issue a local one compares the word as it was before the bundle's own store (R44). -/
def execSwait (a b c : SReg) (cond : Cond) (s : State) : Out :=
  operation (.swait a b c cond) (fun s => s.checkAddr (s.rx a) 8 false none) (fun s =>
    let i : Instr := .swait a b c cond
    let o : LOperands := ⟨s.rx a, s.rx b, 0, 0⟩
    if isRemote o.a then s.remoteAccess i o
    else
      let s := s.onHere fun c => { c with used := c.used ++ [bankOf (laddrOf o.a)] }
      let v := s.here.wordBefore (laddrOf o.a)
      if condHolds cond v o.b then s.result i (.word v) 1 else
      let (id, t) := s.newId
      (t.oweAll i id).parkAs .retry i o.a o.b 0 id) s

/-! ## Bank hand-over (R239) -/

/-- The banks of a set of 16 that hold some byte of a region. -/
def regionBanks (r : Region) : Half :=
  (wordsOf [(r.lo, r.len)]).foldl (fun m w => if w < 0x70000 then m ||| ((1 : Half) <<< bankOf w) else m) 0
/-- A region of a hazard-table entry or of a queued or started command lies in the banks of a mask (R239). -/
def Core.banksBusy (c : Core) (mask : Half) : Bool :=
  (c.hazards.any fun h => regionBanks h.region &&& mask != 0) ||
  (c.eq.any fun k => k.regions.any fun r => regionBanks r &&& mask != 0) ||
  ((c.mq ++ c.mflight ++ c.eflight).any fun k => k.foot.any fun r => regionBanks r &&& mask != 0)
/-- The banks that no launch of the core owns. -/
def Core.freeBanks (c : Core) : Half := ~~~(c.launches.foldl (fun m l => m ||| l.own) 0)
/-- The banks that contexts of a launch wait for with BANKW. -/
def Core.bankWants (c : Core) (l : CoreLaunch) : Half :=
  c.ctxs.foldl (fun m kx =>
    if kx.2.launch = some l.id.toNat then
      kx.2.parks.foldl (fun m k => match k.op, k.ended with
        | .bankw _, .waiting => m ||| k.a.setWidth 16
        | _, _ => m) m
    else m) 0
/-- Free banks pass to the launches, but for the releasing one, that name them and wait for them, the first launch first (R239). -/
def grantFree (from_ : Option (BitVec 32)) (free : Half) (wants : CoreLaunch → Half) : List CoreLaunch → List CoreLaunch
  | [] => []
  | l :: t =>
    let g := if some l.id = from_ then 0 else free &&& wants l &&& (l.claim ||| l.handover)
    { l with own := l.own ||| g } :: grantFree from_ (free &&& ~~~g) wants t
/-- BANKR's banks are released, and pass on in the same cycle (R239). -/
def Core.releaseBanks (c : Core) (n : Nat) (mask : Half) : Core :=
  let mine := (c.launchOf n).map (·.id)
  let c' := { c with launches := c.launches.map fun (l : CoreLaunch) => if some l.id = mine then { l with own := l.own &&& ~~~mask } else l }
  { c' with launches := grantFree mine (mask &&& c'.freeBanks) c'.bankWants c'.launches }
/-- A BANKW takes the free banks that it names and its launch may have. -/
def Core.takeBanks (c : Core) (n : Nat) (mask : Half) : Core :=
  let mine := (c.launchOf n).map (·.id)
  { c with launches := c.launches.map fun (l : CoreLaunch) =>
      if some l.id = mine then { l with own := l.own ||| (c.freeBanks &&& mask &&& (l.claim ||| l.handover)) } else l }
/-- BANKR has nothing left to wait for: what it names and its launch owns is in no region. -/
def Core.bankrReady (c : Core) (n : Nat) (mask : Half) : Bool := !c.banksBusy (mask &&& c.banksOf n)
/-- BANKR (R239). -/
def execBankr (a : SReg) (s : State) : Out :=
  operation (.bankr a) noCheck (fun s =>
    let m : Half := (s.rx a).setWidth 16
    if s.here.bankrReady s.frame.ctx m then s.onHere fun c => c.releaseBanks s.frame.ctx (m &&& c.banksOf s.frame.ctx)
    else { (s.parkAs .bank (.bankr a) (s.rx a) 0 0 s.ids) with ids := s.ids + 1 }) s
/-- BANKW (R239). -/
def execBankw (a : SReg) (s : State) : Out :=
  operation (.bankw a) noCheck (fun s =>
    let m : Half := (s.rx a).setWidth 16
    let t := s.onHere fun c => c.takeBanks s.frame.ctx m
    if t.here.banksOf s.frame.ctx &&& m = m then t
    else { (t.parkAs .bank (.bankw a) (s.rx a) 0 0 s.ids) with ids := s.ids + 1 }) s
/-- BANK_HANDOVER (R239): waiting BANKRs whose banks are idle release them; waiting BANKWs that own theirs are over. -/
def execBankHandover (core : Nat) (s : State) : Out :=
  event (fun s =>
    (keys (s.core core).ctxs).foldl (fun s n =>
      if (s.ctx core n).st ≠ .park then s else
      (s.ctx core n).parks.foldl (fun s k =>
        let m : Half := k.a.setWidth 16
        if k.ended != .waiting then s else
        match k.op with
        | .bankr _ =>
          if (s.core core).bankrReady n m then
            (s.onCore core fun c => c.releaseBanks n (m &&& c.banksOf n)).endWait core n k.id none
          else s
        | .bankw _ =>
          let t := s.onCore core fun c => c.takeBanks n m
          if (t.core core).banksOf n &&& m = m then t.endWait core n k.id none else t
        | _ => s) s) s) s

end Sys2Proof.Machine
end

