-- ==== Sys2Proof/Machine/Spindrift.lean ====
section
/-! DEFINITION. Spindrift coves (spec/10_spindrift_array.md R241 to R260): the checks of their commands, the two lanes, records, sweeps and readouts. -/
namespace Sys2Proof.Machine

/-! ## Coves (R241 to R243) -/

/-- A cove by 64 × die + shore. -/
def State.cove (s : State) (k : Nat) : Cove := look Cove.reset s.coves k
/-- The state with a cove changed. -/
def State.onCove (s : State) (k : Nat) (f : Cove → Cove) : State := { s with coves := put s.coves k (f (s.cove k)) }
/-- A cell of a cove. -/
def Cove.cell (v : Cove) (i : Nat) : CoveCell := look CoveCell.reset v.cells i
/-- A cell changed. -/
def Cove.onCell (v : Cove) (i : Nat) (f : CoveCell → CoveCell) : Cove := { v with cells := put v.cells i (f (v.cell i)) }
/-- The neighbour in a direction: north, east, south, west (R241). -/
def coveNeighbour (k dir : Nat) : Option Nat :=
  let d := k / 64
  let s := k % 64
  match dir with
  | 0 => if 8 ≤ s then some (64 * d + s - 8) else none
  | 1 => if s % 8 < 7 then some (k + 1) else none
  | 2 => if s < 56 then some (k + 8) else none
  | _ => if s % 8 = 0 then none else some (k - 1)
/-- The owner of a core's cove, if a launch gave it one. -/
def State.coveOwner (s : State) (p : Nat) : Option Nat := (s.cove (shoreKey p)).owner.map (·.1)

/-! ## Checks and issue (R242, R250, R251) -/

/-- A Spindrift command. -/
def isSd : Instr → Bool
  | .sdldCell _ _ _ _ | .sdldCoup _ _ _ | .sdldBridge _ _ _ | .sdldClear _ | .sdclpClamp _ _ _ _ | .sdclpRelease _ _ _ _
  | .sdclpSet _ _ _ _ | .sdswp _ _ _ _ _ | .sdrd _ _ _ _ _ | .sdcnt _ _ _ _ _ | .sdseed _ _ | .sdseedStore _ _ | .sdtbl _ _
  | .sdbeta _ _ _ => true
  | _ => false
/-- The local region of a command, with its alignment: address, bytes, written, alignment (R252 to R258). -/
def sdRegion (i : Instr) (a b c : DWord) : Option (DWord × Nat × Bool × Nat) :=
  match i with
  | .sdldCell _ _ _ _ | .sdldCoup _ _ _ | .sdldBridge _ _ _ => some (a, 8 * b.toNat, false, 8)
  | .sdrd _ _ _ _ _ => some (a, 8 * c.toNat, true, 8)
  | .sdcnt _ _ _ _ _ => some (a, 2 * c.toNat, true, 8)
  | .sdseedStore _ _ => some (a, 8, true, 8)
  | .sdtbl _ _ => some (a, 1024, false, 32)
  | .sdbeta _ _ _ => some (a, 2 * b.toNat, false, 8)
  | _ => none
/-- The limits of a command's register values (R252 to R258). -/
def sdLimits (i : Instr) (a b c : DWord) (rest : Option Trap) : Option Trap :=
  let out (v : DWord) (lo hi : Nat) : Bool := decide (v.toNat < lo) || decide (hi < v.toNat)
  match i with
  | .sdldCell _ _ _ _ => badValue (out c 0 511) c (badValue (out b 1 (512 - c.toNat)) b rest)
  | .sdldCoup _ _ _ => badValue (out b 1 8192) b rest
  | .sdldBridge _ _ _ => badValue (out b 1 4096) b rest
  | .sdclpClamp _ _ _ _ | .sdclpRelease _ _ _ _ | .sdclpSet _ _ _ _ => badValue (out a 0 448 || a.toNat % 64 != 0) a rest
  | .sdswp _ _ _ _ _ => badValue (out a 1 4096) a (badValue (out b 0 15) b rest)
  | .sdrd _ _ _ _ _ => badValue (out b 0 511 || b.toNat % 64 != 0) b (badValue (out c 1 (8 - b.toNat / 64)) c rest)
  | .sdcnt _ _ _ _ _ =>
    badValue (out b 0 511 || b.toNat % 4 != 0) b (badValue (out c 4 (512 - b.toNat) || c.toNat % 4 != 0) c rest)
  | .sdbeta _ _ _ => badValue (out b 1 16) b rest
  | _ => rest
/-- The address checks of a command (R251), its banks' ownership among them (R31). -/
def State.sdAddress (s : State) (r : Option (DWord × Nat × Bool × Nat)) (rest : Option Trap) : Option Trap :=
  match r with
  | none => rest
  | some (a, len, _, align) =>
    Trap.orIf (isRemote a) ⟨13, 0x08, a⟩ <|
    Trap.orIf (Core.regionFault s.frame.ctx (some (s.here.banksOf s.frame.ctx)) a len).isSome ⟨13, 0x06, a⟩ <|
    Trap.orIf (a.toNat % align != 0) ⟨13, 0x07, a⟩ rest
/-- The checks of a Spindrift command (R51, R242, R251). -/
def State.sdCheck (s : State) (i : Instr) (a b c : DWord) : Option Trap :=
  let p := s.frame.core
  let owner := if isOrdinary p then s.coveOwner p else none
  Trap.orIf (owner != some p) ⟨13, 0x15, BitVec.ofNat 64 (owner.getD 0xFFFF)⟩ <|
  sdLimits i a b c <|
  s.sdAddress (sdRegion i a b c) <| s.passedCheck (Instr.start i) none
/-- The shape of a Spindrift command's meaning: it enters the engine queue (R248). -/
def sdOp (i : Instr) (a b c : SReg) : State → Out :=
  operation i (fun s => s.sdCheck i (s.rx a) (s.rx b) (s.rx c)) (fun s =>
    let foot := match sdRegion i (s.rx a) (s.rx b) (s.rx c) with
      | some (v, n, wr, _) => [(⟨laddrOf v, n, wr⟩ : Region)]
      | none => []
    s.nIssue i (s.rx a) (s.rx b) (s.rx c) foot (!foot.isEmpty))
/-- SDLD cell (R252). -/
def execSdldCell (a b c : SReg) (e : Eng) (s : State) : Out := sdOp (.sdldCell a b c e) a b c s
/-- SDLD coup (R252). -/
def execSdldCoup (a b : SReg) (e : Eng) (s : State) : Out := sdOp (.sdldCoup a b e) a b 0 s
/-- SDLD bridge (R252). -/
def execSdldBridge (a b : SReg) (e : Eng) (s : State) : Out := sdOp (.sdldBridge a b e) a b 0 s
/-- SDLD clear (R252). -/
def execSdldClear (e : Eng) (s : State) : Out := sdOp (.sdldClear e) 0 0 0 s
/-- SDCLP clamp (R253). -/
def execSdclpClamp (a b c : SReg) (e : Eng) (s : State) : Out := sdOp (.sdclpClamp a b c e) a b c s
/-- SDCLP release (R253). -/
def execSdclpRelease (a b c : SReg) (e : Eng) (s : State) : Out := sdOp (.sdclpRelease a b c e) a b c s
/-- SDCLP set (R253). -/
def execSdclpSet (a b c : SReg) (e : Eng) (s : State) : Out := sdOp (.sdclpSet a b c e) a b c s
/-- SDSWP (R254). -/
def execSdswp (a b : SReg) (ent br : Bool) (e : Eng) (s : State) : Out := sdOp (.sdswp a b ent br e) a b 0 s
/-- SDRD (R255). -/
def execSdrd (a b c : SReg) (clp : Bool) (e : Eng) (s : State) : Out := sdOp (.sdrd a b c clp e) a b c s
/-- SDCNT (R256). -/
def execSdcnt (a b c : SReg) (clr : Bool) (e : Eng) (s : State) : Out := sdOp (.sdcnt a b c clr e) a b c s
/-- SDSEED, set form (R257). -/
def execSdseed (a : SReg) (e : Eng) (s : State) : Out := sdOp (.sdseed a e) a 0 0 s
/-- SDSEED, store form (R257). -/
def execSdseedStore (a : SReg) (e : Eng) (s : State) : Out := sdOp (.sdseedStore a e) a 0 0 s
/-- SDTBL (R258). -/
def execSdtbl (a : SReg) (e : Eng) (s : State) : Out := sdOp (.sdtbl a e) a 0 0 s
/-- SDBETA (R258). -/
def execSdbeta (a b : SReg) (e : Eng) (s : State) : Out := sdOp (.sdbeta a b e) a b 0 s

/-! ## Starts (R248, R249) -/

/-- A command of the shadow lane. -/
def onShadow : Instr → Bool
  | .sdtbl _ _ | .sdbeta _ _ _ => true
  | _ => false
/-- A lane is idle. -/
def laneIdle (l : Option (Nat × Nat)) (now : Nat) : Bool :=
  match l with
  | some (_, last) => decide (last < now)
  | none => true
/-- The lanes that a command needs are idle (R248). -/
def Cove.lanesFree (v : Cove) (now : Nat) (i : Instr) : Bool :=
  match i with
  | .sdswp _ _ _ _ _ => laneIdle v.array now && laneIdle v.shadowLane now
  | _ => if onShadow i then laneIdle v.shadowLane now else laneIdle v.array now
/-- A lane's last cycle where the command's own end frees it. -/
def openEnd : Nat := 2 ^ 80
/-- Cells of SDCLP changed (R253). -/
def Cove.clamp (v : Cove) (a b c : DWord) (f : CoveCell → Bool → CoveCell) : Cove :=
  ((upTo 64).filter fun i => b.getLsbD i).foldl (fun v i => v.onCell (a.toNat + i) fun x => f x (c.getLsbD i)) v
/-- 64 bits of the cells from i on. -/
def Cove.bits (v : Cove) (i : Nat) (f : CoveCell → Bool) : DWord :=
  (upTo 64).foldr (fun j w => (w <<< 1) ||| (BitVec.ofBool (f (v.cell (i + j)))).setWidth 64) 0
/-- Four counts as a word. -/
def Cove.counts (v : Cove) (i : Nat) : DWord :=
  (v.cell (i + 3)).cnt ++ (v.cell (i + 2)).cnt ++ (v.cell (i + 1)).cnt ++ (v.cell i).cnt
/-- A cove after SDLD clear (R252): G, the tables and the schedules are unchanged. -/
def Cove.clear (v : Cove) : Cove := { v with cells := [] }
/-- The words that a command captures at its start (R255 to R257). -/
def Cove.capture (v : Cove) (k : Cmd) : List (Nat × DWord) :=
  let a := laddrOf k.a
  match k.op with
  | .sdrd _ _ _ clp _ =>
    (upTo k.c.toNat).map fun n => (a + 8 * n, v.bits (k.b.toNat + 64 * n) fun x => if clp then x.cl else x.s)
  | .sdcnt _ _ _ _ _ => (upTo (k.c.toNat / 4)).map fun n => (a + 8 * n, v.counts (k.b.toNat + 4 * n))
  | .sdseedStore _ _ => [(a, v.g)]
  | _ => []
/-- The effect of a start on the cove (R249, R252 to R257). Model's choice: SDLD clear, which has no record, is done in its start cycle and leaves the lane free (log 74). -/
def Cove.begin (v : Cove) (now : Nat) (k : Cmd) : Cove :=
  let lane (n : Nat) : Option (Nat × Nat) := some (k.id, n)
  match k.op with
  | .sdldClear _ => v.clear
  | .sdldCell _ _ _ _ | .sdldCoup _ _ _ | .sdldBridge _ _ _ => { v with array := lane openEnd }
  | .sdtbl _ _ | .sdbeta _ _ _ => { v with shadowLane := lane openEnd }
  | .sdclpClamp _ _ _ _ => { v.clamp k.a k.b k.c (fun x b => { x with cl := true, s := b }) with array := lane (now + 3) }
  | .sdclpRelease _ _ _ _ => { v.clamp k.a k.b k.c (fun x b => { x with cl := false, s := b }) with array := lane (now + 3) }
  | .sdclpSet _ _ _ _ => { v.clamp k.a k.b k.c (fun x b => { x with s := b }) with array := lane (now + 3) }
  | .sdseed _ _ => { v with g := k.a, array := lane (now + 3) }
  | .sdcnt _ _ _ true _ =>
    { (upTo k.c.toNat).foldl (fun v i => v.onCell (k.b.toNat + i) fun x => { x with cnt := 0 }) v with array := lane (now + 3) }
  | .sdswp _ _ ent br _ =>
    { v with array := lane (now + 40 * k.a.toNat - 1)
             sweep := some ⟨k.id, 0, k.a.toNat, now, k.b.toNat, ent, br, [], [], []⟩ }
  | _ => { v with array := lane (now + 3) }
/-- The cycle at which a command completes, none where its last port-A access ends it (R249). -/
def sdUntil (now : Nat) (k : Cmd) : Nat :=
  match k.op with
  | .sdldClear _ => now
  | .sdclpClamp _ _ _ _ | .sdclpRelease _ _ _ _ | .sdclpSet _ _ _ _ | .sdseed _ _ => now + 3
  | .sdswp _ _ _ _ _ => now + 40 * k.a.toNat - 1
  | _ => openEnd
/-- A Spindrift command starts (R248, R249). -/
def State.sdStart (s : State) (p : Nat) (k : Cmd) : State :=
  let v := s.cove (shoreKey p)
  let k' := { k with started := some s.now, until_ := sdUntil s.now k, data := v.capture k }
  let t := s.onCove (shoreKey p) fun v => v.begin s.now k
  t.onCore p fun c =>
    let c := { c with eq := c.eq.filter (·.id != k.id), eflight := c.eflight ++ [k'] }
    match k.op with
    -- The start of an entropy-mode SDSWP is a receive of the log (R335).
    | .sdswp _ _ true _ _ => c.receive (receiveOf 0x0B k.ctx (c.logicalOf k.ctx) k.ctx s.now 0 0 0 [] none)
    | _ => c

/-! ## Port A (R131, R320) -/

/-- Banks of some words are unused in this cycle (R131). -/
def Core.portFree (c : Core) (ws : List Nat) : Bool := !(ws.any fun w => bankOf w ∈ c.used)
/-- Banks taken for this cycle. -/
def Core.takePort (c : Core) (ws : List Nat) : Core := { c with used := c.used ++ ws.map bankOf }
/-- A word as an engine reads it: undefined, with a notice, where it has an uncorrectable error (R328). -/
def State.engineWord (s : State) (p a : Nat) : DWord :=
  if a ∈ (s.core p).poison then s.anyWord (5000 + a / 8) else (s.core p).word a
/-- The notice of an engine's read of a word with an uncorrectable error (R328). -/
def State.engineNotice (s : State) (p a : Nat) : State :=
  if a ∈ (s.core p).poison then s.reportWord p a else s
/-- Words that a Spindrift command still moves through port A, the next first (R249). -/
def Cmd.sdNext (k : Cmd) : Option Nat :=
  let a := laddrOf k.a
  match k.op with
  | .sdldCell _ _ _ _ | .sdldCoup _ _ _ | .sdldBridge _ _ _ => if k.pos < k.b.toNat then some (a + 8 * k.pos) else none
  | .sdtbl _ _ => if k.pos < 128 then some (a + 8 * k.pos) else none
  | .sdbeta _ _ _ => if k.pos < (k.b.toNat + 3) / 4 then some (a + 8 * k.pos) else none
  | _ => k.data.head?.map (·.1)
/-- A started command of a core. -/
def Core.flight (c : Core) (id : Nat) : Option Cmd := cmdOf c.eflight id
/-- A started command changed. -/
def Core.onFlight (c : Core) (id : Nat) (f : Cmd → Cmd) : Core :=
  { c with eflight := c.eflight.map fun k => if k.id = id then f k else k }
/-- A command ends: its lane is freed where no cycle frees it, its region released and its tag set (R249). -/
def State.sdEnd (s : State) (p : Nat) (k : Cmd) : State :=
  let free (l : Option (Nat × Nat)) : Option (Nat × Nat) :=
    match l with
    | some (id, last) => if id = k.id && last = openEnd then none else l
    | none => none
  let t := s.onCove (shoreKey p) fun v => { v with array := free v.array, shadowLane := free v.shadowLane }
  t.engineDone p k

/-! ## Records (R252) -/

/-- Couplings with the one to j set to w, or removed for w = 0. -/
def setCoup (l : List (BitVec 9 × BitVec 8)) (j : BitVec 9) (w : BitVec 8) : List (BitVec 9 × BitVec 8) :=
  if w = 0 then l.filter (·.1 != j)
  else if l.any (·.1 == j) then l.map fun p => if p.1 = j then (j, w) else p else l ++ [(j, w)]
/-- Bridges with the one in direction d to j set, or removed for w = 0. -/
def setBridge (l : List (BitVec 2 × BitVec 9 × BitVec 3 × BitVec 8)) (d : BitVec 2) (j : BitVec 9) (rc : BitVec 3) (w : BitVec 8) :
    List (BitVec 2 × BitVec 9 × BitVec 3 × BitVec 8) :=
  let same (p : BitVec 2 × BitVec 9 × BitVec 3 × BitVec 8) : Bool := p.1 == d && p.2.1 == j
  if w = 0 then l.filter fun p => !same p
  else if l.any same then l.map fun p => if same p then (d, j, rc, w) else p else l ++ [(d, j, rc, w)]
/-- A CELL record: H and COL of its cell, or the reason of R252. -/
def Cove.applyCell (v : Cove) (i : Nat) (r : DWord) : Except Nat Cove :=
  let x := v.cell i
  let col : BitVec 3 := r.extractLsb' 16 3
  if r.extractLsb' 19 45 != 0 then .error 4
  else if x.coup.any (fun p => (v.cell p.1.toNat).col == col) || x.bridge.any (fun p => p.2.2.1 == col) then .error 1
  else .ok (v.onCell i fun x => { x with h := r.setWidth 16, col := col })
/-- A COUP record. -/
def Cove.applyCoup (v : Cove) (r : DWord) : Except Nat Cove :=
  let i : BitVec 9 := r.extractLsb' 0 9
  let j : BitVec 9 := r.extractLsb' 16 9
  let w : BitVec 8 := r.extractLsb' 32 8
  let x := v.cell i.toNat
  let y := v.cell j.toNat
  if (r &&& ~~~0xFF01FF01FF) != 0 || i == j then .error 4
  else if x.col == y.col then .error 1
  else if w != 0 && !(x.coup.any (·.1 == j)) && (decide (32 ≤ x.coup.length) || decide (32 ≤ y.coup.length)) then .error 2
  else .ok ((v.onCell i.toNat fun x => { x with coup := setCoup x.coup j w }).onCell j.toNat fun y =>
    { y with coup := setCoup y.coup i w })
/-- A BRIDGE record of cove k. -/
def Cove.applyBridge (v : Cove) (k : Nat) (r : DWord) : Except Nat Cove :=
  let i : BitVec 9 := r.extractLsb' 0 9
  let d : BitVec 2 := r.extractLsb' 9 2
  let j : BitVec 9 := r.extractLsb' 16 9
  let rc : BitVec 3 := r.extractLsb' 25 3
  let w : BitVec 8 := r.extractLsb' 32 8
  let x := v.cell i.toNat
  if (r &&& ~~~0xFF0FFF07FF) != 0 then .error 4
  else if (coveNeighbour k d.toNat).isNone then .error 5
  else if rc == x.col then .error 1
  else if w != 0 && !(x.bridge.any fun p => p.1 == d && p.2.1 == j) && decide (8 ≤ x.bridge.length) then .error 3
  else .ok (v.onCell i.toNat fun x => { x with bridge := setBridge x.bridge d j rc w })
/-- A record applied (R252). -/
def Cove.applyRecord (v : Cove) (key : Nat) (k : Cmd) (r : DWord) : Except Nat Cove :=
  match k.op with
  | .sdldCell _ _ _ _ => v.applyCell (k.c.toNat + k.pos) r
  | .sdldCoup _ _ _ => v.applyCoup r
  | _ => v.applyBridge key r
/-- The command that an array lane performs. -/
def State.sdLane (s : State) (key : Nat) (shadow : Bool) : Option (Nat × Cmd) :=
  let v := s.cove key
  match v.owner, (if shadow then v.shadowLane else v.array) with
  | some (p, _), some (id, _) => ((s.core p).flight id).map fun k => (p, k)
  | _, _ => none
/-- SDLD_RECORD_APPLY (R249, R252): one record per grant of port A; a refused one ends the SDLD with late fault 0x14. -/
def execSdldRecordApply (cove : Nat) (s : State) : Out :=
  event (fun s =>
    match s.sdLane cove false with
    | none => s
    | some (p, k) =>
      match k.op, k.sdNext with
      | .sdldCell _ _ _ _, some a | .sdldCoup _ _ _, some a | .sdldBridge _ _ _, some a =>
        if !(s.core p).portFree [a] then s else
        let r := s.engineWord p a
        let t := (s.engineNotice p a).onCore p fun c => (c.takePort [a]).onFlight k.id fun k => { k with pos := k.pos + 1, waited := 0 }
        match (s.cove cove).applyRecord cove k r with
        | .ok v =>
          let u := t.onCove cove fun _ => v
          if k.pos + 1 < k.b.toNat then u else u.sdEnd p k
        | .error e => (t.sdEnd p k).engineFault p k 0x14 (BitVec.ofNat 64 (a + 2 ^ 56 * e))
      | _, _ => s) s

/-! ## Sweeps (R244 to R247) -/

/-- Cells of a cove whose state is 1. -/
def Cove.ones (v : Cove) : List Nat := (v.cells.filter fun kc => kc.2.s).map (·.1)
/-- 2 × state − 1, times a weight. -/
def pull (w : BitVec 8) (one : Bool) : Int := if one then w.toInt else -w.toInt
/-- The state that a bridge reads (R246). -/
def State.bridgeRead (s : State) (key : Nat) (w : Sweep) (d j : Nat) : Bool :=
  if d ∈ w.lock then
    match coveNeighbour key d with
    | some q => ((s.cove q).cell j).s
    | none => false
  else decide (j ∈ look [] w.held d)
/-- F of cell i (R244). -/
def State.coveSum (s : State) (key : Nat) (w : Sweep) (x : CoveCell) : Int :=
  let v := s.cove key
  let f := x.coup.foldl (fun f p => f + pull p.2 (v.cell p.1.toNat).s) x.h.toInt
  if w.br then x.bridge.foldl (fun f p => f + pull p.2.2.2 (s.bridgeRead key w p.1.toNat p.2.1.toNat)) f else f
/-- P of a cell with coefficient β (R244). -/
def Cove.chance (v : Cove) (beta : Half) (f : Int) : Half :=
  let x := max (-32768) (min 32767 (f * (beta.toNat : Int) / 256))
  let k := max (-256) (min 255 (x / 16)) + 256
  look 0 v.active k.toNat
/-- β of a sweep (R254). -/
def Cove.betaOf (v : Cove) (w : Sweep) : Half := nthD 0 v.beta (min (w.index + w.s) (v.beta.length - 1))
/-- The draws of one colour phase, in ascending cell index (R244, R245, R247): the new states and G. -/
def State.covePhase (s : State) (key : Nat) (w : Sweep) (colour : Nat) : List (Nat × Bool) × DWord :=
  let v := s.cove key
  let cells := v.cells.filter fun kc => kc.2.col.toNat == colour && !kc.2.cl
  cells.foldl (fun p kc =>
    let g := gStep (if w.ent then p.2 ^^^ Config.entropy (s.free * 65536 + kc.1) else p.2)
    (p.1 ++ [(kc.1, decide (g.extractLsb' 48 16 < v.chance (v.betaOf w) (s.coveSum key w kc.2)))], g)) ([], v.g)
/-- The states drawn become those of the cove. -/
def Cove.commit (v : Cove) (next : List (Nat × Bool)) : Cove :=
  next.foldl (fun v p => v.onCell p.1 fun x => { x with s := p.2 }) v
/-- Counts after a sweep (R245). -/
def Cove.count (v : Cove) : Cove :=
  { v with cells := v.cells.map fun kc =>
      if kc.2.s then (kc.1, { kc.2 with cnt := if kc.2.cnt = 0xFFFF then 0xFFFF else kc.2.cnt + 1 }) else kc }
/-- A sweep begins (R246, R249): the first one copies the shadow table and schedule; the neighbours' states, or lockstep with them, are fixed. -/
def State.sweepBegin (s : State) (key : Nat) (w : Sweep) : State :=
  let dirs := [0, 1, 2, 3]
  let locked (d : Nat) : Bool :=
    match coveNeighbour key d with
    | some q => match (s.cove q).sweep with
      | some u => u.br && u.first + 40 * u.s == s.now
      | none => false
    | none => false
  let lock := dirs.filter fun d => w.br && locked d
  let held := (dirs.filter fun d => w.br && !locked d).filterMap fun d => (coveNeighbour key d).map fun q => (d, (s.cove q).ones)
  s.onCove key fun v =>
    let v := if w.s = 0 then { v with active := v.shadow, beta := v.shadowBeta } else v
    { v with sweep := some { w with lock := lock, held := held, next := [] } }
/-- SPINDRIFT_SWEEP (R245, R249): what a sweep does in this cycle. It begins in its cycle 0; colour c is drawn in cycle 4 + 4c and its states stand from cycle 8 + 4c on; counts are updated in cycle 39. -/
def execSpindriftSweep (cove : Nat) (s : State) : Out :=
  event (fun s =>
    match (s.cove cove).sweep with
    | none => s
    | some w =>
      let at_ := s.now - (w.first + 40 * w.s)
      if s.now < w.first + 40 * w.s then s
      else if at_ = 0 then s.sweepBegin cove w
      else if at_ = 39 then
        s.onCove cove fun v =>
          { v.count with sweep := if w.s + 1 < w.n then some { w with s := w.s + 1, lock := [], held := [], next := [] } else none }
      else if at_ % 4 = 0 && 4 ≤ at_ && at_ < 36 then
        let (next, g) := s.covePhase cove w (at_ / 4 - 1)
        s.onCove cove fun v => { v with g := g, sweep := some { w with next := next } }
      else s) s
/-- The states of a phase that ended with the last cycle are those of the cove from this one on (R249). -/
def State.commitPhases (s : State) : State :=
  { s with coves := s.coves.map fun kv =>
      match kv.2.sweep with
      | some w =>
        let at_ := s.now - (w.first + 40 * w.s)
        if at_ % 4 = 0 && 8 ≤ at_ then (kv.1, { kv.2.commit w.next with sweep := some { w with next := [] } }) else kv
      | none => kv }

/-! ## Completion (R249) -/

/-- A word of a shadow table or schedule, as four halves. -/
def halves (w : DWord) : List Half := [w.extractLsb' 0 16, w.extractLsb' 16 16, w.extractLsb' 32 16, w.extractLsb' 48 16]
/-- A word read into a shadow copy (R258). A table entry of 0 is not listed. -/
def Cove.shadowWord (v : Cove) (k : Cmd) (r : DWord) : Cove :=
  match k.op with
  | .sdtbl _ _ =>
    { v with shadow := (upTo 4).foldl (fun m n =>
        let h := nthD 0 (halves r) n
        if h = 0 then del m (4 * k.pos + n) else put m (4 * k.pos + n) h) v.shadow }
  | _ => { v with shadowBeta := ((if k.pos = 0 then [] else v.shadowBeta) ++ halves r).take k.b.toNat }
/-- One port-A access of a readout, or of a read into a shadow copy: the command's last one completes it. -/
def State.sdAccess (s : State) (cove p : Nat) (k : Cmd) (a : Nat) : State :=
  if !(s.core p).portFree [a] then s else
  if onShadow k.op then
    let r := s.engineWord p a
    let t := ((s.engineNotice p a).onCore p fun c =>
      (c.takePort [a]).onFlight k.id fun k => { k with pos := k.pos + 1, waited := 0 }).onCove cove fun v => v.shadowWord k r
    if ({ k with pos := k.pos + 1 }).sdNext.isSome then t else t.sdEnd p k
  else
    match k.data with
    | [] => s
    | (_, v) :: rest =>
      let t := s.onCore p fun c =>
        (((c.takePort [a]).storeBytes a 8 v.toNat).noteWriter [a] p 256).onFlight k.id fun k => { k with data := rest, waited := 0 }
      if rest.isEmpty then t.sdEnd p k else t
/-- SPINDRIFT_COMMAND_COMPLETE (R249): a command completes at its cycle, or with its last access at port A, of which this is the next. -/
def execSpindriftCommandComplete (cove cmd : Nat) (s : State) : Out :=
  event (fun s =>
    match (s.cove cove).owner with
    | none => s
    | some (p, _) =>
      match (s.core p).flight cmd with
      | none => s
      | some k =>
        if k.until_ ≤ s.now then s.sdEnd p k
        else match k.op, k.sdNext with
        | .sdrd _ _ _ _ _, some a | .sdcnt _ _ _ _ _, some a | .sdseedStore _ _, some a | .sdtbl _ _, some a
        | .sdbeta _ _ _, some a => s.sdAccess cove p k a
        | _, _ => s) s

end Sys2Proof.Machine
end

