-- ==== Sys2Proof/Machine/Tidal.lean ====
section
/-! DEFINITION. Tidal routers and channels, route tables and re-tides, and link channels (spec/16_tidal_eddy_and_swell_fabric.md R361 to R373; spec/09_engines_tags_and_channels.md R227, R228, R237, R238; spec/11_tasks_traps_and_system.md R288; spec/13_execution_and_scheduling.md R315). -/
namespace Sys2Proof.Machine

/-! ## The tidal plane (R361) -/

/-- Quay core i of a die. -/
def quayOf (die i : Nat) : Nat := 16384 + 4096 * die + i
/-- Strand core j of a die. -/
def strandOf (die j : Nat) : Nat := 32768 + 4096 * die + j
/-- Where an outward or inner port of a tidal router leads. -/
inductive TidalWay
  /-- A router of the same die. -/
  | core (q : Nat)
  /-- The facing router across a die pair. -/
  | pair (q n : Nat)
  /-- An off-package port. -/
  | port (n : Nat)
  | nothing
  deriving DecidableEq, Repr
/-- The way of an ordinary core's port; directions by input code: 2 north, 3 east, 4 south, 5 west (R361, R363). -/
def meshWay (p dir : Nat) : TidalWay :=
  let d := dieOf p
  let r := rowOf p
  let c := colOf p
  let lane (k q n : Nat) : TidalWay := if 1 ≤ k && k ≤ 30 then .pair q n else .nothing
  match dir with
  | 2 =>
    if 0 < r then .core (physOf d (r - 1) c)
    else if d < 2 then (if c % 2 = 0 then .core (quayOf d (c / 2)) else .nothing)
    else lane c (physOf (d - 2) 31 c) d
  | 4 =>
    if r < 31 then .core (physOf d (r + 1) c)
    else if 2 ≤ d then (if c % 2 = 0 then .core (quayOf d (c / 2)) else .nothing)
    else lane c (physOf (d + 2) 0 c) (d + 2)
  | 3 =>
    if c < 31 then .core (physOf d r (c + 1))
    else if d % 2 = 1 then (if r % 8 = 4 then .core (strandOf d (r / 8)) else .nothing)
    else lane r (physOf (d + 1) r 0) (d / 2)
  | _ =>
    if 0 < c then .core (physOf d r (c - 1))
    else if d % 2 = 0 then (if r % 8 = 4 then .core (strandOf d (r / 8)) else .nothing)
    else lane r (physOf (d - 1) r 31) (d / 2)
/-- The way of any router's port. A quay or strand core's router faces its mesh through the port on that side, and a strand core's opposite port is the off-package port of its number (R361, R372; log 21). -/
def tidalWay (p dir : Nat) : TidalWay :=
  let d := dieOf p
  match kindOf p with
  | 0 => meshWay p dir
  | 1 =>
    if d < 2 then (if dir = 4 then .core (physOf d 0 (2 * colOf p)) else .nothing)
    else if dir = 2 then .core (physOf d 31 (2 * colOf p)) else .nothing
  | _ =>
    if d % 2 = 0 then
      (if dir = 3 then .core (physOf d (8 * colOf p + 4) 0) else if dir = 5 then .port (4 * d + colOf p) else .nothing)
    else
      (if dir = 5 then .core (physOf d (8 * colOf p + 4) 31) else if dir = 3 then .port (4 * d + colOf p) else .nothing)
/-- The input of the facing router that a direction reaches. -/
def facing (dir : Nat) : Nat :=
  match dir with
  | 2 => 4 | 3 => 5 | 4 => 2 | _ => 3
/-! ## Route tables (R363, R364) -/

/-- The input that a field of an entry names: LOC by code 1, the outputs by the codes of their directions. -/
def routeField (e : DWord) (out : Nat) : Nat :=
  match out with
  | 1 => (e.extractLsb' 12 3).toNat
  | 2 => (e.extractLsb' 0 3).toNat
  | 3 => (e.extractLsb' 3 3).toNat
  | 4 => (e.extractLsb' 6 3).toNat
  | _ => (e.extractLsb' 9 3).toNat
/-- SV. -/
def routeSends (e : DWord) : Bool := e.getLsbD 40
/-- RV. -/
def routeDelivers (e : DWord) : Bool := e.getLsbD 41
/-- SCH. -/
def sendChannel (e : DWord) : Nat := (e.extractLsb' 24 8).toNat
/-- RCH. -/
def deliveryChannel (e : DWord) : Nat := (e.extractLsb' 32 8).toNat
/-- The outputs of a router: LOC, then north, east, south, west. -/
def routeOuts : List Nat := [1, 2, 3, 4, 5]
/-- Entry s is bad by itself, or names a channel that an earlier entry names (R364). -/
def routeBad (p period : Nat) (table : List DWord) (s : Nat) : Bool :=
  let e := nthD 0 table s
  let fields := routeOuts.map (routeField e)
  let local_ := fields.any (· == 1)
  let deadIn (i : Nat) : Bool := decide (2 ≤ i) && tidalWay p i == .nothing
  let deadOut := [2, 3, 4, 5].any fun o => routeField e o != 0 && tidalWay p o == .nothing
  let before := table.take s
  e.extractLsb' 42 22 != 0 || e.extractLsb' 15 9 != 0 || fields.any (fun i => decide (6 ≤ i)) ||
  fields.any deadIn || deadOut ||
  routeSends e != local_ || routeDelivers e != (routeField e 1 != 0) ||
  (routeSends e && before.any fun f => routeSends f && sendChannel f == sendChannel e) ||
  (routeDelivers e && before.any fun f => routeDelivers f && deliveryChannel f == deliveryChannel e) ||
  (decide (period ≤ s) && e != 0)
/-- A channel's send or delivery slot in a table (R364). -/
def slotOfChan (table : Sparse DWord) (ch : Nat) (send : Bool) : Option Nat :=
  (firstOf (fun kv => if send then routeSends kv.2 && sendChannel kv.2 == ch else routeDelivers kv.2 && deliveryChannel kv.2 == ch)
    table).map (·.1)
/-- The slot of a cycle (R315, R362). -/
def Core.slotAt (c : Core) (t : Nat) : Nat := (((t : Int) - c.tideBase) % c.period).toNat
/-- The entry that a router performs in a cycle. -/
def Core.routeAt (c : Core) (t : Nat) : DWord := look 0 c.routes (c.slotAt t)

/-! ## TSND, TRCV and TIDE at issue -/

/-- R221, orders 4 and 5, for a local region of a start of `align`. -/
def State.localRegion (s : State) (a : DWord) (len align : Nat) (rest : Option Trap) : Option Trap :=
  Trap.orIf (isRemote a) ⟨13, 0x06, a⟩ <|
  match Core.regionFault s.frame.ctx none a len with
  | some v => some ⟨13, 0x06, v⟩
  | none => Trap.orIf (a.toNat % align != 0) ⟨13, 0x07, a⟩ rest
/-- The checks of R227 and R228 on a start: F = 0, an undefined channel, or a cycle outside its slot. -/
def State.tidalCheck (s : State) (ch : Nat) (send : Bool) (st : Start) (rest : Option Trap) : Option Trap :=
  let slot := slotOfChan s.here.routes ch send
  Trap.orIf (!st.f || slot != some (st.off.toNat % s.here.period)) ⟨13, 0x1E, st.off.setWidth 64⟩ rest
/-- TSND (R227). Model's choice: the address is checked before the slot (log 72). -/
def execTsnd (a : SReg) (ch : BitVec 8) (st : Start) (s : State) : Out :=
  operation (.tsnd a ch st) (fun s => s.localRegion (s.rx a) 64 64 (s.tidalCheck ch.toNat true st (s.passedCheck st none)))
    (fun s => s.nIssue (.tsnd a ch st) (s.rx a) 0 0 [⟨laddrOf (s.rx a), 64, false⟩] true) s
/-- TRCV (R228). Model's choice: the address is checked before the slot (log 72). -/
def execTrcv (a : SReg) (ch : BitVec 8) (tag : Option (BitVec 6)) (st : Start) (s : State) : Out :=
  operation (.trcv a ch tag st) (fun s => s.localRegion (s.rx a) 64 64 (s.tidalCheck ch.toNat false st (s.passedCheck st none)))
    (fun s => s.nIssue (.trcv a ch tag st) (s.rx a) 0 0 [⟨laddrOf (s.rx a), 64, true⟩] true) s
/-- TIDE with FN = 0 (R288). -/
def execTide (a : SReg) (e : Eng) (s : State) : Out :=
  operation (.tide a e) (fun s => s.localRegion (s.rx a) 2048 32 (s.passedCheck e.start none))
    (fun s => s.nIssue (.tide a e) (s.rx a) 0 0 [⟨laddrOf (s.rx a), 2048, false⟩] true) s
/-- TIDE.retide (R288). -/
def execTideRetide (a : SReg) (s : State) : Out :=
  operation (.tideRetide a) (fun s =>
    let t := (s.rx a).toNat
    let b := (s.ctx s.frame.core 0).base
    badValue (decide (t < s.now + 256) || (t + 16 * 2 ^ 60 - b) % 16 != 0 || s.here.retide.isSome) (s.rx a) none)
    (fun s => s.onHere fun c => { c with retide := some (s.rx a).toNat }) s

/-! ## Starts -/

/-- A flit at a router's local input in this cycle. -/
def Core.sendFlit (c : Core) (now : Nat) (data : Option (List Byte)) : Core :=
  { c with flits := c.flits ++ [⟨now, 1, data⟩] }
/-- TSND starts (R131, R227): its 64 bytes are read in one port-A access, and the flit enters the router. -/
def State.tsndStart (s : State) (p : Nat) (k : Cmd) : State :=
  s.onCore p fun c =>
    let c := (c.takePort (wordsOf [(laddrOf k.a, 64)])).sendFlit s.now (some (memBytes c.ls (laddrOf k.a) 64))
    { c with eq := c.eq.filter (·.id != k.id), eflight := c.eflight ++ [{ k with started := some s.now, until_ := s.now + 15 }] }
/-- TRCV starts: it is posted for this cycle's flit (R228). -/
def State.trcvStart (s : State) (p : Nat) (k : Cmd) : State :=
  s.onCore p fun c =>
    { c with eq := c.eq.filter (·.id != k.id), eflight := c.eflight ++ [{ k with started := some s.now, until_ := s.now + 31 }] }
/-- A refused TSND or TRCV (R227, R228): late fault 0x1E, and a void flit in the slot of a TSND. -/
def State.tidalRefuse (s : State) (p : Nat) (k : Cmd) : State :=
  let off := (Instr.start k.op).off
  let t := (s.engineDone p k).engineFault p k 0x1E (off.setWidth 64)
  match k.op with
  | .tsnd _ ch _ =>
    let e := (s.core p).routeAt s.now
    if routeSends e && sendChannel e = ch.toNat then t.onCore p fun c => c.sendFlit s.now none else t
  | _ => t
/-- TIDE starts (R288): its table is read at port A. -/
def State.tideStart (s : State) (p : Nat) (k : Cmd) : State :=
  s.onCore p fun c =>
    { c with eq := c.eq.filter (·.id != k.id), eflight := c.eflight ++ [{ k with started := some s.now, until_ := openEnd }] }
/-- The words of a TIDE's next read: 32 bytes, one in each bank of a group (R29, R131; log 42). -/
def Cmd.tideWords (k : Cmd) : List Nat := (upTo 4).map fun n => laddrOf k.a + 32 * k.pos + 8 * n
/-- A TIDE has read its table, and ends (R288, R364). -/
def State.tideEnd (s : State) (p : Nat) (k : Cmd) (table : List DWord) : State :=
  match firstOf (routeBad p (s.core p).period table) (upTo 256) with
  | some n => (s.engineDone p k).engineFault p k 0x1E (BitVec.ofNat 64 (2 ^ 61 + n))
  | none => (s.onCore p fun c => { c with
      shadow := ((upTo 256).map fun n => (n, nthD 0 table n)).filter fun kv => kv.2 != 0 }).engineDone p k
/-- A TIDE is granted port A for its next 32 bytes; the last ones end it (R131, R288). -/
def State.tideRead (s : State) (p : Nat) (k : Cmd) : State :=
  let ws := k.tideWords
  let data := k.data ++ ws.map fun w => (w, s.engineWord p w)
  let t := (ws.foldl (fun s w => s.engineNotice p w) s).onCore p fun c =>
    (c.takePort ws).onFlight k.id fun k => { k with pos := k.pos + 1, data := data }
  if k.pos + 1 < 64 then t else t.tideEnd p k (data.map (·.2))

/-! ## Routers (R362, R365) -/

/-- A 0x1E that C0 takes (R228, R365). -/
def Core.tidalTrap (c : Core) (v : DWord) : Core := { c with pending := { c.pending with own := c.pending.own ++ [(0x1E, v)] } }
/-- A flit that enters the package's own router q, or leaves by a port. -/
def State.carry (s : State) (way : TidalWay) (dir : Nat) (data : Option (List Byte)) : State :=
  match way with
  | .core q => s.onCore q fun c => { c with flits := c.flits ++ [⟨s.now + 1, facing dir, data⟩] }
  | .pair q n =>
    let data := if s.hub.linkUp n then data else none
    s.onCore q fun c => { c with flits := c.flits ++ [⟨s.now + s.hub.linkLat n, facing dir, data⟩] }
  | .port n =>
    let data := if s.hub.linkUp (4 + n) then data else none
    { s with linkOut := s.linkOut ++ [(s.now + s.hub.linkLat (4 + n), n, 256, data.getD [])] }
  | .nothing => s
/-- TSNDs whose regions are released, 16 cycles after their starts, end (R227). -/
def State.endSends (s : State) (p : Nat) : State :=
  ((s.core p).eflight.filter fun k => (match k.op with | .tsnd _ _ _ => true | _ => false) && decide (k.until_ < s.now)).foldl
    (fun s k => s.engineDone p k) s
/-- TRCVs whose regions are released, 32 cycles after their starts, end (R228). -/
def State.endPosts (s : State) (p : Nat) : State :=
  ((s.core p).eflight.filter fun k => (match k.op with | .trcv _ _ _ _ => true | _ => false) && decide (k.started.getD 0 + 32 ≤ s.now)).foldl
    (fun s k => s.engineDone p k) s
/-- TIDAL_FLIT_HOP (R362): every flit in the router leaves by each output that names its input; TSNDs release their regions 16 cycles after their starts (R227). -/
def execTidalFlitHop (core : Nat) (s : State) : Out :=
  event (fun s =>
    let c := s.core core
    let e := c.routeAt s.now
    let s1 := (c.flits.filter (·.cycle == s.now)).foldl (fun s f =>
      [2, 3, 4, 5].foldl (fun s o => if routeField e o = f.input then s.carry (tidalWay core o) o f.data else s) s) s
    (s1.onCore core fun c => { c with flits := c.flits.filter fun f => decide (s.now < f.cycle) }).endSends core) s
/-- STRAY_FLIT_DISCARD (R365): a flit whose input no output names is discarded, and C0 takes 0x1E. -/
def execStrayFlitDiscard (core input : Nat) (s : State) : Out :=
  event (fun s =>
    let c := s.core core
    let e := c.routeAt s.now
    if (c.flits.any fun f => f.cycle == s.now && f.input == input) && !(routeOuts.any fun o => routeField e o == input) then
      s.onCore core fun c =>
        { c with flits := c.flits.filter fun f => !(f.cycle == s.now && f.input == input) }.tidalTrap
          (BitVec.ofNat 64 (2 ^ 63 + 2 ^ 62 + 2 ^ 16 * input + 256 * (c.slotAt s.now)))
    else s) s
/-- A TRCV of a channel. -/
def isTrcvOf (ch : Nat) : Instr → Bool
  | .trcv _ c _ _ => c.toNat == ch
  | _ => false
/-- The flit that this cycle delivers to the core, and its channel. -/
def Core.delivered_ (c : Core) (now : Nat) : Option (Nat × Flit) :=
  let e := c.routeAt now
  if routeDelivers e then
    (firstOf (fun f => f.cycle == now && f.input == routeField e 1) c.flits).map fun f => (deliveryChannel e, f)
  else none
/-- A delivered flit reaches the TRCV posted for its channel and cycle, or is discarded with 0x1E for C0 (R228). -/
def State.deliver (s : State) (p : Nat) : State :=
  match (s.core p).delivered_ s.now with
  | none => s
  | some (ch, f) =>
    match firstOf (fun k => isTrcvOf ch k.op && k.started == some s.now && k.pos == 0) (s.core p).eflight with
    | none => s.onCore p fun c => c.tidalTrap (BitVec.ofNat 64 (2 ^ 63 + ch))
    | some k =>
      match f.data with
      | none => (s.onCore p fun c => c.onFlight k.id fun k => { k with pos := 1 }).engineFault p k 0x1E
          ((Instr.start k.op).off.setWidth 64)
      | some bs =>
        let a := laddrOf k.a
        s.onCore p fun c => c.onFlight k.id fun k =>
          { k with pos := 1, data := (upTo 8).map fun n => (a + 8 * n, wordAt bs (8 * n)) }
/-- A TRCV's flit is written at port A at the latest in the 32nd cycle from its delivery (R228, R320). -/
def State.writeFlit (s : State) (p : Nat) (k : Cmd) : State :=
  let ws := k.data.map (·.1)
  if k.data.isEmpty || !((s.core p).portFree ws || k.started.getD 0 + 31 ≤ s.now) then s else
  let t := s.onCore p fun c =>
    let c := k.data.foldl (fun c w => c.storeBytes w.1 8 w.2.toNat) (c.takePort ws)
    (c.noteWriter ws p 256).onFlight k.id fun k => { k with data := [] }
  let bs := (k.data.map fun w => bytesOf 8 w.2.toNat).flatten
  let ch := match k.op with | .trcv _ c _ _ => c.toNat | _ => 0
  t.logReceive p 0x06 k.ctx p k.ctx (BitVec.ofNat 64 ch) (laddrOf k.a) 64 bs
/-- TIDAL_FLIT_DELIVERY (R228): this cycle's delivery, and the end of TRCVs 32 cycles after their starts. -/
def execTidalFlitDelivery (core : Nat) (s : State) : Out :=
  event (fun s => (s.deliver core).endPosts core) s

/-! ## Link channels (R237, R238, R371, R373) -/

/-- A strand core's number among the 16. -/
def strandIndex (p : Nat) : Nat := 4 * dieOf p + colOf p
/-- The strand core of a number. -/
def strandCore (n : Nat) : Nat := strandOf (n / 4) (n % 4)
/-- A link channel: that of a strand core's own port, or of Ultra Ethernet port n under the number 16 + n (R367). -/
def State.link (s : State) (port ch : Nat) : Link := look Link.reset s.linkChans (256 * port + ch)
/-- A link channel changed. -/
def State.onLink (s : State) (port ch : Nat) (f : Link → Link) : State :=
  { s with linkChans := put s.linkChans (256 * port + ch) (f (s.link port ch)) }
/-- The declaration of a channel by a list of them, for a strand core: channel, port, window, uet (R367). A swell channel is one of the core's own port. -/
def declOf (chans : List (Nat × Nat × Nat × Bool)) (p ch : Nat) : Option (Nat × Nat × Nat × Bool) :=
  firstOf (fun d => d.1 == ch && (d.2.2.2 || d.2.1 == strandIndex p)) chans
/-- The number of a declared channel's port: 16 + n for Ultra Ethernet. -/
def declPort (d : Nat × Nat × Nat × Bool) : Nat := if d.2.2.2 then 16 + d.2.1 else d.2.1
/-- The declaration that the image run by a context gives a channel (R237). -/
def Core.chanDecl (c : Core) (p n ch : Nat) : Option (Nat × Nat × Nat × Bool) :=
  (c.launchOf n).bind fun l => declOf l.chans p ch
/-- The declaration that the launch of a command gives its channel. -/
def Core.cmdDecl (c : Core) (p : Nat) (k : Cmd) (ch : Nat) : Option (Nat × Nat × Nat × Bool) :=
  (firstOf (fun l : CoreLaunch => some l.id.toNat == k.launch) c.launches).bind fun l => declOf l.chans p ch
/-- CH of a descriptor (R237). -/
def linkChan (c : DWord) : Nat := (c.extractLsb' 0 8).toNat
/-- Bytes of a link command's region. -/
def linkBytes (c : DWord) : Nat := 64 * ((c.extractLsb' 16 16).toNat + 1)
/-- A descriptor outside R237. -/
def linkBad (c : DWord) (red : Bool) : Bool :=
  c.extractLsb' 32 32 != 0 || c.extractLsb' 12 4 != 0 || decide ((if red then 3 else 0) < (c.extractLsb' 8 4).toNat)
/-- The shape of LSND, LRCV and LRED. -/
def linkOp (i : Instr) (a c : SReg) (wr red : Bool) (e : Eng) : State → Out :=
  operation i (fun s =>
      let d := s.rx c
      badValue (linkBad d red || ((s.here.chanDecl s.frame.core s.frame.ctx (linkChan d)).isNone)) d <|
      s.localRegion (s.rx a) (linkBytes d) 64 (s.passedCheck e.start none))
    (fun s => s.nIssue i (s.rx a) 0 (s.rx c) [⟨laddrOf (s.rx a), linkBytes (s.rx c), wr⟩] true)
/-- LSND (R237). -/
def execLsnd (a c : SReg) (e : Eng) (s : State) : Out := linkOp (.lsnd a c e) a c false false e s
/-- LRCV (R237). -/
def execLrcv (a c : SReg) (e : Eng) (s : State) : Out := linkOp (.lrcv a c e) a c true false e s
/-- LRED (R237, R238). -/
def execLred (a c : SReg) (e : Eng) (s : State) : Out := linkOp (.lred a c e) a c true true e s
/-- A link command starts: it joins its channel's senders or its posted commands (R237). -/
def State.linkStart (s : State) (p : Nat) (k : Cmd) : State :=
  let t := s.onCore p fun c =>
    { c with eq := c.eq.filter (·.id != k.id), eflight := c.eflight ++ [{ k with started := some s.now, until_ := openEnd }] }
  match (s.core p).cmdDecl p k (linkChan k.c) with
  | none => t
  | some d => t.onLink (declPort d) d.1 fun l =>
    match k.op with
    | .lsnd _ _ _ => { l with senders := l.senders ++ [k.id] }
    | _ => { l with posted := l.posted ++ [k.id] }
/-- Flit slots of an off-package port in a cycle (R371). -/
def portSlots (t : Nat) : Nat := 125 * (t + 1) / 84 - 125 * t / 84
/-- The strand core that performs a link command of a port. -/
def State.linkCore (s : State) (port id : Nat) : Option Nat :=
  if port < 16 then some (strandCore port)
  else firstOf (fun p => ((s.core p).flight id).isSome) ((upTo 16).map strandCore)
/-- The words of the next flit of a command. -/
def Cmd.flitWords (k : Cmd) : List Nat := (upTo 8).map fun n => laddrOf k.a + 64 * k.pos + 8 * n
/-- A channel has its turn: a flit waits, and its window is not full (R371). -/
def State.linkReady (s : State) (d : Nat × Nat × Nat × Bool) : Bool :=
  let l := s.link (declPort d) d.1
  !l.senders.isEmpty && decide (l.sent.length < d.2.2.1)
/-- Port A of the banks of a channel's next flit is free (R131). -/
def State.linkMayRead (s : State) (d : Nat × Nat × Nat × Bool) : Bool :=
  match (s.link (declPort d) d.1).senders.head?.bind fun id => (s.linkCore (declPort d) id).bind fun p => ((s.core p).flight id).map fun k => (p, k) with
  | some (p, k) => (s.core p).portFree k.flitWords
  | none => true
/-- One flit of a channel is read and sent; of an Ultra Ethernet channel, a message of up to 64 flits, as many as the window lets through and the hub takes together (R371, R375; log 4). It arrives at the other end L cycles later. -/
def State.sendLinkFlit (s : State) (d : Nat × Nat × Nat × Bool) : State :=
  let port := declPort d
  let l := s.link port d.1
  match l.senders with
  | [] => s
  | id :: rest =>
    match (s.linkCore port id).bind fun p => ((s.core p).flight id).map fun k => (p, k) with
    | none => s.onLink port d.1 fun l => { l with senders := rest }
    | some (p, k) =>
      let left := (linkBytes k.c - 64 * k.pos) / 64
      let most := min (min left (d.2.2.1 - l.sent.length)) 64
      let n := if d.2.2.2 then 1 + s.anyBelow (6100 + d.1) most else 1
      let bs := memBytes (s.core p).ls (laddrOf k.a + 64 * k.pos) (64 * n)
      let lat := if d.2.2.2 then 1 + s.anyBelow (6000 + d.1) 65536 else s.hub.linkLat (4 + d.2.1)
      let t := s.onCore p fun c => (c.takePort k.flitWords).onFlight id fun k => { k with pos := k.pos + n }
      { t.onLink port d.1 fun l => { l with sent := l.sent ++ List.replicate n id, senders := if n = left then rest else l.senders } with
        linkRound := put t.linkRound port d.1
        linkOut := t.linkOut ++ [(s.now + lat, port, d.1, bs)] }
/-- The channels of a port in the order of its round: from the one after the last served (R371). -/
def State.round (s : State) (port : Nat) (ds : List (Nat × Nat × Nat × Bool)) : List (Nat × Nat × Nat × Bool) :=
  match find s.linkRound port with
  | some last => (ds.filter fun d => decide (last < d.1)) ++ ds.filter fun d => decide (d.1 ≤ last)
  | none => ds
/-- One slot of the round: the channel whose turn it is sends, or the slot is lost where port A is taken. -/
def State.linkSlot (s : State) (port : Nat) (ds : List (Nat × Nat × Nat × Bool)) : State :=
  match firstOf s.linkReady (s.round port ds) with
  | some d => if s.linkMayRead d then s.sendLinkFlit d else s
  | none => s
/-- The channels declared for a port, in ascending number. -/
def State.portChans (s : State) (port : Nat) : List (Nat × Nat × Nat × Bool) :=
  let ps := if port < 16 then [strandCore port] else (upTo 16).map strandCore
  sortBy (·.1) (((ps.map fun p => ((s.core p).launches.map (·.chans)).flatten).flatten.filter fun d => declPort d == port).eraseDups)
/-- LINK_FLIT_SEND (R371): the slots of port n in this cycle that its strand core's tidal flits leave; for n ≥ 16, an Ultra Ethernet port, whose timing is not fixed (R375). -/
def execLinkFlitSend (port : Nat) (s : State) : Out :=
  event (fun s =>
    let ds := s.portChans port
    if port < 16 then
      let tidal := (s.linkOut.filter fun o => o.2.1 == port && o.2.2.1 == 256 && o.1 == s.now + s.hub.linkLat (4 + port)).length
      if s.hub.linkUp (4 + port) then (upTo (portSlots s.now - tidal)).foldl (fun s _ => s.linkSlot port ds) s else s
    else s.linkSlot port ds) s
/-- An element of LRED (R238). -/
def redElem (ty : Nat) (old new : DWord) : DWord :=
  match ty with
  | 0 => BitVec.ofNat 32 (afaddVal false (old.toNat / 2 ^ 32) (new.toNat / 2 ^ 32)) ++
      BitVec.ofNat 32 (afaddVal false (old.toNat % 2 ^ 32) (new.toNat % 2 ^ 32))
  | 1 => BitVec.ofNat 32 (afaddVal true (old.toNat / 2 ^ 32) (new.toNat / 2 ^ 32)) ++
      BitVec.ofNat 32 (afaddVal true (old.toNat % 2 ^ 32) (new.toNat % 2 ^ 32))
  | 2 => (old.extractLsb' 32 32 + new.extractLsb' 32 32) ++ (old.extractLsb' 0 32 + new.extractLsb' 0 32)
  | _ => old + new
/-- A word that a taken flit leaves. -/
def takenWord (c : Core) (k : Cmd) (a : Nat) (v : DWord) : DWord :=
  match k.op with
  | .lred _ _ _ => redElem (k.c.extractLsb' 8 4).toNat (c.word a) v
  | _ => v
/-- The flit that a channel's first posted command takes next, with the core, the command and the flit's arrival (R237). -/
def State.nextTake (s : State) (port ch : Nat) : Option (Nat × Cmd × Nat × List Byte) :=
  let l := s.link port ch
  match l.recv, l.posted with
  | (at_, bs) :: _, id :: _ => (s.linkCore port id).bind fun p => ((s.core p).flight id).map fun k => (p, k, at_, bs)
  | _, _ => none
/-- The oldest waiting flit of a channel is taken by its first posted command, at port A; one credit goes back, and the last flit ends the command (R237, R238, R371). -/
def State.takeFlit (s : State) (port ch : Nat) : State :=
  match s.nextTake port ch with
  | none => s
  | some (p, k, _, bs) =>
    let a := laddrOf k.a + 64 * k.pos
    let ws := k.flitWords
    if !(s.core p).portFree ws then s else
    let s1 := s.onCore p fun c =>
      let c := (upTo 8).foldl (fun c n => c.storeBytes (a + 8 * n) 8 (takenWord c k (a + 8 * n) (wordAt bs (8 * n))).toNat)
        (c.takePort ws)
      (c.noteWriter ws p 256).onFlight k.id fun k => { k with pos := k.pos + 1 }
    let last := linkBytes k.c ≤ 64 * (k.pos + 1)
    let s2 := s1.onLink port ch fun l => { l with recv := l.recv.drop 1, posted := if last then l.posted.drop 1 else l.posted }
    let s3 := s2.logReceive p 0x06 k.ctx p k.ctx (BitVec.ofNat 64 ch) a 64 bs
    let lat := if port < 16 then s.hub.linkLat (4 + port) else 1 + s.anyBelow (6300 + ch) 65536
    let s4 := { s3 with linkOut := s3.linkOut ++ [(s.now + lat, port, 1024 + ch, [])] }
    if last then s4.engineDone p k else s4
/-- The flits of a message: 64 bytes each. -/
def flitsOf : Nat → List Byte → List (List Byte)
  | 0, _ => []
  | n + 1, l => if l.isEmpty then [] else l.take 64 :: flitsOf n (l.drop 64)
/-- LINK_FLIT_ARRIVAL: flits from a port reach their channel's receive buffer (R371, R375), or the strand core's tidal router, which they enter in the next cycle (channel code 256, void without bytes; R362); without bytes, a waiting flit is taken (R237; log 21). -/
def execLinkFlitArrival (port ch : Nat) (data : List (BitVec 8)) (s : State) : Out :=
  event (fun s =>
    if ch = 256 then
      let p := strandCore (port % 16)
      let input := if dieOf p % 2 = 0 then 5 else 3
      s.onCore p fun c => { c with flits := c.flits ++ [⟨s.now + 1, input, if data.isEmpty then none else some data⟩] }
    else if data.isEmpty then s.takeFlit port ch
    else s.onLink port ch fun l => { l with recv := l.recv ++ (flitsOf 64 data).map fun f => (s.now, f) }) s
/-- LINK_CREDIT_RETURN (R237, R371): the oldest flit that the other end had not taken has been; an LSND ends with its last flit's credit. -/
def execLinkCreditReturn (port ch : Nat) (s : State) : Out :=
  event (fun s =>
    let l := s.link port ch
    match l.sent with
    | [] => s
    | id :: rest =>
      let t := s.onLink port ch fun l => { l with sent := rest }
      match (s.linkCore port id).bind fun p => ((s.core p).flight id).map fun k => (p, k) with
      | some (p, k) => if !(id ∈ rest) && !(id ∈ l.senders) then t.engineDone p k else t
      | none => t) s
/-- A link that failed ends every started command of its channels with late fault 0x08 (R373). -/
def State.failLink (s : State) (port : Nat) : State :=
  let p := strandCore port
  let isLink : Instr → Bool := fun i => match i with | .lsnd _ _ _ | .lrcv _ _ _ | .lred _ _ _ => true | _ => false
  let hit := (s.core p).eflight.filter fun k =>
    isLink k.op && (match (s.core p).cmdDecl p k (linkChan k.c) with | some d => !d.2.2.2 | none => false)
  let t := hit.foldl (fun s k => (s.engineDone p k).engineFault p k 0x08 (BitVec.ofNat 64 (linkChan k.c))) s
  let gone := hit.map (·.id)
  hit.foldl (fun s k => s.onLink port (linkChan k.c) fun l =>
    { l with sent := l.sent.filter fun i => !(i ∈ gone), senders := l.senders.filter fun i => !(i ∈ gone),
             posted := l.posted.filter fun i => !(i ∈ gone) }) t
/-- Tidal flits that are crossing a link when it fails are delivered as void flits (R373): links 0 to 3 are the die pairs, 4 + n is port n. -/
def State.voidFlits (s : State) (k : Nat) : State :=
  let crossed (p : Nat) (f : Flit) : Bool := match tidalWay p f.input with | .pair _ n => n == k | _ => false
  let t := s.mapCores fun p c => { c with flits := c.flits.map fun f =>
    (if s.now < f.cycle ∧ crossed p f then { f with data := none } else f) }
  { t with linkOut := t.linkOut.map fun o => if o.2.2.1 = 256 ∧ o.2.1 + 4 = k ∧ s.now < o.1 then (o.1, o.2.1, 256, []) else o }

/-! ## Re-tide (R288) -/

/-- RETIDE_INSTANT (R288): the shadow table becomes active and every context counts from T; queued tide-locked commands not started are refused. -/
def execRetideInstant (core : Nat) (s : State) : Out :=
  event (fun s =>
    match (s.core core).retide with
    | none => s
    | some t =>
      if t ≠ s.now then s else
      let saved := ((s.core core).swapping.map (·.cmds)).flatten
      let timed := ((s.core core).eq ++ (s.core core).ewait ++ saved.filter fun k => !k.matrix).filter Cmd.timed
      let mtimed := ((s.core core).mq ++ (s.core core).mwait ++ saved.filter Cmd.matrix).filter Cmd.timed
      let s1 := timed.foldl (fun s k =>
        let off := (Instr.start k.op).off.setWidth 64
        let isT : Bool := match k.op with | .tsnd _ _ _ | .trcv _ _ _ _ => true | _ => false
        ((s.engineDone core k).engineFault core k (if isT then 0x1E else 0x0A) off).endWait core k.ctx k.id none) s
      let s2 := mtimed.foldl (fun s k =>
        (s.mRefuse core k 0x0A ((s.core core).stepTval k)).endWait core k.ctx k.id none) s1
      s2.onCore core fun c =>
        -- The core turn that begins at T is the first that counts.
        let c := c.mapCtxs fun _ x =>
          { x with base := t, turn := if x.ran then 1 else 0, disp := if x.st = .stop || x.st = .out then 1 else 0 }
        { c with routes := c.shadow, tideBase := t, retide := none,
                 swapping := c.swapping.map fun (j : SwapJob) => { j with cmds := j.cmds.filter fun k => !k.timed },
                 pool := c.pool.map fun kq => (kq.1, { kq.2 with base := t, turn := 0, disp := 1, retided := true }) }) s

end Sys2Proof.Machine
end

