-- ==== Sys2Proof/Machine/Copies.lean ====
section
/-! DEFINITION. Copies outside their issuing core: entry quays, translation, pieces, staging, channel pairs and the words' arrival (spec/15_memories_and_translation.md R341 to R360; spec/09_engines_tags_and_channels.md R222 to R224; spec/13_execution_and_scheduling.md R323; spec/11_tasks_traps_and_system.md R286). -/
namespace Sys2Proof.Machine

/-! ## Cliffstack (R341, R342) -/

/-- Bytes of Cliffstack. -/
def cliffSize : Nat := 2 ^ 39
/-- The quay core that serves a physical address (R342). -/
def servingQuay (pa : Nat) : Nat := let s := pa / 2 ^ 36 % 8; quayOf (s / 2) (8 * (s % 2) + pa / 256 % 8)
/-- A 64-bit word of the stack. -/
def State.stackWord (s : State) (pa : Nat) : DWord := BitVec.ofNat 64 (memRead s.cliff pa 8)
/-- Reservations of harts on bytes of the stack that are written end (R378). -/
def State.breakReservations (s : State) (pa n : Nat) : State :=
  let f (h : Hart) : Hart := match h.reservation with
    | some (a, wide) => if a < pa + n && pa < a + (if wide then 8 else 4) then { h with reservation := none } else h
    | none => h
  { s with hub := { s.hub with harts := s.hub.harts.map fun kh => (kh.1, f kh.2) } }
/-- Bytes of the stack written. -/
def State.putStack (s : State) (pa : Nat) (bs : List Byte) : State :=
  { s.breakReservations pa bs.length with
    cliff := memPutBytes s.cliff pa bs
    -- A codeword written whole has no error left.
    cliffBad := s.cliffBad.filter fun k => !(decide (pa ≤ 32 * k) && decide (32 * k + 32 ≤ pa + bs.length)) }
/-- A 64-bit word of the stack written. -/
def State.setStackWord (s : State) (pa : Nat) (v : DWord) : State :=
  { s.breakReservations pa 8 with cliff := memWrite s.cliff pa 8 v.toNat }
/-- A quay core, or a strand core's datapath. -/
def State.quay (s : State) (q : Nat) : Quay := look Quay.reset s.quays q
/-- A quay core changed. -/
def State.onQuay (s : State) (q : Nat) (f : Quay → Quay) : State := { s with quays := put s.quays q (f (s.quay q)) }
/-- A codeword of Cliffstack has an uncorrectable error (R359). -/
def State.badCode (s : State) (pa : Nat) : Bool := pa / 32 ∈ s.cliffBad
/-! ## A copy starts (R222, R323, R343) -/

/-- The entry quay of a core, or the engine core itself (R222, R343). -/
def entryOf (p : Nat) : Nat := if isOrdinary p then quayOf (dieOf p) (shoreOf p % 16) else p
/-- The bound of an uncontended or contended crossing of the eddy plane by b beats: 25h + b + 2, and 3L + 30 for every die pair crossed (R322, R369). -/
def State.eddyBound (s : State) (src dst b : Nat) : Nat :=
  let ns := nodesOf src dst
  25 * ns.length + b + 2 + total ((zipNext ns).map fun xy => match pairBetween xy.1 xy.2 with
    | some n => 3 * s.hub.linkLat n + 30
    | none => 0)
/-- A copy or code load starts: its request is on its way to the entry quay; an engine core's own datapath takes it at once. -/
def State.copyStart (s : State) (p : Nat) (k : Cmd) : State :=
  let due := if isOrdinary p then s.now + 1 + s.anyBelow (7000 + k.id % 500) (s.eddyBound p (entryOf p) 5) else s.now
  let next := k.a.toNat
  let t := s.onCore p fun c =>
    { c with eq := c.eq.filter (·.id != k.id), eflight := c.eflight ++ [{ k with started := some s.now, until_ := openEnd }] }
  { t with copies := t.copies ++
      [⟨k.id, p, k.ctx, k.launch, k.op, k.a, k.b, k.c, entryOf p, .request, due, none, [], [], [], [], [], [], next, none⟩] }
/-- A copy of a name. -/
def State.copy (s : State) (id : Nat) : Option Copy := firstOf (fun k => k.id == id) s.copies
/-- A copy changed. -/
def State.onCopy (s : State) (id : Nat) (f : Copy → Copy) : State :=
  { s with copies := s.copies.map fun k => if k.id = id then f k else k }
/-- COPY_SERVICE_REQUEST (R323): a request joins the service queue of 128, or is sent again 16 cycles after its refusal arrives. -/
def execCopyServiceRequest (copy : Nat) (s : State) : Out :=
  event (fun s =>
    match s.copy copy with
    | none => s
    | some k =>
      if k.stage ≠ .request || decide (s.now < k.due) then s
      else if (s.quay k.entry).service.length < 128 then
        (s.onQuay k.entry fun q => { q with service := q.service ++ [copy] }).onCopy copy fun k => { k with stage := .queued }
      else
        let b := s.eddyBound k.core k.entry 5
        s.onCopy copy fun k => { k with due := s.now + 18 + s.anyBelow 7600 b + s.anyBelow 7601 b }) s

/-! ## Rows and pages (R219, R351) -/

/-- The virtual side of a copy: address and stride; CODEL's is its own address. -/
def Copy.virt (k : Copy) : Option (DWord × Int) :=
  match k.op with
  | .cpyi _ _ _ _ _ => some (k.b, (shapeOf k.c).sstr)
  | .cpyo _ _ _ _ _ => some (k.a, (shapeOf k.c).dstr)
  | .codel _ _ _ => some (k.a, 0)
  | _ => none
/-- Rows and bytes of a row. -/
def Copy.rows (k : Copy) : Nat × Nat :=
  match k.op with
  | .codel _ _ _ => (1, 64 * k.b.toNat)
  | _ => ((shapeOf k.c).rows, (shapeOf k.c).rowb)
/-- First virtual byte of row r. -/
def Copy.virtStart (k : Copy) (r : Nat) : Nat :=
  match k.virt with
  | some (a, st) => (virtRow a st r).toNat
  | none => 0
/-- The first byte of a range, and its bytes on 4 KiB boundaries. -/
def pageStarts (a n : Nat) : List Nat :=
  a :: (upTo ((a + n - 1) / 4096 - a / 4096)).map fun i => (a / 4096 + 1 + i) * 4096
/-- The virtual addresses at which a copy needs a translation, in row order. -/
def Copy.touches (k : Copy) : List Nat :=
  if k.virt.isNone then [] else
  ((upTo k.rows.1).map fun r => pageStarts (k.virtStart r) k.rows.2).flatten
/-- A page of a copy's translations that covers an address. -/
def Copy.page (k : Copy) (va : Nat) : Option (Nat × Nat × Nat) :=
  firstOf (fun p => va / 2 ^ p.2.1 == p.1 / 2 ^ p.2.1) k.pages
/-- The physical address of a virtual one under the copy's translations. -/
def Copy.physical (k : Copy) (va : Nat) : Nat :=
  match k.page va with
  | some (_, sz, pa) => pa + va % 2 ^ sz
  | none => 0
/-- The copy uses the instruction space: CODEL, or the alias (R351). -/
def Copy.instr (k : Copy) (va : Nat) : Bool :=
  match k.op with
  | .codel _ _ _ => true
  | _ => decide (2 ^ 47 ≤ va)
/-- The address that a walk translates: VA[46:0] of an alias. -/
def Copy.walkVa (k : Copy) (va : Nat) : Nat :=
  match k.op with
  | .codel _ _ _ => va
  | _ => va % 2 ^ 47
/-- A copy that writes its page. -/
def Copy.writes (k : Copy) : Bool :=
  match k.op with
  | .cpyo _ _ _ _ _ => true
  | _ => false
/-- The launch record of a name. -/
def State.launch (s : State) (l : Option Nat) : Option Launch :=
  match l with
  | some n => firstOf (fun (r : Launch) => r.id.toNat == n) s.hub.launches
  | none => none
/-- A copy's translation context for an address: root and space id (R351). -/
def State.rootOf (s : State) (k : Copy) (va : Nat) : Option (Nat × Half) :=
  (s.launch k.launch).map fun l => ((if k.instr va then l.iroot else l.droot).toNat, l.space)
/-- TVAL of a copy's fault (R223, R354). -/
def Copy.tval (k : Copy) (reason addr : Nat) : DWord :=
  BitVec.ofNat 64 (addr % 2 ^ 48 + 2 ^ 48 * reason + 2 ^ 56 * ((tagOf k.op).getD 0))

/-! ## Table entries and buffers (R352 to R355) -/

/-- Index of a level (R352): its lowest bit, which is log2 of its leaf's page size, and its width. -/
def levelShape (level : Nat) : Nat × Nat :=
  match level with
  | 6 => (38, 10) | 5 => (34, 4) | 4 => (30, 4) | 3 => (25, 5) | 2 => (21, 4) | 1 => (16, 5) | _ => (12, 4)
/-- What a table entry gives. -/
inductive WalkEnd
  | next (table : Nat) | leaf (entry : DWord) | bad (reason : Nat)
  deriving DecidableEq, Repr
/-- The reading of an entry at a level (R353, R354). -/
def readEntry (instr : Bool) (level : Nat) (e : DWord) : WalkEnd :=
  let sz := (levelShape level).1
  let below := (levelShape (level - 1)).2 + 3
  let leaf := e.getLsbD 1
  let addr := (e &&& 0x7FFFFFFF80).toNat
  if !e.getLsbD 0 then .bad 1
  else if e.extractLsb' 39 25 != 0 || e.extractLsb' 4 3 != 0 then .bad 2
  else if leaf then
    if addr % 2 ^ sz ≠ 0 then .bad 2 else if instr && decide (level < 2) then .bad 3 else .leaf e
  else if level = 0 || e.getLsbD 2 || e.getLsbD 3 || decide (addr % 2 ^ below ≠ 0) then .bad 2
  else if instr && level = 2 then .bad 3
  else .next addr
/-- The page address of a leaf. -/
def leafAddr (e : DWord) : Nat := (e &&& 0x7FFFFFFF80).toNat
/-- The refusal of a leaf for a copy (R354): none where it grants the access. -/
def Copy.refusal (k : Copy) (e : DWord) : Option (Nat × Nat) :=
  if k.writes then (if e.getLsbD 3 then none else some (0x12, 2)) else if e.getLsbD 2 then none else some (0x12, 1)
/-- The core that holds the buffer that a copy looks up (R347, R355). -/
def Copy.holder (k : Copy) (va : Nat) : Nat :=
  if kindOf k.entry = 2 && k.instr va then quayOf (dieOf k.entry) 0 else k.entry
/-- A hit: the entry of the smallest page that covers the address (R355). -/
def Quay.hit (q : Quay) (space : Half) (instr : Bool) (va : Nat) : Option Tlb :=
  (sortBy (·.sz) (q.tlb.filter fun t => t.space == space && t.instr == instr && t.va / 2 ^ t.sz == va / 2 ^ t.sz)).head?
/-- Entries of a buffer: 1,024 data and 64 instruction, or a strand core's 256. -/
def tlbSize (holder : Nat) (instr : Bool) : Nat := if kindOf holder = 2 then 256 else if instr then 64 else 1024
/-- A leaf enters a buffer, the least recently used entry of its kind leaving a full one (R355). -/
def Quay.enterTlb (q : Quay) (holder : Nat) (t : Tlb) : Quay :=
  let same := q.tlb.filter fun u => u.instr == t.instr
  let oldest := (sortBy (·.used) same).head?
  let kept := if same.length < tlbSize holder t.instr then q.tlb else
    match oldest with
    | some o => q.tlb.erase o
    | none => q.tlb
  { q with tlb := kept ++ [t] }

/-! ## Translation (R343, R356) -/

/-- What a copy's translation meets first. -/
inductive Translated
  | all (pages : List (Nat × Nat × Nat)) | miss (pages : List (Nat × Nat × Nat)) (va : Nat) | refused (cause : Nat) (tval : DWord)
  deriving DecidableEq, Repr
/-- A copy's pages looked up in row order until one misses or refuses. -/
def State.lookUp (s : State) (k : Copy) : List Nat → List (Nat × Nat × Nat) → Translated
  | [], pages => .all pages
  | va :: t, pages =>
    if (Copy.page { k with pages := pages } va).isSome then s.lookUp k t pages else
    match s.rootOf k va with
    | none => .refused 0x11 (k.tval 1 va)
    | some (_, space) =>
      match (s.quay (k.holder va)).hit space (k.instr va) (k.walkVa va) with
      | none => .miss pages va
      | some e =>
        match k.refusal e.entry with
        | some (cause, reason) => .refused cause (k.tval reason va)
        | none => s.lookUp k t (pages ++ [(va / 2 ^ e.sz * 2 ^ e.sz, e.sz, leafAddr e.entry)])
/-- The entry that served an address is the most recently used one of its buffer (R355). -/
def Quay.used (q : Quay) (t : Tlb) (now : Nat) : Quay :=
  if t ∈ q.tlb then { q with tlb := q.tlb.erase t ++ [{ t with used := now }] } else q
/-- The addresses of a copy whose lookups hit, up to the first that misses or is refused. -/
def State.hits (s : State) (k : Copy) : List Nat → List Nat
  | [] => []
  | va :: t =>
    if (k.page va).isSome then s.hits k t else
    match (s.rootOf k va).bind fun r => (s.quay (k.holder va)).hit r.2 (k.instr va) (k.walkVa va) with
    | none => []
    | some e => va :: if (k.refusal e.entry).isSome then [] else s.hits k t
/-- The entries that a copy's lookups hit are the most recently used ones (R355). -/
def State.touchTlb (s : State) (k : Copy) : State :=
  (s.hits k k.touches).foldl (fun s va =>
    match s.rootOf k va with
    | none => s
    | some (_, space) => s.onQuay (k.holder va) fun q =>
      match q.hit space (k.instr va) (k.walkVa va) with
      | some t => q.used t s.now
      | none => q) s
/-- Log2 of the page in which a walk from a table would end now: the leaf's, or that of the level at which it fails (R352, R353). -/
def State.pageSize (s : State) (instr : Bool) (va : Nat) : Nat → Nat → Nat
  | 0, _ => 12
  | level + 1, table =>
    let (lo, n) := levelShape level
    match readEntry instr level (s.stackWord (table + 8 * (va / 2 ^ lo % 2 ^ n))) with
    | .next t => s.pageSize instr va level t
    | _ => lo
/-- A miss joins the walk under way for its page, or begins one (R356). -/
def State.beginWalk (s : State) (k : Copy) (va : Nat) : State :=
  match s.rootOf k va with
  | none => s
  | some (root, space) =>
    let w := k.walkVa va
    let sz := s.pageSize (k.instr va) w 7 root
    match firstOf (fun (u : Walk) => u.root == root && u.space == space && u.instr == k.instr va && u.va / 2 ^ sz == w / 2 ^ sz) s.walks with
    | some u => s.onCopy k.id fun k => { k with walk := some u.id, stage := .translating }
    | none =>
      let t := s.onCopy k.id fun k => { k with walk := some s.ids, stage := .translating }
      { t with ids := t.ids + 1, walks := t.walks ++ [⟨s.ids, root, space, k.instr va, w, 6, root, s.now⟩] }

/-! ## Pieces (R342, R343) -/

/-- The local address of the first byte of row r of a copy's local side. -/
def Copy.localRow (k : Copy) (dst : Bool) (r : Nat) : Nat :=
  let (d, q) := copySides k.op k.a k.b k.c
  let side := if dst then d else q
  (Machine.localRow side.1 side.2.1 r).toNat
/-- The physical core that a remote address names for a launch of a core (R32, R284). -/
def Core.targetOf (c : Core) (launch : Option Nat) (a : DWord) : Option Nat :=
  if isPhys a then c.target 0 a else
  match launch with
  | some l => (firstOf (fun k => k.id.toNat == l) c.launches).bind fun k => nth k.map (remoteCore a)
  | none => none
/-- The words of row r as pairs of source and destination. -/
def Copy.rowWords (k : Copy) (r : Nat) : List (Nat × Nat) :=
  let n := k.rows.2 / 8
  match k.op with
  | .cpyi _ _ _ _ _ => (upTo n).map fun i => (k.physical (k.virtStart r + 8 * i), k.localRow true r + 8 * i)
  | .cpyo _ _ _ _ _ => (upTo n).map fun i => (k.localRow false r + 8 * i, k.physical (k.virtStart r + 8 * i))
  | .codel _ _ _ => (upTo n).map fun i => (k.physical (k.virtStart r + 8 * i), k.virtStart r + 8 * i)
  | _ => (upTo n).map fun i => (k.localRow false r + 8 * i, k.localRow true r + 8 * i)
/-- The address of a word pair that decides its piece: its Cliffstack side, if it has one. -/
def Copy.pieceKey (k : Copy) (w : Nat × Nat) : Nat :=
  match k.op with
  | .cpyo _ _ _ _ _ => w.2
  | _ => w.1
/-- Words gathered into runs of one aligned 256-byte block. -/
def blocks (key : Nat × Nat → Nat) : List (Nat × Nat) → List (List (Nat × Nat))
  | [] => []
  | w :: t =>
    match blocks key t with
    | (v :: r) :: rest => if key w / 256 = key v / 256 then (w :: v :: r) :: rest else [w] :: (v :: r) :: rest
    | rest => [w] :: rest
/-- The pieces of a copy, in row order and ascending address within a row. -/
def Copy.pieces (k : Copy) : List Piece :=
  let strand := if kindOf k.core = 2 && k.virt.isSome then some k.core else none
  ((upTo k.rows.1).map fun r => (blocks k.pieceKey (k.rowWords r)).map fun ws =>
    let q := if k.virt.isSome then servingQuay (k.pieceKey (ws.headD (0, 0))) else k.entry
    (⟨k.id, q, ws, strand, r, 0⟩ : Piece)).flatten
/-- A word of a copy is to be read at port A of its core (R131). -/
def State.askWord (s : State) (k : Copy) (q core row : Nat) (w : Nat × Nat) : State :=
  let due := s.now + 1 + s.anyBelow (7900 + w.1 / 8 % 64) (s.eddyBound q core 2)
  let t := s.onCopy k.id fun k => { k with reads := k.reads ++ [⟨s.ids, core, w.1, row, w.2, q, due⟩] }
  { t with ids := t.ids + 1 }
/-- A piece joins its piece queue (R344); one that writes Cliffstack then asks for its words. -/
def State.joinPiece (s : State) (id : Nat) (p : Piece) : State :=
  let t := s.onQuay p.quay fun q => { q with pieces := q.pieces ++ [{ p with since := s.now }] }
  match t.copy id with
  | some k => if k.writes then p.words.foldl (fun s w => s.askWord k p.quay k.core p.order w) t else t
  | none => t
/-- A copy's held pieces go to their piece queues of 256 until one is full (R344). -/
def State.sendPieces (s : State) (id : Nat) : List Piece → State
  | [] => s.onCopy id fun k => { k with toSend := [] }
  | p :: t =>
    if (s.quay p.quay).pieces.length < 256 then (s.joinPiece id p).sendPieces id t
    else s.onCopy id fun k => { k with toSend := p :: t }
/-- The head of a service queue is done with. -/
def State.popService (s : State) (q : Nat) : State := s.onQuay q fun u => { u with service := u.service.drop 1 }
/-- COPY_TRANSLATE (R323, R343): the copy at the head of a service queue is translated, divided and sent on; a miss begins or joins a walk, a refusal ends it. -/
def execCopyTranslate (quay : Nat) (s : State) : Out :=
  event (fun s =>
    match (s.quay quay).service with
    | [] => s
    | id :: _ =>
      match s.copy id with
      | none => s.popService quay
      | some k =>
        match k.stage with
        | .queued =>
          match s.lookUp k k.touches k.pages with
          | .refused cause v => ((s.touchTlb k).onCopy id fun k => { k with fault := some (causeWord cause true 0 0 0, v), stage := .ended }).popService quay
          | .miss pages va => ((s.touchTlb k).onCopy id fun k => { k with pages := pages }).beginWalk k va
          | .all pages =>
            let k' := { k with pages := pages, stage := .moving }
            let t := (s.touchTlb k).onCopy id fun _ => k'
            let u := t.sendPieces id k'.pieces
            match u.copy id with
            | some v => if v.toSend.isEmpty then u.popService quay else u
            | none => u.popService quay
        | .moving =>
          let u := s.sendPieces id k.toSend
          match u.copy id with
          | some v => if v.toSend.isEmpty then u.popService quay else u
          | none => u.popService quay
        | .ended => s.popService quay
        | _ => s) s

/-! ## Walks (R352 to R357) -/

/-- The address of the entry that a walk reads next. -/
def Walk.entryAddr (w : Walk) : Nat :=
  let (lo, n) := levelShape w.level
  w.table + 8 * (w.va / 2 ^ lo % 2 ^ n)
/-- The walks under way: the first 64 (R356). -/
def State.activeWalks (s : State) : List Walk := s.walks.take 64
/-- A walk ends for the copies that wait for it: `out` gives a page to a copy or ends it. -/
def State.endWalk (s : State) (w : Walk) (out : Copy → Except (Nat × Nat) DWord) : State :=
  let sz := (levelShape w.level).1
  let t : State := { s with walks := s.walks.filter (·.id != w.id) }
  (s.copies.filter fun k => k.walk == some w.id).foldl (fun s k =>
    -- The copy waits for the first address that it could not translate.
    let va := (firstOf (fun va => (k.page va).isNone) k.touches).getD w.va
    match out k with
    | .error (cause, reason) =>
      s.onCopy k.id fun k => { k with walk := none, stage := .ended, fault := some (causeWord cause true 0 0 0, k.tval reason va) }
    | .ok e =>
      if k.walkVa va / 2 ^ sz ≠ w.va / 2 ^ sz then s.onCopy k.id fun k => { k with walk := none, stage := .queued } else
      let s := s.onCopy k.id fun k =>
        { k with walk := none, stage := .queued, pages := k.pages ++ [(va / 2 ^ sz * 2 ^ sz, sz, leafAddr e)] }
      let h := k.holder va
      if ((s.quay h).hit w.space w.instr w.va).isSome then s
      else s.onQuay h fun q => q.enterTlb h ⟨w.space, w.instr, w.va / 2 ^ sz * 2 ^ sz, sz, e, s.now⟩) t
/-- TRANSLATION_WALK (R354, R356): one level of a walk is read. -/
def execTranslationWalk (id : Nat) (s : State) : Out :=
  event (fun s =>
    match firstOf (fun (w : Walk) => w.id == id) s.activeWalks with
    | none => s
    | some w =>
      let a := w.entryAddr
      if s.badCode a then s.endWalk w fun _ => .error (0x11, 5) else
      match readEntry w.instr w.level (s.stackWord a) with
      | .bad r => s.endWalk w fun _ => .error (0x11, r)
      | .leaf e => s.endWalk w fun k => match k.refusal e with | some (c, r) => .error (c, r) | none => .ok e
      | .next t => { s with walks := s.walks.map fun u => if u.id = id then { u with level := u.level - 1, table := t, since := s.now } else u }) s

/-! ## Bursts (R344, R345, R348, R349) -/

/-- The first burst of a piece: its words in the first word's aligned 64 bytes, and the rest. -/
def Piece.burst (p : Piece) (key : Nat × Nat → Nat) : List (Nat × Nat) × List (Nat × Nat) :=
  match p.words with
  | [] => ([], [])
  | w :: _ => (p.words.filter fun v => key v / 64 == key w / 64, p.words.filter fun v => key v / 64 != key w / 64)
/-- Words that a staging store of 2 MiB holds (R345). -/
def stagingWords : Nat := 262144
/-- A word enters staging: last in order, with the copies whose values it replaces (R345). -/
def Quay.stage (q : Quay) (now pa : Nat) (v : DWord) (k : Copy) : Quay :=
  let old := (q.staging.filter (·.pa == pa)).map (·.by_)
  { q with staging := q.staging.filter (·.pa != pa) ++ [⟨pa, v, old.flatten ++ [(k.id, k.launch, k.core, k.ctx)], now⟩] }
/-- A word of Cliffstack as a piece reads it: from staging where it is staged, undefined where its codeword is bad (R345, R359). -/
def State.pieceWord (s : State) (pa : Nat) : DWord :=
  match firstOf (fun w => w.pa == pa) (s.quay (servingQuay pa)).staging with
  | some w => w.val
  | none => if s.badCode pa then s.anyWord (5600 + pa / 8 % 256) else s.stackWord pa
/-- A piece that reads a word meets an uncorrectable error: its codeword is bad and it is not staged (R345, R359). -/
def State.badPiece (s : State) (pa : Nat) : Bool := s.badCode pa && !((s.quay (servingQuay pa)).staging.any (·.pa == pa))
/-- The notice of an uncorrectable error at a physical address (R359): address, core and context, then launch and tag. -/
def State.badNotice (s : State) (core ctx launch tag pa : Nat) : State :=
  (s.noticeM 1 (BitVec.ofNat 64 (pa + 2 ^ 40 * core + 2 ^ 56 * ctx))).noticeM 6 (BitVec.ofNat 64 (launch + 2 ^ 32 * tag))
/-- The notice of an uncorrectable error met by a copy (R359). -/
def State.pieceNotice (s : State) (k : Copy) (pa : Nat) : State :=
  if s.badPiece pa then s.badNotice k.core (s.realCtx k.core k.ctx) (k.launch.getD (2 ^ 32 - 1)) ((tagOf k.op).getD 0) pa else s
/-- A remote word of a copy is refused at its core (R136, R223). -/
def State.refusesWord (s : State) (dst src : Nat) (launch : Option Nat) (a : Nat) : Bool :=
  match s.banksAt dst src launch with
  | none => true
  | some own => !own.getLsbD (bankOf a)
/-- The core of a copy's local side, where it is another core's: a physical number still names its core when the reach or an armed migration has let go of it (R136, R444). -/
def State.remoteSide (s : State) (k : Copy) (dst : Bool) : Option Nat :=
  let (d, q) := copySides k.op k.a k.b k.c
  let a := (if dst then d else q).1
  if !isRemote a then none else
  match (s.core k.core).targetOf k.launch a with
  | some p => some p
  | none => if isPhys a then some (remoteCore a) else none
/-- Words of a row of a copy that have not been written: in pieces, waiting to be read, or on their way. -/
def State.rowLeft (s : State) (k : Copy) (r : Nat) : Nat :=
  let inPieces (l : List Piece) : Nat := total ((l.filter fun p => p.copy == k.id && p.order == r).map fun p => p.words.length)
  inPieces k.toSend + total (s.quays.map fun kq => inPieces kq.2.pieces) +
    (k.reads.filter (·.row == r)).length + (k.moves.filter (·.row == r)).length
/-- The log entry of a row, at the core whose local store it was written into (R335). -/
def State.logRow (s : State) (k : Copy) (core r : Nat) : State :=
  let a := k.localRow true r
  s.logReceive core 0x04 (s.realCtx k.core k.ctx) k.entry (s.realCtx k.core k.ctx) (BitVec.ofNat 64 ((tagOf k.op).getD 0)) a k.rows.2
    (memBytes (s.core core).ls a k.rows.2)
/-- A copy ends with a remote refusal: no further word is written (R223); rows written in part are logged (R335). -/
def State.refuseCopy (s : State) (k : Copy) (a : DWord) (addr : Nat) : State :=
  let v : DWord := (a &&& 0xC000FFFF00000000) ||| BitVec.ofNat 64 (addr % 2 ^ 19 + 2 ^ 56 * ((tagOf k.op).getD 0))
  let core := (s.remoteSide k true).getD k.core
  let part := (upTo k.rows.1).filter fun r => decide (0 < s.rowLeft k r) && decide (8 * s.rowLeft k r < k.rows.2)
  let u := part.foldl (fun s r => s.logRow k core r) s
  let t := u.onCopy k.id fun k => { k with fault := some (causeWord 0x08 true 0 0 0, v), stage := .ended, reads := [], moves := [], toSend := [] }
  { t with quays := t.quays.map fun kq => (kq.1, { kq.2 with pieces := kq.2.pieces.filter (·.copy != k.id) }) }
/-- A word read by a copy sets out for its destination: a core, or the staging store of a quay core. -/
def State.sendWord (s : State) (k : Copy) (from_ core a row : Nat) (v : DWord) : State :=
  -- Words for a core whose work has moved go to its new core (R284).
  let core := ((s.core core).forward).getD core
  let due := s.now + 1 + s.anyBelow (7700 + a / 8 % 256) (s.eddyBound from_ core 2)
  let t := s.onCopy k.id fun k => { k with moves := k.moves ++ [⟨s.ids, core, a, row, v, due⟩] }
  { t with ids := t.ids + 1 }
/-- The words of a piece that writes Cliffstack which have come to its serving quay, or are on their way. -/
def Copy.gathered (k : Copy) (q r block : Nat) : List WordMove :=
  k.moves.filter fun m => m.core == q && m.row == r && m.laddr / 256 == block
/-- The words of a CPYO's piece enter the staging store of quay core q together; those of P = 1 are then drained (R224, R345, R424). -/
def State.stagePiece (s : State) (q : Nat) (k : Copy) (r block : Nat) : State :=
  let ms := k.gathered q r block
  let prio : Bool := match k.op with | .cpyo _ _ _ p _ => p | _ => false
  (s.onQuay q fun u => ms.foldl (fun u m => u.stage s.now m.laddr m.val k) u).onCopy k.id fun k => { k with
    moves := k.moves.filter fun m => !(ms.any (·.id == m.id)), drains := if prio then k.drains ++ ms.map (·.laddr) else k.drains }
/-- One burst of a piece of row r is performed at quay core q (R224, R344, R345): words of Cliffstack are read, or staged with the piece's last burst, and words of local stores asked for. -/
def State.serveBurst (s : State) (q : Nat) (k : Copy) (r : Nat) (ws : List (Nat × Nat)) (last : Bool) : State :=
  match k.op with
  | .cpyo _ _ _ _ _ => if last then s.stagePiece q k r ((ws.headD (0, 0)).2 / 256) else s
  | .cpyi _ _ _ _ _ =>
    let core := (s.remoteSide k true).getD k.core
    ws.foldl (fun s w => (s.pieceNotice k w.1).sendWord k q core w.2 r (s.pieceWord w.1)) s
  | .codel _ _ _ =>
    let bad := ws.filter fun w => s.badPiece w.1
    let s1 := s.onCopy k.id fun k => { k with badLines := k.badLines ++ bad.map fun w => w.2 / 64 * 64 }
    ws.foldl (fun s w => (s.pieceNotice k w.1).sendWord k q k.core w.2 r (s.pieceWord w.1)) s1
  | _ => ws.foldl (fun s w => s.askWord k q ((s.remoteSide k false).getD k.core) r w) s
/-- A local address is one of the words that a CPYL reads. -/
def Copy.readsFrom (k : Copy) (a : Nat) : Bool :=
  (upTo k.rows.1).any fun r => decide (k.localRow false r ≤ a) && decide (a < k.localRow false r + k.rows.2)
/-- The value that a copy writes at a destination: undefined where it is also one of its source words (R220). -/
def State.copied (s : State) (k : Copy) (m : WordRead) (v : DWord) : DWord :=
  match k.op with
  | .cpyl _ _ _ _ => if (s.remoteSide k true).getD k.core = m.core && k.readsFrom m.dst then s.anyWord (5900 + m.dst / 8 % 64) else v
  | _ => v
/-- The destination of a word that a copy reads: a quay core's staging store, or a core. -/
def State.sendTo (s : State) (k : Copy) (m : WordRead) : Nat :=
  match k.op with
  | .cpyo _ _ _ _ _ => m.quay
  | _ => (s.remoteSide k true).getD k.core
/-- A word of a copy is granted port A of its core, and read (R132, R224); a refused remote word ends the copy (R223). -/
def State.readWord (s : State) (copy read : Nat) : State :=
  match s.copy copy with
  | none => s
  | some k =>
    match firstOf (fun (m : WordRead) => m.id == read) k.reads with
    | none => s
    | some m =>
      if (s.remoteSide k false).isSome && s.refusesWord m.core k.core k.launch m.laddr then s.refuseCopy k k.b m.laddr else
      let v := s.copied k m (s.engineWord m.core m.laddr)
      let t := ((s.engineNotice m.core m.laddr).onCore m.core fun c => c.takePort [m.laddr]).onCopy copy fun k =>
        { k with reads := k.reads.filter (·.id != read) }
      t.sendWord k m.core (t.sendTo k m) m.dst m.row v
/-- The strand cores that have pieces at a quay core. -/
def Quay.strandCores (u : Quay) : List Nat := sortBy id (u.pieces.filterMap (·.strand)).eraseDups
/-- A strand core has weight left in the strand class's round (R349). -/
def Quay.strandLeft (u : Quay) (p : Nat) : Bool := decide (look 0 u.strands p < look 0 u.strandWeights p)
/-- The strand class's round starts again (R349): each strand core's own weight is taken. -/
def State.newStrandRound (s : State) (u : Quay) : Quay :=
  { u with strands := [], strandWeights := (upTo 16).map fun n => (strandCore n, ((s.core (strandCore n)).qarb.extractLsb' 8 8).toNat) }
/-- A quay core in the round of the strand class's next burst: the one under way, or the next where no strand core that waits has weight left. -/
def State.strandRound (s : State) (q : Nat) : Quay :=
  let u := s.quay q
  if u.strandCores.any u.strandLeft then u else s.newStrandRound u
/-- The strand core that the strand class serves next: in rounds, in proportion to the strand cores' own weights; one of weight 0 only where no other waits (R349). -/
def State.nextStrand (s : State) (q : Nat) : Option Nat :=
  let u := s.strandRound q
  match firstOf u.strandLeft u.strandCores with
  | some p => some p
  | none => u.strandCores.head?
/-- The piece that a class serves next. -/
def State.headPiece (s : State) (q : Nat) (strand : Bool) : Option Piece :=
  if strand then (s.nextStrand q).bind fun p => firstOf (fun k => k.strand == some p) (s.quay q).pieces
  else firstOf (fun k => k.strand.isNone) (s.quay q).pieces
/-- The block of 256 bytes of a CPYO's piece. -/
def Piece.block (p : Piece) : Nat := (p.words.headD (0, 0)).2 / 256
/-- A write piece finds no room in staging (R345). -/
def State.noRoom (s : State) (q : Nat) (p : Piece) : Bool :=
  match s.copy p.copy with
  | some k => k.writes && decide (stagingWords < (s.quay q).staging.length + (k.gathered q p.order p.block).length)
  | none => false
/-- A piece may be served: the words that it writes to Cliffstack have come, and find room (R345, R424). -/
def State.ripe (s : State) (q : Nat) (p : Piece) : Bool :=
  match s.copy p.copy with
  | some k => !k.writes || (!s.noRoom q p && p.words.all fun w =>
      (k.gathered q p.order p.block).any fun m => m.laddr == w.2 && decide (m.due ≤ s.now))
  | none => true
/-- A strand core's grant is counted (R349). -/
def State.countStrand (s : State) (q p : Nat) : State :=
  let u := s.strandRound q
  s.onQuay q fun v => { v with strands := put u.strands p (look 0 u.strands p + 1), strandWeights := u.strandWeights }
/-- PIECE_SERVE (R344): a granted burst of the quay or strand class is used by the class's next piece. -/
def execPieceServe (quay : Nat) (s : State) : Out :=
  event (fun s =>
    let u := s.quay quay
    let strand := u.grants.1 = 0
    if u.grants.1 = 0 && u.grants.2.1 = 0 then s else
    match s.headPiece quay strand with
    | none => s
    | some p =>
      let s0 := s.onQuay quay fun u =>
        { u with grants := if strand then (u.grants.1, u.grants.2.1 - 1, u.grants.2.2) else (u.grants.1 - 1, u.grants.2.1, u.grants.2.2) }
      if !s.ripe quay p then s0 else
      match s.copy p.copy with
      | none => s0.onQuay quay fun u => { u with pieces := u.pieces.erase p }
      | some k =>
        let (now, rest) := p.burst k.pieceKey
        let s1 := s0.onQuay quay fun u =>
          { u with pieces := if rest.isEmpty then u.pieces.erase p
                             else u.pieces.map fun v => if v = p then { v with words := rest } else v }
        (match p.strand with | some r => s1.countStrand quay r | none => s1).serveBurst quay k p.order now rest.isEmpty) s
/-- STAGING_WRITEBACK (R345): a granted quay burst writes back the first staged word and those staged in its 64 bytes next to it in order. -/
def execStagingWriteback (quay : Nat) (s : State) : Out :=
  event (fun s =>
    let u := s.quay quay
    match u.staging with
    | [] => s
    | w :: _ =>
      if u.grants.1 = 0 then s else
      let run := u.staging.takeWhile fun v => v.pa / 64 == w.pa / 64
      let pas := run.map (·.pa)
      let s0 := run.foldl (fun s v => s.setStackWord v.pa v.val) s
      -- A codeword written whole has no error left.
      let s1 := { s0 with cliffBad := s0.cliffBad.filter fun k => !([0, 8, 16, 24].all fun o => decide (32 * k + o ∈ pas)) }
      let s2 := s1.onQuay quay fun u =>
        { u with staging := u.staging.drop run.length, grants := (u.grants.1 - 1, u.grants.2.1, u.grants.2.2) }
      { s2 with copies := s2.copies.map fun k => { k with drains := k.drains.filter fun a => !(a ∈ pas) } }) s
/-- The classes of a pair that have bursts waiting: quay, strand, Lighthouse. -/
def State.waiting (s : State) (q class_ : Nat) : Bool :=
  match class_ with
  | 0 => (match s.headPiece q false with | some p => s.ripe q p | none => false) || !(s.quay q).staging.isEmpty
  | 1 => match s.headPiece q true with | some p => s.ripe q p | none => false
  -- Lighthouse traffic pauses without an active watch (R407).
  | _ => (s.hub.watches.any fun kw => kw.2.active) &&
    (!(s.quay q).hubQueue.isEmpty || s.activeWalks.any fun w => servingQuay w.entryAddr == q)
/-- Weight of a class in this round (R348). -/
def Quay.weight (q : Quay) (class_ : Nat) : Nat := (q.weights.extractLsb' (8 * class_) 8).toNat
/-- A class of weight 0 is served while no other class has a burst waiting (R348). -/
def State.idleClass (s : State) (q : Nat) : Option Nat :=
  firstOf (fun c => s.waiting q c && (s.quay q).weight c == 0) [0, 1, 2]
/-- The class of the next burst, and the quay core with its round gone on (R348, R349); a round's start takes QARB. -/
def State.nextGrant (s : State) (q : Nat) : Nat → Option Nat × State
  | 0 => (none, s)
  | fuel + 1 =>
    let u := s.quay q
    if u.turn < 3 then
      if u.left ≠ 0 && s.waiting q u.turn then
        (some u.turn, s.onQuay q fun u => { u with left := u.left - 1, granted := true })
      else
        let next := u.turn + 1
        (s.onQuay q fun u => { u with turn := next, left := if next < 3 then u.weight next else 0 }).nextGrant q fuel
    else
      let idle := if u.granted then none else s.idleClass q
      let w := (s.core q).qarb
      let t := s.onQuay q fun u => { u with turn := 0, left := (w.extractLsb' 0 8).toNat, granted := false, weights := w }
      match idle with
      | some c => (some c, t)
      | none => t.nextGrant q fuel
/-- The quay class's next burst is a piece's, not write-back's: the earlier arrival's, or, of two that came in one cycle, either (R348). -/
def State.pieceFirst (s : State) (q : Nat) : Bool :=
  match s.headPiece q false, (s.quay q).staging with
  | some p, w :: _ => s.ripe q p && (decide (p.since < w.since) || (p.since == w.since && s.anyBit 7990))
  | some p, [] => s.ripe q p
  | none, _ => false
/-- A burst of a hub access is granted: the request that it belongs to waits for one less. -/
def State.payBurst (s : State) (q : Nat) : State :=
  match (s.quay q).hubQueue with
  | [] => s
  | (t, _) :: rest =>
    let u := s.onQuay q fun u => { u with hubQueue := rest }
    { u with hub := { u.hub with asks := u.hub.asks.map fun a => if a.2.1 = t then (a.1, a.2.1, a.2.2 - 1) else a } }
/-- The Lighthouse class serves in the order of arrival (R348): a hub access before the walk that came first, or after it; of two that came in one cycle, either. -/
def State.hubFirst (s : State) (q : Nat) (w : Walk) : Bool :=
  match (s.quay q).hubQueue with
  | [] => false
  | (_, at_) :: _ => decide (at_ < w.since) || (at_ == w.since && s.anyBit 7991)
/-- What a grant lets happen. -/
def State.granted (s : State) (q class_ : Nat) : State :=
  match class_ with
  | 0 => if s.pieceFirst q then s.also (execPieceServe q) else if (s.quay q).staging.isEmpty then s else s.also (execStagingWriteback q)
  | 1 => s.also (execPieceServe q)
  | _ =>
    match (sortBy (·.since) (s.activeWalks.filter fun w => servingQuay w.entryAddr == q)).head? with
    | some w => if s.hubFirst q w then s.payBurst q else s.also (execTranslationWalk w.id)
    | none => s.payBurst q
/-- The bursts of an access of n bytes to the stack, by their addresses. -/
def burstsAt (pa n : Nat) : List Nat := (upTo ((pa + n + 63) / 64 - pa / 64)).map fun i => pa / 64 * 64 + 64 * i
/-- Bursts of a hub access join the Lighthouse class at their pairs (R346, R348): those of a request of a name, or, with the name 0, of an access that is already performed. -/
def State.oweBursts (s : State) (name : Nat) (pas : List Nat) : State :=
  pas.foldl (fun s pa => s.onQuay (servingQuay pa) fun u => { u with hubQueue := u.hubQueue ++ [(name, s.now)] }) s
/-- The bursts of an access of n bytes that is performed (R346, R348; log 67). -/
def State.charge (s : State) (pa n : Nat) : State := s.oweBursts 0 (burstsAt pa n)
/-- The hub asks for the bursts of what it does next. -/
def State.askFor (s : State) (a : HubAsk) (pas : List Nat) : State :=
  let t := s.oweBursts s.ids pas
  { t with ids := t.ids + 1, hub := { t.hub with asks := t.hub.asks ++ [(a, s.ids, pas.length)] } }
/-- What the hub does next waits until its bursts are granted (R348; log 67): it asks for them where it may act, and acts once they are. -/
def State.gate (s : State) (a : HubAsk) (may : State → Bool) (pas : State → List Nat) (act : State → State) : State :=
  match firstOf (fun k => k.1 == a) s.hub.asks with
  | none => if may s then s.askFor a (pas s) else s
  | some (_, name, 0) => act { s with hub := { s.hub with asks := s.hub.asks.filter fun k => k.2.1 != name } }
  | some _ => s
/-- CHANNEL_PAIR_ROUND (R348): a pair grants a burst, and what it is granted for comes next. -/
def execChannelPairRound (quay : Nat) (s : State) : Out :=
  event (fun s =>
    match s.nextGrant quay 9 with
    | (none, t) => t
    | (some c, t) =>
      (t.onQuay quay fun u => { u with grants := match c with | 0 => (1, 0, 0) | 1 => (0, 1, 0) | _ => (0, 0, 1) }).granted quay c) s

/-! ## Soft errors (R328, R359; log 68) -/

/-- A soft error strikes a store. -/
def State.strike (s : State) : Happening → State
  | .peerAtomic _ | .hartStep _ => s
  | .corrected => { s with hub := { s.hub with corrections := s.hub.corrections + 1 } }
  | .codeword k => { s with cliffBad := k :: s.cliffBad.filter (· != k) }
  | .staged q pa =>
    if !((s.quay q).staging.any (·.pa == pa)) then s else
    let t := (s.onQuay q fun u => { u with staging := u.staging.filter (·.pa != pa) }).noticeM 7 (BitVec.ofNat 64 pa)
    { t with copies := t.copies.map fun k => { k with drains := k.drains.filter (· != pa) } }
  | .tlb q n => s.onQuay q fun u => { u with tlb := u.tlb.eraseIdx n }
  | .codeLine p slot =>
    if (find (s.core p).code slot).isNone then s else
    { s.onCore p fun c => { c with code := del c.code slot } with hub := { s.hub with corrections := s.hub.corrections + 1 } }
/-! ## Words at their destination (R224, R286) -/

/-- A word of a copy that has arrived may be written now, where port A of its bank is free: words for a frozen core are held, but for those of its own C0 (R284). -/
def State.mayWrite (s : State) (k : Copy) (m : WordMove) : Bool :=
  let c := s.core m.core
  decide (m.due ≤ s.now) && k.stage != .ended && !(c.frozen && !(k.core == m.core && k.ctx == 0)) && c.portFree [m.laddr]
/-- A copy's words go into local stores. -/
def Copy.toLocal (k : Copy) : Bool :=
  match k.op with
  | .codel _ _ _ | .cpyo _ _ _ _ _ => false
  | _ => true
/-- COPY_WORD_WRITE (R131, R223, R224): the copy's oldest arrived word whose bank is free is written, and its row logged with its last word (R335); a refused remote word ends the copy. -/
def execCopyWordWrite (copy : Nat) (s : State) : Out :=
  event (fun s =>
    match s.copy copy with
    | none => s
    | some k =>
      if !k.toLocal then s else
      match firstOf (s.mayWrite k) (sortBy (·.due) k.moves) with
      | none => s
      | some m =>
        if (s.remoteSide k true).isSome && s.refusesWord m.core k.core k.launch m.laddr then s.refuseCopy k k.a m.laddr else
        let k' := { k with moves := k.moves.filter (·.id != m.id) }
        let t := (s.onCopy copy fun _ => k').onCore m.core fun c =>
          ((c.takePort [m.laddr]).storeBytes m.laddr 8 m.val.toNat).noteWriter [m.laddr] k.core 256
        if t.rowLeft k' m.row = 0 then t.logRow k' m.core m.row else t) s
/-- CODEL_LINE_WRITE (R34, R286, R358): the next line, when all of it has arrived, is written with its tag; one with an uncorrectable error is left invalid. -/
def execCodelLineWrite (copy : Nat) (s : State) : Out :=
  event (fun s =>
    match s.copy copy with
    | none => s
    | some k =>
      let mine := k.moves.filter fun m => m.laddr / 64 * 64 == k.next && decide (m.due ≤ s.now)
      if mine.length < 8 then s else
      let bytes := ((sortBy (·.laddr) mine).map fun m => bytesOf 8 m.val.toNat).flatten
      let slot := k.next / 64 % 2048
      let t := s.onCore k.core fun c =>
        { c with code := if k.next ∈ k.badLines then del c.code slot else put c.code slot ⟨k.next / 131072 % 2 ^ 31, bytes⟩ }
      t.onCopy copy fun k => { k with next := k.next + 64, moves := k.moves.filter fun m => m.laddr / 64 * 64 != k.next }) s
/-- Every word of a copy has been performed (R224). -/
def State.copyDone (s : State) (k : Copy) : Bool :=
  k.stage == .moving && k.toSend.isEmpty && k.reads.isEmpty && k.moves.isEmpty && k.drains.isEmpty &&
  !(s.quays.any fun q => q.2.pieces.any (·.copy == k.id))
/-- The engine command of a copy. -/
def State.copyCmd (s : State) (k : Copy) : Cmd :=
  match (s.core k.core).flight k.id with
  | some c => c
  | none => ⟨k.id, k.ctx, k.launch, k.op, 0, k.a, k.b, k.c, 0, 0, 0, 0, 0, 0, [], 0, none, 0, [], 0, 0, 0, false, none⟩
/-- A copy leaves the machine, and its command ends. -/
def State.endCopy (s : State) (k : Copy) : State :=
  let c := s.copyCmd k
  let t : State := { s with copies := s.copies.filter (·.id != k.id) }
  (t.engineDone k.core c).logReceive k.core 0x05 c.ctx k.entry 0 (BitVec.ofNat 64 ((tagOf k.op).getD 0)) 0 0 [] (some (.ended k.fault))
/-- COPY_COMPLETE (R224). -/
def execCopyComplete (copy : Nat) (s : State) : Out :=
  event (fun s =>
    match s.copy copy with
    | some k => if s.copyDone k then s.endCopy k else s
    | none => s) s
/-- COPY_FAULT (R223): a copy that met a refusal ends with a late fault. -/
def execCopyFault (copy : Nat) (s : State) : Out :=
  event (fun s =>
    match s.copy copy with
    | none => s
    | some k =>
      match k.fault with
      | none => s
      | some (cause, v) =>
        let c := s.copyCmd k
        -- A fault of C0's loading refuses the launch that it loads (R310).
        let mark (l : Launch) : Launch :=
          if s.realCtx k.core c.ctx = 0 && l.stage == .granted && l.grantedCores.contains k.core then { l with loadFault := true } else l
        let t := s.endCopy k
        ({ t with hub := { t.hub with launches := t.hub.launches.map mark } }).lateFault k.core c.ctx ⟨.engine s.now ((tagOf k.op).getD 0), cause, v, s.now⟩) s

end Sys2Proof.Machine
end

