-- ==== Sys2Proof/Machine/Issue.lean ====
section
/-! DEFINITION. The issue of a bundle around its operations: WAIT holds, fetch and capture, decode order and the guard before them, and the sequencer after them (spec/02_bundles_and_opcode_map.md R39 to R46, R60, R61; spec/01_machine_state.md R34, R35; spec/04_scalar_and_control.md R121 to R127; spec/11_tasks_traps_and_system.md R279, R283). -/
namespace Sys2Proof.Machine

/-! ## Fetch (R34, R35, R40) -/

/-- The bytes of the line that holds an instruction address, if it is valid and its tag matches (R34). -/
def Core.lineAt (c : Core) (a : Nat) : Option (List Byte) :=
  match find c.code (a / 64 % 2048) with
  | some l => if l.tag = a / 131072 % 2 ^ 31 then some l.bytes else none
  | none => none
/-- The bytes of the bundle at a, or the first address that is not present (R35, R40). -/
def Core.fetch (c : Core) (a : Nat) : Except Nat (List Byte) :=
  match c.lineAt a with
  | none => .error a
  | some l1 =>
    let o := a % 64
    let n := bundleLen (BitVec.ofNat 16 (leNat ((l1.drop o).take 2)))
    if o + n ≤ 64 then .ok ((l1.drop o).take n) else
    let a2 := (a - o + 64) % 2 ^ 48
    match c.lineAt a2 with
    | none => .error a2
    | some l2 => .ok (l1.drop o ++ l2.take (o + n - 64))
/-- The name of a captured bundle: the handler's levels capture apart (R127, log 18). -/
def Ctx.captureKey (x : Ctx) : Nat := x.next.toNat + (if x.frozen = 0 then 0 else 2 ^ 64)
/-- The bundle captured for the next address, if levels are open (R127). -/
def Ctx.captured (x : Ctx) : Option (List Byte) :=
  if x.live.isEmpty then none else find x.capture x.captureKey
/-- The bundle at a context's next address: the captured bytes, or those fetched; else cause and TVAL of the trap. -/
def Core.nextBundle (c : Core) (n : Nat) : Except (Nat × DWord) (List Byte) :=
  let x := c.ctx n
  match x.captured with
  | some bs => .ok bs
  | none =>
    if badTarget x.next then .error (0x07, x.next) else
    match c.fetch x.next.toNat with
    | .ok bs => .ok bs
    | .error a => .error (0x10, BitVec.ofNat 64 a)

/-- The header of the bundle at a context's next address, which its first line holds (R42); else cause and TVAL of the trap. -/
def Core.nextHeader (c : Core) (n : Nat) : Except (Nat × DWord) Half :=
  let x := c.ctx n
  match c.nextBundle n with
  | .ok bs => .ok (BitVec.ofNat 16 (leNat (bs.take 2)))
  | .error e =>
    if badTarget x.next then .error e else
    match c.lineAt x.next.toNat with
    | some l => .ok (BitVec.ofNat 16 (leNat ((l.drop (x.next.toNat % 64)).take 2)))
    | none => .error e

/-! ## Decode steps 2 to 10 (R61) -/

/-- An operation of a bundle: its slot, its words, and itself. -/
abbrev Op := Nat × DWord × Instr
/-- The words of an operation as one value, word 0 low. -/
def slotWords (o : SlotOp) : DWord := o.w1 ++ o.w0
/-- The operations of a bundle that decode. -/
def opsOf (b : Bundle) : List Op :=
  b.ops.filterMap fun o => match o.ins with
    | .ok i => some (o.slot.num, (slotWords o), i)
    | _ => none
/-- The frame turned to one slot. -/
def State.atSlot (s : State) (slot : Nat) (words : DWord) : State :=
  { s with frame := { s.frame with slot := slot, words := words } }
/-- An N opcode that is not available on this kind of core, or in native code (R60, R420). -/
def nAbsent (w0 : Word) (p : Nat) (emonef : Bool) : Bool :=
  match (fOp w0).toNat with
  | 0x26 | 0x27 | 0x28 => kindOf p != 2
  | 0x0D | 0x0E | 0x0F => !isOrdinary p
  | 0x30 | 0x31 => !emonef
  | _ => false
/-- Steps 3 to 6 as far as they need no decoded operation: a V or M slot of C0, an opcode that is not allocated or not available here, RX on an operation that admits none, and a reserved field. Model's choice (log 63): which of these R61 calls a header fault in TVAL; step 3 is one, and step 5 names the L operation. -/
def State.noteStatic (s : State) (b : Bundle) : State :=
  b.ops.foldl (fun s o =>
    let s := s.atSlot o.slot.num (slotWords o)
    let s := s.note (Trap.orIf (s.frame.ctx == 0 && (o.slot == .v || o.slot == .m)) ⟨3, 0x05, headerTval b.hdr⟩ none)
    let s := s.note (match o.ins with
      | .badOpcode => some ⟨4, 0x02, s.tval61 0⟩
      | .reserved w => some ⟨6, 0x03, s.tval61 w⟩
      | .ok _ => none)
    let s := s.note (Trap.orIf (o.slot == .n && nAbsent o.w0 s.frame.core s.here.emonef) ⟨4, 0x02, s.tval61 0⟩ none)
    s.note (Trap.orIf (o.slot == .l && hdrRx b.hdr && !lRelaxable o.w0) ⟨5, 0x01, s.tval61 0⟩ none)) s
/-- Step 9 across the slots: a later operation names a destination of an earlier one. -/
def State.noteDoubles (s : State) (seen : List Dest) : List Op → State
  | [] => s
  | (slot, w, i) :: t =>
    let ds := Instr.destsOf i s.frame.ctx
    let s' := s.atSlot slot w
    (s'.note (Trap.orIf (ds.any (· ∈ seen)) ⟨9, 0x01, s'.tval61 0⟩ none)).noteDoubles (seen ++ ds) t
/-- Step 9 for the sequencer's stride writes: the S slot is reported (R122). Model's choice (log 63): without an S operation the word in TVAL is 0, and a JAL or JALR whose link is the induction register traps too, although a performed branch adds no stride (R125). -/
def State.noteStrides (s : State) (ops : List Op) : State :=
  let n := s.frame.ctx
  let ds := (s.cur.strideRegs.map (xDest n))
  let s' := s.atSlot 0 (match firstOf (fun o => o.1 == 0) ops with | some o => o.2.1 | none => 0)
  s'.note (Trap.orIf (ops.any fun o => (Instr.destsOf o.2.2 n).any (· ∈ ds)) ⟨9, 0x01, s'.tval61 0⟩ none)
/-- Step 10: with CHECK.LV, a guard predicate that the context's own write still covers (R61, R63). -/
def State.noteGuard (s : State) (hdr : Half) : State :=
  let q := hdrQg hdr
  if s.cur.lv && q != 0 && s.here.earlyOwn s.now s.frame.ctx (.q s.frame.ctx q) then
    (s.atSlot 7 0).note (some ⟨10, 0x0B, earlyTval 7 q.toNat⟩)
  else s
/-- The frame of a bundle about to be checked (R43, R123). -/
def State.frameFor (s : State) (p n : Nat) (b : Bundle) : State :=
  let s1 : State := { s with frame := { Frame.reset with
    core := p, ctx := n, phase := .check, addr := (s.ctx p n).next, hdr := b.hdr, len := bundleLen b.hdr } }
  let g := s1.rq (hdrQg b.hdr) != hdrQn b.hdr && !suppressed (s1.cur.live)
  { s1 with frame := { s1.frame with guard := g } }
/-- All checks of a bundle that do not belong to one operation. -/
def State.noteBundle (s : State) (b : Bundle) : State :=
  (((s.noteStatic b).noteDoubles [] (opsOf b)).noteStrides (opsOf b)).noteGuard b.hdr

/-- How an issue turn begins: it is done, or a bundle's operations are to be checked and performed. -/
inductive Begun
  | done (s : State)
  | bundle (s : State) (ops : List Op)
  deriving DecidableEq, Repr

/-- Emonef code sees every earlier result (R418): the context's earlier writes have landed, its relaxed accesses have been retired and its matrix commands have completed. -/
def Core.settled (c : Core) (n : Nat) : Bool :=
  !(c.writes.any fun w => w.byCtx == n) && (c.ctx n).relaxed.isEmpty && !((c.mwait ++ c.mq ++ c.mflight).any fun k => k.ctx == n)
/-- A context's issue turn up to its operations (R12, R42, R61): no bundle while it is not in RUN or holds for WAIT; the fetch; a header that R41 refuses. -/
def State.beginIssue (s : State) (p n : Nat) : Begun :=
  let x := s.ctx p n
  if x.st ≠ .run || ((s.core p).emonef && !(s.core p).settled n) then .done s else
  match x.hold with
  | some (k + 1) => .done (s.onCtx p n fun x => { x with hold := some k })
  | h =>
    match (s.core p).nextHeader n with
    | .error (cause, tval) => .done (s.takeTrap p n x.next (causeOf cause) tval)
    | .ok hdr =>
    let w := (hdrWait hdr).toNat
    if h = none && w ≠ 0 then .done (s.onCtx p n fun x => { x with hold := some (w - 1) }) else
    match (s.core p).nextBundle n with
    | .error (cause, tval) => .done (s.takeTrap p n x.next (causeOf cause) tval)
    | .ok bs =>
      match decodeBundle bs with
      | .error _ => .done (s.takeTrap p n x.next (causeOf 0x01) (headerTval hdr))
      | .ok b =>
        let s1 := if x.live.isEmpty || x.captured.isSome then s
          else s.onCtx p n fun x => { x with capture := x.capture ++ [(x.captureKey, bs)] }
        .bundle ((s1.frameFor p n b).noteBundle b) (opsOf b)

/-! ## After the operations -/

/-- The bundle's frame is put away and later free values are fresh (log 3). -/
def State.endFrame (s : State) : State := { s with frame := Frame.reset }.bump
/-- A failed check: the bundle traps and has no effect (R61). -/
def State.trapBundle (s : State) (t : Trap) : State := (s.issueTrap t.cause t.tval).endFrame
/-- Operations that leave a seeking worker seeking (R317). -/
def seeks : Instr → Bool
  | .pureWaitBundle _ _ _ | .br _ | .popd _ | .steal _ _ => true
  | _ => false
/-- The frame turned to performing: a worker that performs any other operation stops seeking (R317). -/
def State.toPerform (s : State) (ops : List Op) : State :=
  let t := if ops.all fun o => seeks o.2.2 then s else s.onCur fun x => { x with seeking := false }
  { t with frame := { t.frame with phase := .perform } }
/-- The captured bundles that remain: those of closed levels go (R127). -/
def Ctx.trimCapture (x : Ctx) : Ctx :=
  if x.live.isEmpty then
    { x with capture := if x.frozen = 0 then [] else x.capture.filter fun p => p.1 < 2 ^ 64 }
  else x
/-- The sequencer after a bundle without a performed branch (R121): positions are counted, levels close or loop back, and a LOOP of the bundle opens its level. -/
def Ctx.sequenced (x : Ctx) (nextAddr : DWord) (opened : Option Level) : Ctx :=
  let counted := x.live.map fun l => { l with pos := l.pos + 1 }
  let (ls, back) := sequence counted.reverse
  let kept := x.levels.take x.frozen ++ ls.reverse
  match opened with
  | some l => { x with levels := kept ++ [l], next := nextAddr, hold := none }
  | none => { x with levels := kept, next := back.getD nextAddr, hold := none }.trimCapture
/-- A performed branch: every open level closes and the target is next (R46, R125). -/
def Ctx.branched (x : Ctx) (t : DWord) : Ctx :=
  { x with levels := x.levels.take x.frozen, next := t, hold := none }.trimCapture
/-- The commands of a list that are still queued or running (R283). -/
def Core.anyPending (c : Core) (ids : List Nat) : Bool :=
  (c.mwait ++ c.mq ++ c.mflight ++ c.ewait ++ c.eq ++ c.eflight).any fun k => k.id ∈ ids
/-- A stepped bundle retires (R283): with SD it waits for the commands it dispatched; then the step trap is due, known at a cycle. -/
def State.retireStep (s : State) (p n known : Nat) : State :=
  let x := s.ctx p n
  match x.stepped with
  | none => s
  | some (addr, cmds) =>
    if x.sd && (s.core p).anyPending cmds then
      if x.parks.any (fun k => k.kind == .stepDrain) then s else
      s.onCtx p n fun x => { x with st := .park, parks := x.parks ++
        [⟨.stepDrain, .pureWaitBundle 0 0 false, 0, 0, addr, 0, 0, 0, s.now, 0, 0, false, .waiting, 0, []⟩] }
    else s.onCtx p n fun x => { x.addLate ⟨.step, causeOf 0x19, addr, known⟩ with stepped := none }
/-- TRAP and BRK take effect after their bundle (R279): at once, or where the bundle has operations left for the end of the core turn (R132, R272), then; in a bundle that parks, at the exit. -/
def State.afterTrap (s : State) : State :=
  match s.frame.after with
  | none => s
  | some (cause, tval) =>
    let x := s.cur
    if x.st = .park || s.here.turnOps.any (·.ctx == s.frame.ctx) then
      s.onCur fun x => x.addLate ⟨.exit 0 x.next, causeOf cause, tval, s.now⟩
    else s.takeTrap s.frame.core s.frame.ctx x.next (causeOf cause) tval
/-- What follows a bundle that passed its checks (R46, R121, R279, R282, R283). -/
def State.endBundle (s : State) : State :=
  let s1 := match s.frame.target with
    | some t => s.onCur fun x => x.branched t
    | none =>
      let s0 := s.addStrides s.cur.ending
      s0.onCur fun x => x.sequenced s.nextAddr s.frame.opened
  let s2 := if s.frame.rett then s1.onHere Core.rett else s1
  let s3 := if s2.cur.ss then
      let t := s2.onCur fun x => { x with stepped := some (s.frame.addr, s.frame.cmds) }
      if !t.cur.waitsOver then t else t.retireStep s.frame.core s.frame.ctx s.now
    else s2
  let s4 := s3.onCur fun x => { x with foot := (x.foot.filter fun p => p.2 != 0).map fun p => (p.1, p.2 - 1) }
  s4.afterTrap.endFrame

end Sys2Proof.Machine
end

