-- ==== Sys2Proof/Machine/Tasks.lean ====
section
/-! DEFINITION. Meanings of the system operations of the S slot and of tasks, ready queue, code store and notices (spec/11_tasks_traps_and_system.md R261 to R289), and Emonef's SEND and RECV (spec/18_compatibility_and_code_loading.md R420). -/
namespace Sys2Proof.Machine

/-! ## TRAP, BRK, RETT (R279, R282) -/

/-- TRAP (R279). -/
def execTrap (imm : BitVec 20) (s : State) : Out :=
  operation (.trap imm) noCheck (fun s => { s with frame := { s.frame with after := some (0x17, imm.setWidth 64) } }) s
/-- BRK (R279). -/
def execBrk (imm : BitVec 20) (s : State) : Out :=
  operation (.brk imm) noCheck (fun s => { s with frame := { s.frame with after := some (0x18, imm.setWidth 64) } }) s
/-- RETT (R282): C0's next bundle is its EPC, and the handler flag is cleared. -/
def execRett (s : State) : Out := operation .rett noCheck (fun s => { s with frame := { s.frame with rett := true } }) s
/-- The worker context that an operand names (R261). -/
def ctxOf (v : DWord) : Nat := v.toNat % 16
/-- A change of a context that takes effect at the next core turn (R263). -/
def State.nextTurn (s : State) (c : Change) : State := s.onHere fun k => { k with changes := k.changes ++ [c] }
/-- RETT.w (R282): a worker in STOP runs again at its next-bundle address. -/
def execRettW (a : SReg) (s : State) : Out :=
  operation (.rettW a) (fun s =>
    let n := ctxOf (s.rx a)
    badValue (n == 0) (s.rx a) (badValue ((s.here.ctx n).st != .stop || (s.here.ctx n).mmode || s.here.swapping.any (·.ctx == n)) (BitVec.ofNat 64 n) none))
    (fun s => s.nextTurn (.rett (ctxOf (s.rx a)))) s

/-! ## START and STOP (R264, R265) -/

/-- The SEED of a context that START or SPAWN begins (R264, R277). -/
def spawnSeed (seed : DWord) (p n : Nat) : DWord := seed + BitVec.ofNat 64 (16 * p + n) * 0x9E3779B97F4A7C15
/-- START (R264). -/
def execStart (a b : SReg) (s : State) : Out :=
  operation (.start a b) (fun s =>
    let n := ctxOf (s.rx a)
    let x := s.here.ctx n
    let who := BitVec.ofNat 64 n
    badValue (n == 0) (s.rx a) <|
    match x.st with
    | .stop => badValue (x.mmode || b != 0 || s.here.swapping.any (·.ctx == n)) who none
    | .free | .halt | .out => checkTarget (s.rx b)
    | _ => badValue true who none)
    (fun s =>
      let n := ctxOf (s.rx a)
      let fresh := (s.here.ctx n).st != .stop
      s.nextTurn (.start n (s.rx b) (s.rx 3) (s.rx 4) (s.rx 5) (s.rx 6) (s.rx 7)
        (spawnSeed (s.mfsVal 0x0A) s.frame.core n) fresh (s.here.launchId 0))) s
/-- STOP (R265). -/
def execStop (a : SReg) (s : State) : Out :=
  operation (.stop a) (fun s =>
    let n := ctxOf (s.rx a)
    badValue (n == 0) (s.rx a) <|
    badValue ((s.here.ctx n).st != .run && (s.here.ctx n).st != .park) (BitVec.ofNat 64 n) none)
    (fun s => s.nextTurn (.stop (ctxOf (s.rx a)))) s

/-! ## Ends of work (R268 to R270) -/

/-- A context's commands of either unit, waiting, queued or started. -/
def Core.commandsOf (c : Core) (n : Nat) : List Cmd :=
  (c.mq ++ c.mflight ++ c.mwait ++ c.eq ++ c.eflight ++ c.ewait).filter (·.ctx == n)
/-- Nothing is left that HALT or QUIT waits for (R269, R270): the context's own commands and relaxed accesses, and for HALT of a tide-locked launch the core's queues and copies. -/
def State.drained (s : State) (p n : Nat) (quit : Bool) : Bool :=
  let c := s.core p
  let tidal := match c.launchOf n with | some l => l.mode | none => false
  (c.commandsOf n).isEmpty && (c.ctx n).relaxed.all (·.performed) &&
  (quit || !tidal || (c.eq.isEmpty && c.ewait.isEmpty && c.mq.isEmpty && c.mwait.isEmpty && !(s.copies.any (·.core == p))))
/-- A context after QUIT (R270): FREE, its registers, TAGS and levels discarded. -/
def Ctx.quit (x : Ctx) : Ctx := { Ctx.reset with base := x.base, launch := x.launch }
/-- A drained context becomes HALT or FREE. -/
def Ctx.ended (x : Ctx) (quit : Bool) : Ctx :=
  if quit then x.quit else { x with st := .halt, levels := [], capture := [], parks := [], relaxed := [], hold := none }
/-- A STOP of a context, or the SWAP that takes it, takes effect with the next core turn (R263, R266). -/
def Core.stopping (c : Core) (n : Nat) : Bool :=
  (c.changes.any fun g => match g with | .stop m => m == n | _ => false) || c.swapping.any fun j => j.ctx == n && j.was.isNone
/-- HALT or QUIT of a worker: it parks until all has drained. -/
def State.finish (s : State) (i : Instr) : State := { (s.parkAs .drain i 0 0 0 s.ids) with ids := s.ids + 1 }
/-- HALT (R269): C0 stops until a trap is delivered to it. -/
def execHalt (s : State) : Out :=
  operation .halt noCheck (fun s =>
    if s.frame.ctx = 0 then s.onCur fun x => { x with st := .stop, nextWritten := false } else s.finish .halt) s
/-- QUIT (R270). -/
def execQuit (s : State) : Out := operation .quit noCheck (fun s => s.finish .quit) s
/-- The trap of an ended wait is taken at the next issue turn and not at the PARK exit (R146, R230, R234, R236): the limits of waits at the own core, and an RPOP's. -/
def Park.nextTurn (k : Park) (cause : DWord) : Bool :=
  match cause.toNat % 256 with
  | 0x0C | 0x1F => k.kind == .retry || k.kind == .ercv
  | 0x0D => true
  | _ => false
/-- Waits that have ended with traps become first-kind traps of the context, in slot order (R329), and the waits that are over are gone. -/
def Ctx.exitWaits (x : Ctx) (now : Nat) : Ctx :=
  let done_ := sortBy (·.slot) (x.parks.filter fun k => k.ended != .waiting)
  let y : Ctx := { x with parks := x.parks.filter fun k => k.ended == .waiting }
  done_.foldl (fun x k => match k.ended with
    | .trapped cause tval =>
      x.addLate ⟨if k.nextTurn cause then .first k.slot k.addr else .exit k.slot k.addr, cause, tval, now⟩
    | _ => x) y
/-- HALT_DRAIN_COMPLETE (R269, R270): what a parked HALT or QUIT waits for is over; a late fault that fell due is taken at the PARK exit, and the operation is issued again after the return. A STOP or SWAP that takes effect with the next core turn comes first (R263, R266). -/
def execHaltDrainComplete (core ctx : Nat) (s : State) : Out :=
  event (fun s =>
    let x := s.ctx core ctx
    match firstOf (fun k => k.kind == .drain) x.parks with
    | none => s
    | some k =>
      let quit : Bool := match k.op with | .quit => true | _ => false
      let done_ := ({ x with parks := x.parks.filter fun j => j.id != k.id }).exitWaits s.now
      if x.st ≠ .park || !done_.parks.isEmpty || !s.drained core ctx quit || (s.core core).stopping ctx then s
      else if done_.late.isEmpty && done_.backlog.isEmpty && done_.lost = 0 then s.onCtx core ctx fun x => x.ended quit
      else (s.onCtx core ctx fun _ => { done_ with st := .run, next := k.addr, hold := some 0 }).exitTrap core ctx true) s
/-- HALT in C0 discards its levels once its bundle is done, and the bundle after it is next (R126, R269). -/
def State.haltC0 (s t : State) : State :=
  if s.frame.ctx = 0 && s.cur.st = .stop then
    t.onCtx s.frame.core 0 fun x => { x with levels := [], frozen := 0, capture := [], next := s.nextAddr }
  else t
/-- What follows a bundle that passed its checks, and a HALT or QUIT of it for which nothing is left to drain ends its context at once (R269, R270; log 55). -/
def State.closeBundle (s : State) : State :=
  let p := s.frame.core
  let n := s.frame.ctx
  let t := s.haltC0 s.endBundle
  let x := t.ctx p n
  match x.parks with
  | [k] =>
    let quit : Bool := match k.op with | .quit => true | _ => false
    if k.kind == .drain && x.st = .park && !(t.core p).stopping n && t.drained p n quit && x.late.isEmpty && x.backlog.isEmpty && x.lost = 0
    then t.onCtx p n fun x => x.ended quit else t
  | _ => t
/-- A Rockpool entry is free: not valid, and no swap fills it. -/
def Core.entryFree (c : Core) (e : Nat) : Bool := (find c.pool e).isNone && !(c.swapping.any (·.entry == e))
/-- A swap of a context begins (R266). -/
def Core.beginSwap (c : Core) (n e : Nat) (wait : Option Nat) (due : Nat) : Core :=
  { c with swapping := c.swapping ++ [⟨n, e, wait, none, due, []⟩] }
/-- A cycle by which a SWAP or RESUME that begins now may complete: within its bound of 96 cycles (R266, R267, R333; log 4). -/
def State.swapDue (s : State) : Nat := s.now + 17 + s.anyBelow 8400 32
/-- PHASE (R268). Model's choice (log 46): a deferred swap whose entry another swap has taken meanwhile is not performed. -/
def execPhase (s : State) : Out :=
  operation .phase noCheck (fun s =>
    let x := s.cur
    let t := s.onCur fun x => { x with phaseCount := x.phaseCount + 1 }
    if !x.pend then t else
    let u := t.onCur fun x => { x with
      pend := false, st := if x.marked then .stop else x.st, nextWritten := if x.marked then false else x.nextWritten,
      marked := false, deferred := none }
    match x.deferred with
    | some e => if s.here.entryFree e then u.onHere fun c => c.beginSwap s.frame.ctx e none s.swapDue else u
    | none => u) s

/-! ## SWAP and RESUME at issue (R266, R267) -/

/-- The target has tidal or link commands queued or started (R266). -/
def Core.tidalWork (c : Core) (n : Nat) : Bool :=
  (c.commandsOf n).any fun k => match k.op with
    | .tsnd _ _ _ | .trcv _ _ _ _ | .lsnd _ _ _ | .lrcv _ _ _ | .lred _ _ _ => true
    | _ => false
/-- SWAP (R266). -/
def execSwap (d a b : SReg) (ph : Bool) (s : State) : Out :=
  operation (.swap d a b ph) (fun s =>
    let n := ctxOf (s.rx a)
    let x := s.here.ctx n
    let e := (s.rx b).toNat % 4
    badValue (n == 0) (s.rx a) <|
    badValue ((x.st != .run && x.st != .park && x.st != .stop) || s.here.swapping.any (·.ctx == n)) (BitVec.ofNat 64 n) <|
    badValue (!s.here.entryFree e) (BitVec.ofNat 64 e) none)
    (fun s =>
      let n := ctxOf (s.rx a)
      let e := (s.rx b).toNat % 4
      if ph || s.here.tidalWork n then
        let first := (s.here.ctx n).deferred.isNone
        let t := (s.wx d 2 1).onCtx s.frame.core n fun x => { x with pend := true, deferred := some e }
        if first then { t with frame := { t.frame with deferrals := n :: t.frame.deferrals } } else t
      else
        let t := ((s.oweX d s.ids).onHere fun c => c.beginSwap n e (some s.ids) s.swapDue).parkAs .swap (.swap d a b ph) 0 0 0 s.ids
        { t with ids := s.ids + 1 }) s
/-- The context number and the recorded state of an entry (R36). -/
def Core.entryWord (c : Core) (e : Nat) : Nat × Nat :=
  let w := c.word (poolAddr e 8)
  (w.toNat % 16, (w.extractLsb' 8 3).toNat)
/-- RESUME (R267). -/
def execResume (a : SReg) (s : State) : Out :=
  operation (.resume a) (fun s =>
    let e := (s.rx a).toNat % 4
    let (n, st) := s.here.entryWord e
    let x := s.here.ctx n
    let bad := (find s.here.pool e).isNone || n == 0 || (x.st != .free && x.st != .out) || st == 0 || 3 < st
    badValue bad (BitVec.ofNat 64 e) none)
    (fun s =>
      let e := (s.rx a).toNat % 4
      let t := (s.onHere fun c => { c with resuming := c.resuming ++ [(e, s.ids, s.swapDue)] }).parkAs .swap (.resume a) 0 0 0 s.ids
      { t with ids := s.ids + 1 }) s

/-! ## Tasks (R271 to R277) -/

/-- ORIGIN (R271). -/
def originOf (core : Half) (ctx : Nat) : DWord := (0 : BitVec 44) ++ BitVec.ofNat 4 ctx ++ core
/-- The record that FORK builds (R273). -/
def forkRecord (c : Core) (o : TurnOp) : TaskRec := ⟨o.a, o.x4, o.x5, o.x6, o.x7, originOf (c.logicalOf o.ctx) o.ctx⟩
/-- FORK (R273): the push is made in the last cycle of the core turn (R272). -/
def execFork (a : SReg) (s : State) : Out :=
  operation (.fork a) (fun s => checkTarget (s.rx a)) (fun s => s.turnOp (.fork a) (s.rx a) 0 0) s
/-- The checks of a join block's words (R130, R276). -/
def State.joinCheck (s : State) (a : DWord) : Option Trap :=
  (upTo 6).foldr (fun k rest => s.checkAddr (effNat a (8 * k)) 8 false rest) none
/-- A remote request of an N operation: the context parks until the response (R134). -/
def State.request (s : State) (i : Instr) (dst laddr : Nat) (body : Body) (a b c : DWord) : State :=
  let p := s.frame.core
  let n := s.frame.ctx
  let (id, t) := s.send p n dst laddr body 0 (s.here.launchId n)
  (t.oweAll i id).parkAs .eddy i a b c id
/-- JOIN (R276). -/
def execJoin (a : SReg) (s : State) : Out :=
  operation (.join a) (fun s => s.joinCheck (s.rx a)) (fun s =>
    if isRemote (s.rx a) then
      s.request (.join a) ((s.here.target s.frame.ctx (s.rx a)).getD s.frame.core) (laddrOf (s.rx a)) .join (s.rx a) 0 0
    else s.turnOp (.join a) (s.rx a) 0 0) s
/-- POPD (R274): its outcome is fixed in the last cycle of its core turn. -/
def execPopd (q : PReg) (s : State) : Out :=
  operation (.popd q) noCheck (fun s => s.turnOp (.popd q) 0 0 0) s
/-- Mesh positions at distance d in steal order (R275). -/
def stealRing (r k : Int) (d : Nat) : List (Int × Int) :=
  let side (f : Int → Int × Int) : List (Int × Int) := (upTo d).map fun i => f (Int.ofNat i)
  side (fun i => (r - d + i, k + i)) ++ side (fun i => (r + i, k + d - i)) ++
  side (fun i => (r + d - i, k - i)) ++ side (fun i => (r - i, k - d + i))
/-- The candidates of a STEAL by context n of core p, at most `max` (R275). -/
def Core.stealOrder (c : Core) (p n max : Nat) : List Nat :=
  if !isOrdinary p then [] else
  let reach := match c.launchOf n with | some l => l.map | none => []
  let all := ((upFrom 1 62).map fun d => stealRing (rowOf p) (colOf p) d).flatten
  ((all.filterMap fun rk =>
    if 0 ≤ rk.1 && rk.1 < 32 && 0 ≤ rk.2 && rk.2 < 32 then
      let q := physOf (dieOf p) rk.1.toNat rk.2.toNat
      if q ∈ reach then some q else none
    else none)).take max
/-- STEAL (R275): the wait's third operand counts the candidates asked. -/
def execSteal (a : SReg) (q : PReg) (s : State) : Out :=
  operation (.steal a q) (fun s => badValue (s.rx a == 0 || decide (64 < (s.rx a).toNat)) (s.rx a) none) (fun s =>
    match s.here.stealOrder s.frame.core s.frame.ctx (s.rx a).toNat with
    | [] => s.wq q false 1
    | v :: _ => s.request (.steal a q) v 0 .steal (s.rx a) 0 1) s
/-- SPAWN (R277). -/
def execSpawn (a b c : SReg) (s : State) : Out :=
  operation (.spawn a b c) (fun s =>
    Trap.orIf (s.frame.ctx != 0 && (s.rx a).getLsbD 16) ⟨13, 0x04, s.rx a⟩ <|
    Trap.orIf (s.here.fieldTarget s.frame.ctx (s.rx a)).isNone ⟨13, 0x08, BitVec.ofNat 64 ((s.rx a).toNat % 65536)⟩ <|
    checkTarget (s.rx b))
    (fun s =>
      s.request (.spawn a b c) ((s.here.fieldTarget s.frame.ctx (s.rx a)).getD s.frame.core) 0
        (.spawn (s.rx b) (s.mfsVal 0x0A) (s.rx 3) (s.rx 4) (s.rx 5) (s.rx 6) (s.rx 7)) (s.rx a) (s.rx b) 0) s

/-! ## Ready queue and spill chain (R278) -/

/-- A queue of the ready queue. -/
def Core.readyAt (c : Core) (p : Nat) : List DWord := nthD [] c.ready p
/-- RDYQ.push (R278). -/
def execRdyqPush (a c : SReg) (p : BitVec 2) (s : State) : Out :=
  operation (.rdyqPush a c p) noCheck (fun s =>
    let l := s.here.readyAt p.toNat
    if l.length < 16 then (s.onHere fun k => { k with ready := setNth k.ready p.toNat (l ++ [s.rx a]) }).wx c 1 1 else s.wx c 0 1) s
/-- RDYQ.pushh (R278). -/
def execRdyqPushh (a c : SReg) (p : BitVec 2) (s : State) : Out :=
  operation (.rdyqPushh a c p) noCheck (fun s =>
    let l := s.here.readyAt p.toNat
    if l.length < 16 then (s.onHere fun k => { k with ready := setNth k.ready p.toNat (s.rx a :: l) }).wx c 1 1 else s.wx c 0 1) s
/-- RDYQ.pop (R278). -/
def execRdyqPop (b c : SReg) (s : State) : Out :=
  operation (.rdyqPop b c) noCheck (fun s =>
    match firstOf (fun p => !(s.here.readyAt p).isEmpty) [3, 2, 1, 0] with
    | none => (s.wx b 0 1).wx c 0 1
    | some p =>
      match s.here.readyAt p with
      | [] => (s.wx b 0 1).wx c 0 1
      | v :: t =>
        ((s.onHere fun k => { k with ready := setNth k.ready p t }).wx b v 1).wx c (BitVec.ofNat 64 (0x100 + p)) 1) s
/-- RDYQ.count (R278). -/
def execRdyqCount (b : SReg) (s : State) : Out :=
  operation (.rdyqCount b) noCheck (fun s =>
    s.wx b (BitVec.ofNat 64 (natOf ((upTo 4).map fun p => BitVec.ofNat 8 (s.here.readyAt p).length))) 1) s
/-- Bytes of a spill segment. -/
def segmentBytes : Nat := 1568
/-- The six words of a record. -/
def TaskRec.words (r : TaskRec) : List DWord := [r.entry, r.x4, r.x5, r.x6, r.x7, r.origin]
/-- A record stored at a local address. -/
def Core.putRecord (c : Core) (a : Nat) (r : TaskRec) : Core :=
  (upTo 6).foldl (fun c k => c.storeBytes (a + 8 * k) 8 (nthD 0 r.words k).toNat) c
/-- A record read at a local address. -/
def Core.getRecord (c : Core) (a : Nat) : TaskRec :=
  ⟨c.word a, c.word (a + 8), c.word (a + 16), c.word (a + 24), c.word (a + 32), c.word (a + 40)⟩
/-- The spill chain holds no segment: its head is 0, and no segment stands at that address (R278; log 22). -/
def Core.chainEmpty (c : Core) : Bool := c.chain == 0 && !c.zeroSpilled
/-- RDYQ.spill (R278). -/
def execRdyqSpill (a c : SReg) (s : State) : Out :=
  operation (.rdyqSpill a c) (fun s =>
    let v := s.rx a
    Trap.orIf (isRemote v || (Core.regionFault 0 (some (s.here.banksOf 0)) v segmentBytes).isSome) ⟨13, 0x06, v⟩ <|
    Trap.orIf (v.toNat % 32 != 0) ⟨13, 0x07, v⟩ none)
    (fun s =>
      let k := s.here
      if k.deque.length < 64 then s.wx c 0 1 else
      let at_ := laddrOf (s.rx a)
      let t := s.onHere fun k =>
        let k1 := (k.storeBytes at_ 8 k.chain.toNat).storeBytes (at_ + 8) 8 32
        let k2 := (upTo 32).foldl (fun k' n => k'.putRecord (at_ + 32 + 48 * n) (nthD ⟨0, 0, 0, 0, 0, 0⟩ k.deque n)) k1
        { k2.noteWriter (wordsOf [(at_, 16), (at_ + 32, segmentBytes - 32)]) s.frame.core 0 with
          deque := k.deque.drop 32, chain := s.rx a, zeroSpilled := k.zeroSpilled || at_ == 0 }
      t.wx c 32 1) s
/-- RDYQ.refill takes a segment: no record is resident and the chain is not empty (R278; log 22). -/
def Core.refills (c : Core) : Bool := c.deque.isEmpty && !c.chainEmpty
/-- RDYQ.refill (R278), from the segment as it stands at issue (R44). -/
def execRdyqRefill (b : SReg) (s : State) : Out :=
  operation (.rdyqRefill b) (fun s =>
    let k := s.here
    let n := k.asIssued.word (laddrOf k.chain + 8)
    Trap.orIf (k.refills && (n == 0 || decide (32 < n.toNat))) ⟨13, 0x03, k.chain⟩ none)
    (fun s =>
      let k := s.here
      if !k.refills then s.wx b 0 1 else
      let at_ := laddrOf k.chain
      let old := k.asIssued
      let n := (old.word (at_ + 8)).toNat
      (s.onHere fun k =>
        { k with deque := (upTo n).map fun i => old.getRecord (at_ + 32 + 48 * i), chain := old.word at_,
                 zeroSpilled := k.zeroSpilled && at_ != 0 }).wx b k.chain 1) s
/-- RDYQ.flush (R278). -/
def execRdyqFlush (c : SReg) (p : BitVec 2) (s : State) : Out :=
  operation (.rdyqFlush c p) noCheck (fun s =>
    let n := (s.here.readyAt p.toNat).length
    (s.onHere fun k => { k with ready := setNth k.ready p.toNat [] }).wx c (BitVec.ofNat 64 n) 1) s
/-- RDYQ.rpst (R278), as it stands before the bundle (R44). -/
def execRdyqRpst (b : SReg) (s : State) : Out :=
  operation (.rdyqRpst b) noCheck (fun s =>
    let k := s.here
    let valid := (upTo 4).foldl (fun v e => if (find k.pool e).isSome then v + 2 ^ e else v) 0
    let swaps := (upTo 16).foldl (fun v n => if (k.ctx n).deferred.isSome && !(n ∈ s.frame.deferrals) then v + 2 ^ n else v) 0
    s.wx b (BitVec.ofNat 64 (valid + 16 * swaps)) 1) s

/-! ## Code store, notices, entries (R285 to R289) -/

/-- A code address that CODEL and CODEI refuse (R286). -/
def badLine (a : DWord) : Bool := a.toNat % 64 != 0 || a.extractLsb' 48 16 != 0
/-- CODEL (R286). -/
def execCodel (a b : SReg) (e : Eng) (s : State) : Out :=
  operation (.codel a b e) (fun s =>
    badValue (s.rx b == 0 || decide (2048 < (s.rx b).toNat)) (s.rx b) <|
    Trap.orIf (badLine (s.rx a)) ⟨13, 0x07, s.rx a⟩ (s.passedCheck e.start none))
    (fun s => s.nIssue (.codel a b e) (s.rx a) (s.rx b) 0 [] false) s
/-- The code store after CODEI (R287). -/
def codeInvalid (code : Sparse Line) (a n : Nat) : Sparse Line :=
  if n = 0 then [] else
  code.filter fun kl => !((upTo n).any fun i =>
    let v := (a + 64 * i) % 2 ^ 48
    kl.1 == v / 64 % 2048 && kl.2.tag == v / 131072)
/-- CODEI (R287). -/
def execCodei (a b : SReg) (s : State) : Out :=
  operation (.codei a b) (fun s =>
    badValue (decide (2048 < (s.rx b).toNat)) (s.rx b) (Trap.orIf (badLine (s.rx a)) ⟨13, 0x07, s.rx a⟩ none))
    (fun s => s.onHere fun c => { c with code := codeInvalid c.code (s.rx a).toNat (s.rx b).toNat }) s
/-- HNFY (R289). -/
def execHnfy (a b : SReg) (e : Eng) (s : State) : Out :=
  operation (.hnfy a b e) (fun s => s.passedCheck e.start none)
    (fun s => s.nIssue (.hnfy a b e) (s.rx a) (s.rx b) 0 [] false) s
/-- The core that MOVC names may take an entry: its own, or the armed target (R285). -/
def Core.movcTarget (c : Core) (p : Nat) (a : DWord) : Bool :=
  a.toNat == p || c.armed == some a.toNat
/-- MOVC (R285). -/
def execMovc (a b c : SReg) (e : Eng) (s : State) : Out :=
  operation (.movc a b c e) (fun s =>
    Trap.orIf (!s.here.movcTarget s.frame.core (s.rx a)) ⟨13, 0x08, s.rx a⟩ <|
    badValue ((find s.here.pool ((s.rx b).toNat % 4)).isNone) (s.rx b) (s.passedCheck e.start none))
    (fun s => s.nIssue (.movc a b c e) (s.rx a) (s.rx b) (s.rx c) [] false) s

/-! ## Emonef (R420) -/

/-- The name of a channel of the launch of a context: channels are a program's own (R421). -/
def State.emKey (s : State) (p n ch : Nat) : Nat := 256 * ((s.core p).launchId n).getD 0 + ch
/-- A channel's FROM, TO and DEPTH (R421). -/
def State.emDecl (s : State) (ch : Nat) : Option (Nat × Nat × Nat) := find s.emDecls ch
/-- The mailbox of a channel at its receiving core: 64 and the rank of its number among the channels of its program that end there (R422). -/
def State.emMailbox (s : State) (ch : Nat) : Nat :=
  64 + (s.emDecls.filter fun e => e.1 / 256 == ch / 256 && decide (e.1 < ch) &&
    some e.2.2.1 == (s.emDecl ch).map (·.2.1)).length
/-- The oldest message of an Emonef channel that stands in its mailbox at core p (R422). -/
def State.emNext (s : State) (p ch : Nat) : Option Msg := firstOf (fun m : Msg => m.mb == s.emMailbox ch) (s.core p).msgs
/-- The messages of a channel that were sent and not yet received (R420). -/
def State.emOut (s : State) (ch : Nat) : Nat := look 0 s.emSent ch
/-- SEND may append now. -/
def State.emRoom (s : State) (ch : Nat) : Bool :=
  match s.emDecl ch with
  | some (_, _, depth) => decide (s.emOut ch < depth)
  | none => false
/-- SEND's effect, with core c's store: the channel's message sets out for its mailbox at the receiving virtual core, as an ESND sends it (R229, R422). -/
def State.emSend (s : State) (c : Core) (p n ch : Nat) (a : DWord) : State :=
  let dst := (c.physOfLogical n (((s.emDecl ch).map (·.2.1)).getD 0)).getD p
  (({ s with ids := s.ids + 1, emSent := put s.emSent ch (s.emOut ch + 1) }).send p n dst 0
    (.message (s.emMailbox ch) false (memBytes c.ls (laddrOf a) 64)) s.ids (c.launchId n)).2
/-- RECV's effect: the oldest message of the channel's mailbox is written and its slot freed (R230, R422). -/
def State.emRecv (s : State) (p n ch : Nat) (a : DWord) : State :=
  match s.emNext p ch with
  | none => s
  | some m =>
    { (s.onCore p fun c => { (c.storeBytes (laddrOf a) 64 (natOf m.data)).noteWriter (wordsOf [(laddrOf a, 64)]) p n with msgs := c.msgs.erase m })
      with emSent := if s.emOut ch ≤ 1 then del s.emSent ch else put s.emSent ch (s.emOut ch - 1) }
/-- The checks of SEND and RECV: the address, and the channel's declared end, whose lack the translator refuses (R420; log 23). -/
def State.emCheck (s : State) (a : DWord) (ch : Nat) (send : Bool) : Option Trap :=
  let me := (s.here.logicalOf s.frame.ctx).toNat
  let ok := match s.emDecl (s.emKey s.frame.core s.frame.ctx ch) with
    | some (from_, dest, _) => (if send then from_ else dest) == me
    | none => false
  badValue (!ok) (BitVec.ofNat 64 ch) (s.localRegion a 64 64 none)
/-- SEND (R420). -/
def execSend (a : SReg) (ch : BitVec 8) (s : State) : Out :=
  operation (.send a ch) (fun s => s.emCheck (s.rx a) ch.toNat true) (fun s =>
    let key := s.emKey s.frame.core s.frame.ctx ch.toNat
    if s.emRoom key then s.emSend s.here.asIssued s.frame.core s.frame.ctx key (s.rx a)
    else { (s.parkAs .emonef (.send a ch) (s.rx a) 0 0 s.ids) with ids := s.ids + 1 }) s
/-- RECV (R420). -/
def execRecv (a : SReg) (ch : BitVec 8) (s : State) : Out :=
  operation (.recv a ch) (fun s => s.emCheck (s.rx a) ch.toNat false) (fun s =>
    let key := s.emKey s.frame.core s.frame.ctx ch.toNat
    if (s.emNext s.frame.core key).isNone then { (s.parkAs .emonef (.recv a ch) (s.rx a) 0 0 s.ids) with ids := s.ids + 1 }
    else s.emRecv s.frame.core s.frame.ctx key (s.rx a)) s

/-! ## Operations of the last cycle of a core turn (R132, R233, R272 to R276) -/

/-- A first-kind trap of an operation that the context's last bundle performed at the end of its core turn (R329). -/
def State.lateFirst (s : State) (p : Nat) (o : TurnOp) (cause : Nat) (tval : DWord) : State :=
  (s.onCtx p o.ctx fun x => x.addLate ⟨.first o.slot o.addr, causeOf cause, tval, s.now⟩).onCore p fun c => c.forgo o.id
/-- x4 to x7 and q settled with a record, or q alone with 0 (R274). -/
def Core.settleTask (c : Core) (id : Nat) (r : Option TaskRec) (due : Nat) : Core :=
  let val (d : Dest) : Option Val :=
    match d, r with
    | .q _ _, some _ => some (.bit true)
    | .q _ _, none => some (.bit false)
    | .x _ n, some t => some (.word (if n = 4 then t.x4 else if n = 5 then t.x5 else if n = 6 then t.x6 else t.x7))
    | _, _ => none
  { c with writes := c.writes.filterMap fun w =>
      if w.id = id && w.due.isNone then (val w.dst).map fun v => { w with val := v, due := some due } else some w }
/-- A TRAP or BRK of the bundle that got a record takes ENTRY as its EPC (R274, R279). -/
def Late.retarget (entry : DWord) (l : Late) : Late :=
  match l.kind with
  | .exit slot _ =>
    if l.cause.toNat % 256 = 0x17 ∨ l.cause.toNat % 256 = 0x18 then { l with kind := .exit slot entry } else l
  | _ => l
/-- A context that got a record (R274): every level closes and ENTRY is next; a bad ENTRY traps 0x07 at the next issue turn. -/
def Ctx.takeRecord (x : Ctx) (r : TaskRec) (slot : Nat) (addr : DWord) (now : Nat) : Ctx :=
  let z := { x with levels := x.levels.take x.frozen, next := if badTarget r.entry then x.next else r.entry, hold := none, seeking := false }.trimCapture
  let y := if badTarget r.entry then z else { z with late := z.late.map (Late.retarget r.entry) }
  if badTarget r.entry then y.addLate ⟨.first slot addr, causeOf 0x07, r.entry, now⟩ else y
/-- POPD's outcome (R274). -/
def State.performPopd (s : State) (p : Nat) (o : TurnOp) : State :=
  let c := s.core p
  match c.deque.getLast? with
  | some r =>
    let t := s.onCore p fun c => { (c.settleTask o.id (some r) (o.issue + 15)) with deque := c.deque.dropLast }
    t.onCtx p o.ctx fun x => x.takeRecord r o.slot o.addr s.now
  | none =>
    if !c.chainEmpty then s.lateFirst p o 0x0F (BitVec.ofNat 64 (2 ^ 63))
    else (s.onCore p fun c => c.settleTask o.id none (o.issue + 15)).onCtx p o.ctx fun x => { x with seeking := true }
/-- FORK's outcome (R273). -/
def State.performFork (s : State) (p : Nat) (o : TurnOp) : State :=
  let c := s.core p
  if 64 ≤ c.deque.length then s.lateFirst p o 0x0F 0
  else s.onCore p fun c => { c with deque := c.deque ++ [forkRecord c o] }
/-- JOIN at the block's owner (R276): the owner after it, or its refusal. -/
def Core.join (c : Core) (a : Nat) : Except Nat Core :=
  let w := c.word a
  let n : BitVec 32 := w.setWidth 32
  if n = 0 then .error 0x03 else
  if n = 1 then
    if 64 ≤ c.deque.length then .error 0x0F
    else
      let r : TaskRec := ⟨c.word (a + 8), c.word (a + 16), c.word (a + 24), c.word (a + 32), c.word (a + 40), originOf (c.logicalOf 0) 0⟩
      let c' := c.storeBytes a 8 ((w.extractLsb' 32 32) ++ (0 : BitVec 32)).toNat
      .ok { c' with deque := c'.deque ++ [r] }
  else .ok (c.storeBytes a 8 ((w.extractLsb' 32 32) ++ (n - 1)).toNat)
/-- The words of a join block, and the one that a JOIN writes (R276). -/
def joinWords (a : Nat) : List Nat × List Nat := ((upTo 6).map fun k => a + 8 * k, [a])
/-- A local JOIN (R132, R276). -/
def State.performJoin (s : State) (p : Nat) (o : TurnOp) : State :=
  let a := laddrOf o.a
  let t := s.onCore p fun c => { c with used := c.used ++ (joinWords a).1.map bankOf }
  match (s.core p).lostBank o.ctx ((joinWords a).1.map fun w => (w, 8)) with
  | some w => t.lateFirst p o 0x06 (BitVec.ofNat 64 w)
  | none =>
  match (t.core p).join a with
  | .ok c => t.setCore p (c.noteWriter (joinWords a).2 p o.ctx)
  | .error e => t.lateFirst p o e o.a
/-- A local ring push (R233, R234). -/
def State.performPush (s : State) (p : Nat) (o : TurnOp) (r : Nat) : State :=
  let h := ((s.core p).ring r).getD 0
  let ws := (s.core p).pushWords h
  match (s.core p).lostBank o.ctx (ws.1.map fun w => (w, 8)) with
  | some w => s.lateFirst p o 0x06 (BitVec.ofNat 64 w)
  | none =>
  match (s.core p).ringPush h o.a with
  | some c => s.setCore p ((c.usePort p o.ctx ws).pushed r)
  | none => (s.onCore p fun c => c.usePort p o.ctx (ws.1, [])).lateFirst p o 0x0E ((s.core p).ringTval r h)
/-- An RPOP that finds its ring empty waits: its context parks, unless a trap or C0 has stopped it, and its later turns try again (R233, R234). -/
def State.parkPop (s : State) (p : Nat) (o : TurnOp) : State :=
  s.onCtx p o.ctx fun x => { x with st := if x.st = .run then .park else x.st, parks := x.parks ++
      [⟨.retry, o.op, o.words, o.slot, o.addr, o.a, o.b, o.c, o.issue, 0, o.id, false, .waiting, 0, []⟩] }
/-- A local ring pop (R233, R234). -/
def State.performPop (s : State) (p : Nat) (o : TurnOp) (r : Nat) : State :=
  let h := ((s.core p).ring r).getD 0
  let ws := (s.core p).popWords h
  match (s.core p).lostBank o.ctx (ws.1.map fun w => (w, 8)) with
  | some w => s.lateFirst p o 0x06 (BitVec.ofNat 64 w)
  | none =>
  match (s.core p).ringPop h with
  | some (c, v) => s.setCore p ((c.usePort p o.ctx ws).settle o.id (.word v) (o.issue + 15))
  | none => (s.onCore p fun c => c.usePort p o.ctx ws).parkPop p o
/-- An operation of the last cycle of a core turn: one that meets a bank its launch has released since it issued, or an uncorrectable error, traps (R239, R328). -/
def State.performTurnOp (s : State) (p : Nat) (o : TurnOp) : State :=
  match o.op with
  | .fork _ => s.performFork p o
  | .join _ => s.performJoin p o
  | .popd _ => s.performPopd p o
  | .rpsh _ _ r => s.performPush p o r.toNat
  | .rpop _ _ _ r => s.performPop p o r.toNat
  | i =>
    match (s.core p).stopsAt o.ctx i (laddrOf o.a) o.b 0 with
    | some (e, v) => s.lateFirst p o e v
    | none =>
    match (s.core p).ownAccess p o.ctx i ⟨o.a, o.b, o.c.setWidth 256, 0⟩ with
    | some (c, v) => s.setCore p (c.settle o.id v (o.issue + 15))
    | none => s
/-- The RPOPs of a core that wait for a local ring try again, in ascending context number, with the turn's own operations (R233, R234). -/
def State.retryPops (s : State) (p n : Nat) : State :=
  let x := s.ctx p n
  if x.st ≠ .park then s else
  x.parks.foldl (fun s k =>
    match k.op with
    | .rpop _ _ _ r =>
      if k.kind == .retry && k.ended == .waiting && turnOf k.issue != turnOf s.now then
        let h := ((s.core p).ring r.toNat).getD 0
        let ws := (s.core p).popWords h
        match (s.core p).lostBank n (ws.1.map fun w => (w, 8)) with
        | some w => s.trapWait p n k.id (causeOf 0x06) (BitVec.ofNat 64 w)
        | none =>
        match (s.core p).ringPop h with
        | some (c, v) => (s.setCore p (c.usePort p n ws)).endWait p n k.id (some (.word v))
        | none => s.onCore p fun c => c.usePort p n ws
      else s
    | _ => s) s
/-- TRAP or BRK of a bundle whose operations have now all been performed (R279). -/
def State.turnTrap (s : State) (p n : Nat) : State :=
  let x := s.ctx p n
  if x.st = .run && x.late.any (fun l => match l.kind with | .exit _ _ => true | _ => false) then s.exitTrap p n false else s
/-- The last cycle of a core turn at a core: its operations and retried RPOPs, by ascending context and slot (R132, R233, R272). -/
def State.endTurn (s : State) (p : Nat) : State :=
  (upTo 16).foldl (fun s n =>
    let mine := sortBy (·.slot) ((s.core p).turnOps.filter (·.ctx == n))
    let t := s.onCore p fun c => { c with turnOps := c.turnOps.filter (·.ctx != n) }
    ((mine.foldl (fun s o => s.performTurnOp p o) t).retryPops p n).turnTrap p n) s

end Sys2Proof.Machine
end

