-- ==== Sys2Proof/Machine/Network.lean ====
section
/-! DEFINITION. The engine port, and requests, responses and messages at their ends (spec/09_engines_tags_and_channels.md R216, R229 to R236; spec/05_local_memory_and_atomics.md R132 to R136, R147; spec/11_tasks_traps_and_system.md R272 to R277; spec/14_faults_preemption_and_replay.md R332). -/
namespace Sys2Proof.Machine

/-! ## The engine port (R216) -/

/-- A TSND or TRCV. -/
def isTidal : Instr → Bool
  | .tsnd _ _ _ | .trcv _ _ _ _ => true
  | _ => false
/-- A command may not start now: its dependency is not met, an edge is unresolved, a bank of a local region is not owned, its lane is busy, or its displacement is no whole number of tide periods (R216, R248, R315). -/
def State.engineBlocked (s : State) (p : Nat) (k : Cmd) : Bool :=
  let c := s.core p
  let x := c.ctx k.ctx
  (match depOf k.op with | some t => !x.tags.getLsbD t | none => false) ||
  c.hazardBlocked k ||
  (k.regions.any fun r => (firstUnowned (c.banksOf k.ctx) r).isSome ||
    -- What an MRD writes through port B in this cycle is there from the next one on (R211, R225).
    c.mwrites.any fun w => decide (w.1 < r.lo + r.len) && decide (r.lo < w.1 + 8)) ||
  (isSd k.op && !(s.cove (shoreKey p)).lanesFree s.now k.op) ||
  (isTidal k.op && 16 * x.disp % c.period != 0)
/-- Tide-locked commands in the queue whose start cycle is this one, by context and order. -/
def Core.engineDue (c : Core) (now : Nat) : List Cmd :=
  sortBy (fun k => k.ctx * 2 ^ 64 + k.order) (c.eq.filter fun k => k.timed && (c.ctx k.ctx).ran && c.startOf k == now)
/-- A command has started through the port in this cycle. -/
def Core.portTaken (c : Core) (now : Nat) : Bool := c.eflight.any fun k => k.started == some now
/-- The tide-locked command that starts in this cycle: the port takes one, of the lowest context (R216). -/
def State.engineTimed (s : State) (p : Nat) : Option Cmd :=
  if (s.core p).portTaken s.now then none else firstOf (fun k => !s.engineBlocked p k) ((s.core p).engineDue s.now)
/-- The command without a start cycle that starts in this cycle: each context's oldest may, and the oldest of those that can does (R216; model's choice, log 74). -/
def State.engineFree (s : State) (p : Nat) : Option Cmd :=
  if (s.core p).portTaken s.now || (s.engineTimed p).isSome then none else
  let free := sortBy (·.order) ((s.core p).eq.filter fun k => !k.timed)
  let heads := free.filter fun k => !(free.any fun j => j.ctx == k.ctx && decide (j.order < k.order))
  firstOf (fun k => decide (k.issue < s.now) && !s.engineBlocked p k) heads
/-- A command moves from the queue to those started. -/
def Core.takeOff (c : Core) (k : Cmd) (now : Nat) : Core :=
  { c with eq := c.eq.filter (·.id != k.id), eflight := c.eflight ++ [{ k with started := some now, until_ := openEnd }] }
/-- ESND starts (R131, R229): the bytes are read in one port-A access, and the message is sent. -/
def State.esndStart (s : State) (p : Nat) (k : Cmd) (mb : Nat) (wake : Bool) : State :=
  let c := s.core p
  let bytes := memBytes c.ls (laddrOf k.b) k.c.toNat
  let t := s.onCore p fun c => (c.takePort (wordsOf [(laddrOf k.b, k.c.toNat)])).takeOff k s.now
  (t.send p k.ctx ((c.fieldTarget k.ctx k.a).getD p) 0 (.message mb wake bytes) k.id k.launch).2
/-- SIGS starts (R235): a local one waits for port A, a remote one sets out. -/
def State.sigsStart (s : State) (p : Nat) (k : Cmd) (op : SigOp) : State :=
  let t := s.onCore p fun c => c.takeOff k s.now
  if isRemote k.a then
    (t.send p k.ctx (((s.core p).target k.ctx k.a).getD p) (laddrOf k.a) (.signal op k.b) k.id k.launch).2
  else t
/-- HNFY starts (R289): its notice sets out for the hub. -/
def State.hnfyStart (s : State) (p : Nat) (k : Cmd) : State :=
  ((s.onCore p fun c => c.takeOff k s.now).send p k.ctx hubId 0 (.notice k.a k.b) k.id k.launch).2
/-- MOVC starts (R285): the entry is on its way for a time that the spec does not give (log 4). -/
def State.movcStart (s : State) (p : Nat) (k : Cmd) : State :=
  let due := s.now + 1 + s.anyBelow (8200 + p % 64) 4096
  s.onCore p fun c =>
    { c with eq := c.eq.filter (·.id != k.id), eflight := c.eflight ++ [{ k with started := some s.now, until_ := due }] }
/-- A command starts through the engine port (R216). -/
def State.engineStart (s : State) (p : Nat) (k : Cmd) : State :=
  match k.op with
  | .cpyi _ _ _ _ _ | .cpyo _ _ _ _ _ | .cpyl _ _ _ _ | .codel _ _ _ => s.copyStart p k
  | .tsnd _ _ _ => s.tsndStart p k
  | .trcv _ _ _ _ => s.trcvStart p k
  | .tide _ _ => s.tideStart p k
  | .lsnd _ _ _ | .lrcv _ _ _ | .lred _ _ _ => s.linkStart p k
  | .esnd _ _ _ mb wake _ _ => s.esndStart p k mb.toNat wake
  | .sigs _ _ op _ => s.sigsStart p k op
  | .hnfy _ _ _ => s.hnfyStart p k
  | .movc _ _ _ _ => s.movcStart p k
  | _ => s.sdStart p k
/-- ENGINE_COMMAND_START (R216). -/
def execEngineCommandStart (core cmd : Nat) (s : State) : Out :=
  event (fun s =>
    match cmdOf (s.core core).eq cmd with
    | none => s
    | some k => if s.engineTimed core = some k || s.engineFree core = some k then s.engineStart core k else s) s
/-- A tide-locked command is refused now: its cycle has come and it cannot start, or its cycle passed outside the queue (R51, R216). -/
def State.engineRefused (s : State) (p : Nat) (k : Cmd) : Bool :=
  let c := s.core p
  k.timed && (c.ctx k.ctx).ran &&
  ((k ∈ c.eq && decide (c.startOf k ≤ s.now) && s.engineTimed p != some k) || (k ∈ c.ewait && decide (c.startOf k ≤ s.now)))
/-- ENGINE_START_REFUSED (R216, R227, R228): nothing is performed; 0x0A with the OFFSET, for tidal commands 0x1E. -/
def execEngineStartRefused (core cmd : Nat) (s : State) : Out :=
  event (fun s =>
    match cmdOf ((s.core core).eq ++ (s.core core).ewait) cmd with
    | none => s
    | some k =>
      if !s.engineRefused core k then s
      else if isTidal k.op then (s.tidalRefuse core k).endWait core k.ctx k.id none
      else (((s.engineDone core k).engineFault core k 0x0A ((Instr.start k.op).off.setWidth 64))).endWait core k.ctx k.id none) s

/-! ## Requests at their owner (R132, R134, R136, R147) -/

/-- Words that a request touches at its owner. -/
def Packet.words (k : Packet) (c : Core) : List Nat :=
  match k.body with
  | .access i b _ => wordsOf (accessPieces i k.laddr b 0)
  | .signal _ _ => [k.laddr / 8 * 8]
  | .join => (joinWords k.laddr).1
  | .ringPush r _ => match c.ring r with | some h => (c.pushWords h).1 | none => []
  | .ringPop r => match c.ring r with | some h => (c.popWords h).1 | none => []
  | _ => []
/-- An accepted request may be performed now: port A of its banks is free (R131). -/
def State.portReady (s : State) (k : Packet) : Bool :=
  k.accepted.isSome && (s.core k.dst).portFree (k.words (s.core k.dst))
/-- Banks of a request taken. -/
def State.takeBanksOf (s : State) (k : Packet) : State := s.onCore k.dst fun c => c.takePort (k.words c)
/-- A remote SIGS at its owner (R235). -/
def State.performSignal (s : State) (k : Packet) (op : SigOp) (v : DWord) : State :=
  let c := s.core k.dst
  if s.refuses k (.st64 0 0 0) 0 then s.refuseAccess k (.st64 0 0 0) 0
  else s.performRemote k (.st64 0 0 0) (c.storeBytes k.laddr 8 (signalVal op (c.word k.laddr) v).toNat) (.word 0) 0
/-- REMOTE_ACCESS_PERFORM (R134, R136): a request is granted port A, performed or refused, and answered. -/
def execRemoteAccessPerform (pkt : Nat) (s : State) : Out :=
  event (fun s =>
    match s.packet pkt with
    | none => s
    | some k =>
      if !s.portReady k then s else
      match k.body with
      | .access i b data => (s.takeBanksOf k).grantAccess k i b data
      | .signal op v => (s.takeBanksOf k).performSignal k op v
      | _ => s) s
/-- The words of a remote N request's entry in the owner's log (R335). -/
def State.logServed (s : State) (k : Packet) (kind : Nat) (v : DWord) : State :=
  s.logReceive k.dst kind 0 k.src k.sctx v k.laddr 8 [] (some (.packet k.body))
/-- A ring request touches a word that its owner refuses to its launch (R136). Model's choice (log 73): a ring's words are reached as those of any other access. -/
def State.ringRefused (s : State) (k : Packet) : Bool :=
  (k.words (s.core k.dst)).any fun w => s.refuses { k with laddr := w } (.st64 0 0 0) 0
/-- A remote RPSH at the ring's owner (R233, R234): on overflow it is sent again, and C0 is told once a ring between two successful pushes. -/
def State.remotePush (s : State) (k : Packet) (r : Nat) (v : DWord) : State :=
  let c := s.core k.dst
  match c.ring r with
  | none => s.answer k (.refused 0x03)
  | some h =>
    match c.ringPush h v with
    | some c' =>
      (((s.setCore k.dst (c'.pushed r)).noteRemote k.dst (c.pushWords h).2 k.src k.sctx).logServed k 0x01 v).answer k .none
    | none =>
      let t := s.refuseForNow k
      if r ∈ c.ringTold then t else
      t.onCore k.dst fun c => { c with ringTold := c.ringTold ++ [r],
                                       pending := { c.pending with own := c.pending.own ++ [(0x0E, c.ringTval r h)] } }
/-- A remote RPOP at the ring's owner (R233, R234): on an empty ring it waits in a watch slot. -/
def State.remotePop (s : State) (k : Packet) (r : Nat) : State :=
  let c := s.core k.dst
  match c.ring r with
  | none => s.answer k (.refused 0x03)
  | some h =>
    match c.ringPop h with
    | some (c', v) => ((s.setCore k.dst (c'.noteWriter (c.popWords h).2 k.src k.sctx)).logServed k 0x01 v).answer k (.value v)
    | none =>
      match c.freeWatch with
      | none => s.refuseForNow k
      | some n => (s.dropPacket k.id).onCore k.dst fun c => { c with watches := c.watches ++ [⟨n, k, 0⟩] }
/-- RING_REMOTE_OP (R233, R234). A ring whose words lie in a bank that its launch does not own is refused (log 73). -/
def execRingRemoteOp (pkt : Nat) (s : State) : Out :=
  event (fun s =>
    match s.packet pkt with
    | none => s
    | some k =>
      if !s.portReady k then s else
      match k.body with
      | .ringPush r v => if s.ringRefused k then s.answer k (.refused 0x08) else (s.takeBanksOf k).remotePush k r v
      | .ringPop r => if s.ringRefused k then s.answer k (.refused 0x08) else (s.takeBanksOf k).remotePop k r
      | _ => s) s
/-- A word that a watched access waits on is tested again (R147, R234), and refused where its owner would refuse it now (R136). -/
def State.retest (s : State) (p : Nat) (w : Watch) : State :=
  let c := s.core p
  let gone (d : Core) : Core := { d with watches := d.watches.filter (·.slot != w.slot) }
  let fresh := s.onCore p fun c =>
    { c with watches := c.watches.map fun u => if u.slot = w.slot then { u with retest := 0 } else u }
  match w.pkt.body with
  | .access i b data =>
    if s.refuses w.pkt i b then (s.onCore p gone).refuseAccess w.pkt i b else
    match c.access i w.pkt.laddr b data 0 with
    | some (d, v) => s.performRemote w.pkt i (gone d) v b
    | none => fresh
  | .ringPop r =>
    if s.ringRefused w.pkt then (s.onCore p gone).answer w.pkt (.refused 0x08) else
    match c.ring r with
    | none => fresh
    | some h =>
      match c.ringPop h with
      | some (d, v) =>
        ((s.setCore p ((gone d).noteWriter (c.popWords h).2 w.pkt.src w.pkt.sctx)).logServed w.pkt 0x01 v).answer w.pkt (.value v)
      | none => fresh
  | _ => s
/-- WATCH_SLOT_RETEST (R147): once in the cycle after a write to its word, at port A. -/
def execWatchSlotRetest (core slot : Nat) (s : State) : Out :=
  event (fun s =>
    match firstOf (fun w => w.slot == slot && w.retest == 2) (s.core core).watches with
    | none => s
    | some w =>
      let ws := w.pkt.words (s.core core)
      if (s.core core).portFree ws then (s.onCore core fun c => c.takePort ws).retest core w else s) s
/-- A request that takes effect at the interface is due: a steal or a push waits one more cycle where this is the last of a core turn (R272). -/
def Packet.ripe (k : Packet) (now : Nat) : Bool :=
  match k.accepted with
  | some t => decide (t < now) && now % 16 != 15
  | none => false
/-- An accepted JOIN may be performed now, as far as R272 goes: one that will push its continuation is a deque operation. -/
def State.joinRipe (s : State) (k : Packet) : Bool :=
  ((s.core k.dst).word k.laddr).setWidth 32 != (1 : BitVec 32) || k.ripe s.now
/-- The packet of word j of a join block: what its owner checks (R136). -/
def Packet.at_ (k : Packet) (j : Nat) : Packet := { k with laddr := k.laddr + 8 * j }
/-- REMOTE_JOIN (R136, R272, R276). -/
def execRemoteJoin (pkt : Nat) (s : State) : Out :=
  event (fun s =>
    match s.packet pkt with
    | none => s
    | some k =>
      if !s.portReady k || k.body != .join || !s.joinRipe k then s else
      let t := s.takeBanksOf k
      let c := t.core k.dst
      match firstOf (fun j => t.refuses (k.at_ j) (.st64 0 0 0) 0) (upTo 6) with
      | some j =>
        (match t.badWord (k.at_ j) (.st64 0 0 0) 0 with | some w => t.reportWord k.dst w | none => t).answer k (.refused 0x08)
      | none =>
        match c.join k.laddr with
        | .ok c' =>
          let kind := if c.deque.length < c'.deque.length then 0x07 else 0x01
          (((t.setCore k.dst c').noteRemote k.dst (joinWords k.laddr).2 k.src k.sctx).logServed k kind 0).answer k .none
        | .error 0x0F =>
          (t.refuseForNow k).onCore k.dst fun c =>
            { c with pending := { c.pending with own := c.pending.own ++ [(0x0F, BitVec.ofNat 64 (2 ^ 62))] } }
        | .error e => t.answer k (.refused e)) s
/-- STEAL_REQUEST (R272, R274): the victim's top resident record, if it has one. -/
def execStealRequest (pkt : Nat) (s : State) : Out :=
  event (fun s =>
    match s.packet pkt with
    | none => s
    | some k =>
      if k.body != .steal || !k.ripe s.now then s else
      match (s.core k.dst).deque with
      | r :: t => ((s.onCore k.dst fun c => { c with deque := t }).logServed k 0x07 r.entry).answer k (.record r)
      | [] => (s.logServed k 0x01 0).answer k .none) s
/-- The lowest-numbered FREE worker of a core that nothing is to start (R277). -/
def Core.freeWorker (c : Core) : Option Nat :=
  firstOf (fun n => (c.ctx n).st == .free && !(c.resuming.any fun r => (c.entryWord r.1).1 == n) && !(c.changes.any fun g => match g with
    | .start t _ _ _ _ _ _ _ _ _ => t == n
    | _ => false)) (upFrom 1 15)
/-- SPAWN_REQUEST (R277). -/
def execSpawnRequest (pkt : Nat) (s : State) : Out :=
  event (fun s =>
    match s.packet pkt with
    | none => s
    | some k =>
      match k.body with
      | .spawn entry seed x3 x4 x5 x6 x7 =>
        if k.accepted.isNone then s else
        match (s.core k.dst).freeWorker with
        | none => s.answer k (.value 0)
        | some n =>
          let t := s.onCore k.dst fun c => { c with changes := c.changes ++
            [.start n entry x3 x4 x5 x6 x7 (spawnSeed seed k.dst n) true k.launch] }
          (t.logServed k 0x07 (BitVec.ofNat 64 n)).answer k (.value (BitVec.ofNat 64 n))
      | _ => s) s

/-! ## Barriers (R231) -/

/-- A barrier object. -/
def State.barrier (s : State) (key bar : Nat) : Barrier := look Barrier.reset s.barriers (32 * key + bar)
/-- A barrier object replaced. -/
def State.setBarrier (s : State) (key bar : Nat) (b : Barrier) : State := { s with barriers := put s.barriers (32 * key + bar) b }
/-- An arrival at an object: its generation completes when ARRIVED reaches COUNT. -/
def Barrier.arrive (b : Barrier) : Barrier :=
  if b.arrived + 1 = b.count then { b with arrived := 0, gen := b.gen + 1 } else { b with arrived := b.arrived + 1 }
/-- The reply to a released waiter: GEN for BARA. -/
def releaseReply (k : Packet) (gen : Half) : Reply :=
  match k.body with
  | .barrier (.bara _ _ _) _ => .value (gen.setWidth 64)
  | _ => .none
/-- Waiters whose generation has passed are released, in arrival order. -/
def State.release (s : State) (key bar : Nat) : State :=
  let b := s.barrier key bar
  let go := b.waiters.filter fun w => w.2 != b.gen
  let t := s.setBarrier key bar { b with waiters := b.waiters.filter fun w => w.2 == b.gen }
  go.foldl (fun s w => s.answer w.1 (releaseReply w.1 w.2)) t
/-- A request waits at an object. -/
def State.await (s : State) (k : Packet) (key bar : Nat) (b : Barrier) (gen : Half) : State :=
  (s.dropPacket k.id).setBarrier key bar { b with waiters := b.waiters ++ [(k, gen)] }
/-- A barrier's misuse (R231). -/
def State.misuse (s : State) (k : Packet) (bar : Nat) : State := s.answer k (.trap 0x20 (BitVec.ofNat 64 bar))
/-- BARRIER_REQUEST (R231): the unit performs one request. -/
def execBarrierRequest (pkt : Nat) (s : State) : Out :=
  event (fun s =>
    match s.packet pkt with
    | none => s
    | some k =>
      if k.accepted.isNone then s else
      let key := k.dst - 131072
      match k.body with
      | .barrier (.bari _ bar) a =>
        let b := s.barrier key bar.toNat
        let n := a.toNat
        if n = 0 || decide (256 < n) || (b.init && b.count != n) then s.misuse k bar.toNat
        else (if b.init then s else s.setBarrier key bar.toNat { b with count := n, arrived := 0, init := true }).answer k .none
      | .barrier (.bara _ bar wait) _ =>
        let b := s.barrier key bar.toNat
        if !b.init then s.misuse k bar.toNat else
        let b' := b.arrive
        let t := s.setBarrier key bar.toNat b'
        if wait && b'.gen == b.gen then t.await k key bar.toNat b' b.gen
        else (t.answer k (.value (b.gen.setWidth 64))).release key bar.toNat
      | .barrier (.barw _ bar) a =>
        let b := s.barrier key bar.toNat
        if !b.init then s.misuse k bar.toNat
        else if b.gen != a.setWidth 16 then s.answer k .none
        else s.await k key bar.toNat b b.gen
      | _ => s) s

/-! ## Messages (R229, R230) -/

/-- An interface has a slot for a message, and for its wake (R229, R281). -/
def Core.takesMessage (c : Core) (wake : Bool) : Bool :=
  decide (c.msgs.length < 64) && (!wake || decide (c.pending.wakes.length < 64))
/-- TVAL of a wake (R229). -/
def wakeTval (mb : Nat) (src : Half) (sctx : Nat) : DWord :=
  (0 : BitVec 28) ++ BitVec.ofNat 4 sctx ++ src ++ (0 : BitVec 9) ++ BitVec.ofNat 7 mb
/-- The command of a packet ends at its core with a log entry there (R217, R335). -/
def State.remoteDone (s : State) (k : Packet) : State :=
  match (s.core k.src).flight k.cmd with
  | some c => (s.engineDone k.src c).logReceive k.src 0x05 c.ctx k.dst 0 (BitVec.ofNat 64 ((tagOf c.op).getD 0)) 0 0 [] (some (.ended none))
  | none => s
/-- ESND_MESSAGE_ARRIVAL (R229): a message is accepted into a slot, with its wake, and the sender's tag set; or refused for now. -/
def execEsndMessageArrival (pkt : Nat) (s : State) : Out :=
  event (fun s =>
    match s.packet pkt with
    | none => s
    | some k =>
      match k.body with
      | .message mb wake data =>
        if k.accepted.isNone then s else
        if !(s.core k.dst).takesMessage wake then s.refuseForNow k else
        let src := (s.core k.src).logicalOf k.sctx
        let t := (s.dropPacket k.id).onCore k.dst fun c =>
          { c with msgs := c.msgs ++ [⟨mb, src, BitVec.ofNat 4 k.sctx, data⟩],
                   pending := if wake then { c.pending with wakes := c.pending.wakes ++ [wakeTval mb src k.sctx] } else c.pending }
        (t.logReceive k.dst 0x03 0 k.src k.sctx (BitVec.ofNat 64 mb) 0 data.length data (some (.packet k.body))).remoteDone k
      | _ => s) s
/-- The context that the next message of a mailbox goes to: one that has begun to receive, else the earliest-issued waiter (R230). -/
def Core.receiver (c : Core) (mb : Nat) : Option Nat :=
  let waits := (c.ctxs.filter fun kx => kx.2.st == .park).filterMap fun kx =>
    (firstOf (fun k => k.kind == .ercv && k.ended == .waiting && (match k.op with | .ercv _ _ m => m.toNat == mb | _ => false))
      kx.2.parks).map fun k => (kx.1, k)
  match firstOf (fun w => w.2.c != 0) waits with
  | some w => some w.1
  | none => ((sortBy (fun w : Nat × Park => w.2.issue) waits).head?).map (·.1)
/-- The wait of a context for a message that is there, and the message. -/
def Core.ercvWait (c : Core) (n : Nat) : Option (Park × Msg) :=
  match firstOf (fun k => k.kind == .ercv && k.ended == .waiting) (c.ctx n).parks with
  | none => none
  | some k =>
    match k.op with
    | .ercv _ _ mb =>
      if c.receiver mb.toNat = some n then (firstOf (fun m => m.mb == mb.toNat) c.msgs).map fun m => (k, m) else none
    | _ => none
/-- The header of a message (R230). -/
def Msg.header (m : Msg) : DWord := (0 : BitVec 36) ++ BitVec.ofNat 8 m.data.length ++ m.sctx ++ m.src
/-- The local address of a message's next word. -/
def ercvAddr (k : Park) : Nat := (laddrOf k.a + 8 * k.c.toNat) % 2 ^ 19
/-- ERCV_DELIVERY (R230): the next word of a message is written at port A; after the last the wait is over. A word that the context may not reach traps 0x06 (R31, R239): nothing more is written, and the message stays in its slot (log 24). -/
def execErcvDelivery (core ctx : Nat) (s : State) : Out :=
  event (fun s =>
    match (s.core core).ercvWait ctx with
    | none => s
    | some (k, m) =>
      let a := ercvAddr k
      if !(s.core core).portFree [a] then s else
      let n := k.c.toNat
      if !(s.core core).reachesAll ctx a 8 then s.trapWait core ctx k.id (causeOf 0x06) (BitVec.ofNat 64 a) else
      let t := s.onCore core fun c => ((c.takePort [a]).storeBytes a 8 (wordAt m.data (8 * n)).toNat).noteWriter [a] core ctx
      if 8 * (n + 1) < m.data.length then t.onCtx core ctx fun x => x.onPark k.id fun k => { k with c := k.c + 1 }
      else (t.onCore core fun c => { c with msgs := c.msgs.erase m }).endWait core ctx k.id (some (.word m.header))) s

/-! ## Local signals (R235) -/

/-- SIGNAL_WORD_PERFORM (R235): a started local SIGS is performed at port A, and its tag set. -/
def execSignalWordPerform (core cmd : Nat) (s : State) : Out :=
  event (fun s =>
    match (s.core core).flight cmd with
    | none => s
    | some k =>
      match k.op with
      | .sigs _ _ op _ =>
        let a := laddrOf k.a / 8 * 8
        if isRemote k.a || !(s.core core).portFree [a] then s else
        let v := signalVal op (s.engineWord core a) k.b
        let t := (s.engineNotice core a).onCore core fun c => ((c.takePort [a]).storeBytes a 8 v.toNat).noteWriter [a] core 256
        t.engineDone core k
      | _ => s) s

/-! ## Responses (R134 to R137, R332) -/

/-- The relaxed accesses of a context, or of the context OUT in Rockpool entry n − 16. -/
def Core.relaxedOf (c : Core) (n : Nat) : List Relaxed :=
  if n < 16 then (c.ctx n).relaxed else match find c.pool (n - 16) with | some q => q.relaxed | none => []
/-- The relaxed accesses of a core changed, by the name of one. -/
def Core.onRelaxed (c : Core) (id : Nat) (f : Relaxed → Relaxed) : Core :=
  let g (l : List Relaxed) : List Relaxed := l.map fun r => if r.id = id then f r else r
  { c with ctxs := c.ctxs.map fun kx => (kx.1, { kx.2 with relaxed := g kx.2.relaxed }),
           pool := c.pool.map fun kq => (kq.1, { kq.2 with relaxed := g kq.2.relaxed }) }
/-- A relaxed access whose response has come. -/
def Relaxed.answered (r : Relaxed) (reply : Reply) : Relaxed :=
  { r with performed := true, refused := match reply with | .refused _ => some r.a | _ => r.refused }
/-- A reply's value, if it has one. -/
def Reply.val : Reply → Option Val
  | .value v => some (.word v)
  | .vec v => some (.vec v)
  | _ => Option.none
/-- The next candidate of a STEAL that found nothing, or its end (R275). -/
def State.stealOn (s : State) (p n : Nat) (k : Park) : State :=
  match nth ((s.core p).stealOrder p n k.a.toNat) k.c.toNat with
  | none => (s.onWait p n k.id fun k => { k with ended := .done }).onCore p fun c => c.settleTask k.id none (turnLast s.now)
  | some v =>
    let (id, t) := s.send p n v 0 .steal 0 ((s.core p).launchId n)
    -- The request keeps the wait's name.
    (t.onPacket id fun q => { q with id := k.id, sctx := s.realCtx p n }).onWait p n k.id fun k => { k with c := k.c + 1 }
/-- A response for a wait of a resident context (R134, R136, R147, R274, R275). -/
def State.respond (s : State) (p n : Nat) (k : Park) (r : Reply) : State :=
  match r with
  | .value v => s.endWait p n k.id (some (.word v))
  | .vec v => s.endWait p n k.id (some (.vec v))
  | .record t =>
    let u := (s.onWait p n k.id fun k => { k with ended := .done }).onCore p fun c => c.settleTask k.id (some t) (turnLast s.now)
    u.onCtx p n fun x => x.takeRecord t k.slot k.addr s.now
  | .none => match k.op with | .steal _ _ => s.stealOn p n k | _ => s.endWait p n k.id none
  | .refused 0x0C =>
    match felimTrap k with
    | some (cause, v) => s.trapWait p n k.id (causeOf cause) v
    | none => s.trapWait p n k.id (causeOf 0x0C) k.a
  | .refused e => s.trapWait p n k.id (causeOf e) k.a
  | .trap e v => s.trapWait p n k.id (causeOf e) v
  | .retry => s
/-- The KIND of a wait (R330). -/
def ParkKind.code : ParkKind → Nat
  | .eddy | .relaxedFull => 1
  | .retry => 2
  | .tags => 3
  | .ercv | .emonef => 4
  | .bank => 5
  | .queueFull => 6
  | .msync => 7
  | .fence => 8
  | .drain | .stepDrain => 9
  | .swap => 0
/-- The destination field of PA0 (R330). -/
def Park.field (k : Park) : Nat :=
  match k.op with
  | .steal _ q => q.toNat
  | i => match Instr.dests i with | r :: _ => r.field | [] => 0
/-- The second operand of PA2 is the operation's data or compare value, and not its register operand b (R330). -/
def holdsData : Instr → Bool
  | .acas _ _ _ _ | .rpsh _ _ _ => true
  | i => isStore i && !isAtomic i
/-- A parked operation's second operand (R330): compare value, generation, limit or data. -/
def Park.second (k : Park) : DWord := if holdsData k.op then k.c else k.b
/-- A parked operation with its second operand read back (R330). -/
def Park.setSecond (k : Park) (v : DWord) : Park := if holdsData k.op then { k with c := v } else { k with b := v }
/-- PA0 to PA2 of an entry, from the first wait that is not over (R330). -/
def Core.putPark (c : Core) (e : Nat) (l : List Park) : Core :=
  let put3 (a b d : DWord) : Core :=
    ((c.setWord (poolAddr e 0x1D0) a).setWord (poolAddr e 0x1D8) b).setWord (poolAddr e 0x1E0) d
  match firstOf (fun k => k.ended == .waiting) l with
  | none => put3 0 0 0
  | some k =>
    let code := k.kind.code
    put3 (BitVec.ofNat 64 (code + 2 ^ 8 * k.field + 2 ^ 16 * k.slot + 2 ^ 32 * k.turns))
      (if code ≤ 5 then k.a else 0) (if code ≤ 5 then k.second else 0)
/-- An entry's word of a register of its context, written (R36). -/
def Core.poolReg (c : Core) (e : Nat) (d : Dest) (v : Val) : Core :=
  match d with
  | .x _ r => if r = 0 then c else c.setWord (poolAddr e (0x20 + 8 * (r.toNat - 1))) v.word!
  | .v _ r => { c with ls := memWrite c.ls (poolAddr e (0x200 + 32 * r.toNat)) 32 v.vec!.toNat }
  | .q _ r =>
    let w := c.word (poolAddr e 0x10)
    let b := bitAt r.toNat
    if r = 0 then c else c.setWord (poolAddr e 0x10) (if v.bit! then w ||| b else w &&& ~~~b)
  | _ => c
/-- The results of an OUT context's access, by what each register gets: into the entry's words, or into shared registers (R332). -/
def Core.settleOut (c : Core) (e id due : Nat) (val : Dest → Option Val) : Core :=
  let mine : List Write := match find c.pool e with | some q => q.writes.filter (·.id == id) | none => []
  let c1 := mine.foldl (fun c w => match val w.dst with | some v => c.poolReg e w.dst v | none => c) c
  let c2 := c1.onPool e fun q => { q with writes := q.writes.filter (·.id != id) }
  { c2 with writes := c2.writes.filterMap fun w =>
      if w.id = id && w.due.isNone then (val w.dst).map fun v => { w with val := v, due := some due } else some w }
/-- What a task record gives x4 to x7 and q (R274). -/
def TaskRec.val (r : Option TaskRec) : Dest → Option Val
  | .q _ _ => some (.bit r.isSome)
  | .x _ n => r.map fun t => .word (if n = 4 then t.x4 else if n = 5 then t.x5 else if n = 6 then t.x6 else t.x7)
  | _ => none
/-- A wait of an OUT context has ended (R332): when nothing else is waited for, KIND becomes 0 and a recorded PARK becomes RUN. -/
def Core.settleEntry (c : Core) (e : Nat) : Core :=
  let left : List Park := match find c.pool e with | some q => q.parks.filter fun q => q.ended == .waiting | none => []
  let d := c.putPark e left
  let w := d.word (poolAddr e 8)
  if left.isEmpty && (w.extractLsb' 8 3).toNat = 2 then d.setWord (poolAddr e 8) ((w &&& ~~~0x700) ||| 0x100) else d
/-- An OUT context gets a record (R274): its levels close, and ENTRY, where it is good, is its next bundle, also for a TRAP or BRK of the bundle (R279). -/
def Core.entryRecord (c : Core) (e : Nat) (t : TaskRec) : Core :=
  let d := ((upTo 6).foldl (fun c k => (c.setWord (poolAddr e (0x170 + 16 * k)) 0).setWord (poolAddr e (0x178 + 16 * k)) 0) c)
  let d := (d.setWord (poolAddr e 0x18) 0).onPool e fun q => { q with hold := none, seeking := false }
  if badTarget t.entry then d else
  (d.setWord (poolAddr e 0) t.entry).onPool e fun q => { q with late := q.late.map (Late.retarget t.entry) }
/-- A response for an OUT context's access (R332): the value goes into its register's word of the entry. -/
def Core.respondOut (c : Core) (e : Nat) (k : Park) (r : Reply) (due : Nat) : Core :=
  let val : Dest → Option Val := match r with
    | .record t => TaskRec.val (some t)
    | .none => (match k.op with | .steal _ _ => TaskRec.val none | _ => fun _ => none)
    | _ => fun _ => Reply.val r
  let c1 := c.settleOut e k.id due val
  (match r with | .record t => c1.entryRecord e t | _ => c1).settleEntry e
/-- The late trap of an OUT context's wait: none where its response is a result. -/
def outTrap (k : Park) : Reply → Option (Nat × DWord)
  | .refused 0x0C => some ((felimTrap k).getD (0x0C, k.a))
  | .refused e => some (e, k.a)
  | .trap e v => some (e, v)
  | .record t => if badTarget t.entry then some (0x07, t.entry) else none
  | _ => none
/-- A response for a wait of an OUT context. -/
def State.respondPool (s : State) (p e : Nat) (k : Park) (r : Reply) : State :=
  let steal : Bool := match k.op with | .steal _ _ => r == .none | _ => false
  if steal && (nth ((s.core p).stealOrder p (16 + e) k.a.toNat) k.c.toNat).isSome then s.stealOn p (16 + e) k else
  let t := (s.onWait p (16 + e) k.id fun k => { k with ended := .done }).onCore p fun c => c.respondOut e k r (turnLast s.now)
  match outTrap k r with
  | some (cause, v) => t.lateFault p (16 + e) ⟨.first k.slot k.addr, causeOf cause, v, s.now⟩
  | none => t
/-- The value of an OUT context's relaxed access: its word of the entry holds it, and it stays owed until the covering WAITM (R137, R332). -/
def Core.fillPool (c : Core) (id : Nat) (v : Val) : Core :=
  c.pool.foldl (fun c kq =>
    (kq.2.writes.filter (·.id == id)).foldl (fun c w =>
      (c.poolReg kq.1 w.dst v).onPool kq.1 fun q =>
        { q with writes := q.writes.map fun u => if u.id = id then { u with val := v } else u }) c) c
/-- The request of a relaxed access of a context, resident or OUT, that has not been sent: it takes the access's name. -/
def State.sendRelaxed (s : State) (p n : Nat) (r : Relaxed) : State :=
  let (id, t) := s.sendAccess p n r.op ⟨r.a, r.b, r.data, r.idx⟩
  let t := t.onPacket id fun k => { k with id := r.id, sctx := s.realCtx p n }
  t.onCore p fun c => c.onRelaxed r.id fun r => { r with sent := true, held := false, from_ := p }
/-- The relaxed accesses of a context that an overlapping earlier one has held back are sent once it is performed (R137, R293, R303). -/
def State.sendHeld (s : State) (p n : Nat) : State :=
  let l := (s.core p).relaxedOf n
  (l.filter fun r => r.held && !((s.core p).relaxedHeld p n l r)).foldl (fun s r => s.sendRelaxed p n r) s
/-- A ninth relaxed access of a context, resident or OUT, is sent, or held back behind one that it overlaps, when one of the eight has ended, and its wait is over (R135, R303, R332). -/
def State.sendNinth (s : State) (p n : Nat) : State :=
  let l := (s.core p).relaxedOf n
  match firstOf (fun r => r.remote && !r.sent && !r.held) l with
  | some r =>
    if 8 ≤ (l.filter Relaxed.out).length then s else
    let t := if (s.core p).relaxedHeld p n l r then s.onCore p fun c => c.onRelaxed r.id fun r => { r with held := true }
      else s.sendRelaxed p n r
    let u := t.onWait p n r.id fun k => { k with ended := .done }
    if n < 16 then u else u.onCore p fun c => c.settleEntry (n - 16)
  | none => s
/-- A response for a relaxed access of a context, resident or OUT. -/
def State.respondRelaxed (s : State) (p id : Nat) (r : Reply) : State :=
  let c := s.core p
  let t := s.onCore p fun c =>
    let c := c.onRelaxed id fun q => q.answered r
    match Reply.val r with
    | some v => (c.fill id v).fillPool id v
    | none => c
  match firstOf (fun kx => kx.2.relaxed.any (·.id == id)) c.ctxs with
  | some (n, _) => t.sendNinth p n
  | none =>
    match firstOf (fun kq => kq.2.relaxed.any (·.id == id)) c.pool with
    | some (e, _) => t.sendNinth p (16 + e)
    | none => t
/-- The core that answers for a response's requester: the core itself, or the one to which the waiting context has moved (R284, R285). -/
def State.responder (s : State) (p id : Nat) : Nat :=
  let c := s.core p
  let q := match c.forward with
    | some q => q
    | none => (c.migration.map (·.target)).getD p
  let here (c : Core) : Bool := (c.waiter id).isSome ||
    (c.ctxs.any fun kx => kx.2.relaxed.any (·.id == id)) ||
    (c.pool.any fun kq => (kq.2.parks.any (·.id == id)) || kq.2.relaxed.any (·.id == id))
  if q != p && !here c && here (s.core q) then q else p
/-- The operation of the wait or relaxed access of a core that a response answers. -/
def Core.asked (c : Core) (id : Nat) : Option Instr :=
  let parks := (c.ctxs.map fun kx => kx.2.parks).flatten ++ (c.pool.map fun kq => kq.2.parks).flatten
  let rel := (c.ctxs.map fun kx => kx.2.relaxed).flatten ++ (c.pool.map fun kq => kq.2.relaxed).flatten
  match firstOf (fun k => k.id == id) parks with
  | some k => some k.op
  | none => (firstOf (fun r => r.id == id) rel).map (·.op)
/-- The logical number, in the launch of a packet, of the core that sent it (R335). -/
def State.logSender (s : State) (k : Packet) : Half :=
  if hubId ≤ k.src then 0xFFFF else if kindOf k.src ≠ 0 then 0xFFFE else
  match firstOf (fun l : CoreLaunch => some l.id.toNat == k.launch) (s.core k.src).launches with
  | some l => l.logical
  | none => (s.core k.src).logicalOf 0
/-- A response's entry in the requester's log (R335): its value, and the address and length of the access. -/
def State.logResponse (s : State) (p : Nat) (k : Packet) (kind : Nat) (v : DWord) (id : Nat) : State :=
  let len := match (s.core p).asked id with | some i => accessSize i | none => 8
  -- The end of a command has its own entry.
  let what : Got := if ((s.core p).flight k.cmd).isSome then .noted else .packet k.body
  s.onCore p fun c => c.receive (receiveOf kind (k.sctx % 16) (s.logSender k) 0 s.now v k.laddr len [] (some what))
/-- Refusals that have come back take effect at their requesters, which send again 16 cycles later (R147, R322, R335). -/
def State.takeRetries (s : State) : State :=
  (s.packets.filter fun k => k.back && k.path.isEmpty && decide (k.due ≤ s.now)).foldl (fun s k =>
    let t := s.onPacket k.id fun k => { k with back := false, resend := some (s.now + 16) }
    -- The response comes from the packet's target.
    if k.src < hubId then t.logResponse k.src { k with src := k.dst, body := .reply k.id .retry } 0x08 0 k.id else t) s
/-- A response ends the wait, relaxed access or engine command that it answers (R134 to R137, R275, R332, R335). -/
def State.takeResponse (s : State) (pkt : Nat) : State :=
  match s.packet pkt with
  | none => s
  | some k =>
    match k.body with
    | .reply id r =>
      if !k.arrived s.now then s else
      let p := s.responder k.dst id
      let t := s.dropPacket pkt
      let kind : Nat := match r with | .refused _ | .retry | .trap _ _ => 0x08 | _ => 0x02
      let v : DWord := match Reply.val r with | some v => v.word! | none => 0
      let t := if p < hubId then t.logResponse p k kind v id else t
      let c := t.core p
      match c.waiter id with
      | some n =>
        match firstOf (fun q => q.id == id && q.ended == .waiting) (c.ctx n).parks with
        | some q => t.respond p n q r
        | none => t
      | none =>
        match firstOf (fun kq => kq.2.parks.any fun q => q.id == id && q.ended == .waiting) c.pool with
        | some (e, pc) =>
          match firstOf (fun q => q.id == id && q.ended == .waiting) pc.parks with
          | some q => t.respondPool p e q r
          | none => t
        | none =>
          match c.flight k.cmd with
          | some cmd =>
            let late : Option (DWord × DWord) := match r with | .refused e => some (causeWord e true 0 0 0, cmd.a) | _ => none
            let u := (t.engineDone p cmd).logReceive p 0x05 cmd.ctx k.src 0 (BitVec.ofNat 64 ((tagOf cmd.op).getD 0)) 0 0 [] (some (.ended late))
            match r with
            | .refused e => u.engineFault p cmd e cmd.a
            | _ => u
          | none => t.respondRelaxed p id r
    | _ => s
/-- REMOTE_RESPONSE_ARRIVAL (R134 to R137, R332, R335). -/
def execRemoteResponseArrival (pkt : Nat) (s : State) : Out := event (fun s => s.takeResponse pkt) s
/-- STEAL_RESPONSE (R274, R275): the response of a steal request ends the STEAL or sends it on. -/
def execStealResponse (pkt : Nat) (s : State) : Out := event (fun s => s.takeResponse pkt) s
/-- RETRY_RESEND (R147, R229, R234, R276): a refused request is sent again. -/
def execRetryResend (pkt : Nat) (s : State) : Out :=
  event (fun s =>
    match s.packet pkt with
    | none => s
    | some k =>
      match k.resend with
      | some t =>
        if s.now < t then s else s.onPacket pkt fun k => { (k.depart s.now k.src k.dst) with resend := none }
      | none => s) s

/-! ## Acceptance (R132, R229, R231, R284) -/

/-- A cancel at a core or a barrier unit (R147, R231): the request is removed, where it waits or on its way to be tried again, and answered as cancelled; one that has been answered stands. -/
def State.cancelAt (s : State) (k : Packet) (id : Nat) : State :=
  let t := s.dropPacket k.id
  let gone (q : Packet) (s : State) : State :=
    match q.body with
    | .ringPop r =>
      let c := s.core q.dst
      s.answer q (.trap 0x0D (c.ringTval r ((c.ring r).getD 0)))
    | _ => s.answer q (.refused 0x0C)
  if 131072 ≤ k.dst then
    let key := k.dst - 131072
    (upTo 32).foldl (fun s bar =>
      let b := s.barrier key bar
      match firstOf (fun w => w.1.id == id) b.waiters with
      | some w => gone w.1 (s.setBarrier key bar { b with waiters := b.waiters.filter fun u => u.1.id != id })
      | none => s) t
  else
    match firstOf (fun w => w.pkt.id == id) (s.core k.dst).watches with
    | some w => gone w.pkt (t.onCore k.dst fun c => { c with watches := c.watches.filter (·.slot != w.slot) })
    | none =>
      match t.packet id with
      | some q => gone q t
      | none => t
/-- A cancel, which follows the request it removes and never waits behind it (R147). -/
def Body.isCancel : Body → Bool
  | .cancel _ => true
  | _ => false
/-- The core to which the requests for a core are forwarded (R284). -/
def State.forwardOf (s : State) (p : Nat) : Option Nat := if p < hubId then (s.core p).forward else none
/-- The target of a committed migration has still to receive the core's shared state (R334). -/
def State.awaitsCopy (s : State) (p : Nat) : Bool :=
  s.cores.any fun kc => match kc.2.migration with | some m => m.target == p && m.committed.isSome | none => false
/-- A request that acts on a ring, the deque or the contexts of its target: what the hub copies after a commit (R334). -/
def Body.needsShared : Body → Bool
  | .ringPush _ _ | .ringPop _ | .join | .steal | .spawn _ _ _ _ _ _ _ => true
  | _ => false
/-- A request that waits for its turn to be accepted: due, not accepted, and not behind an earlier one of the same context to the same end that was refused and is sent again (R229, R368; log 34). -/
def State.acceptable (s : State) (dst : Nat) : List Packet :=
  sortBy (fun k => k.due * 8 + (match (nodesOf k.src dst).getLast? with | some n => inputOf k.via n | none => 0)) (s.packets.filter fun k =>
    k.dst == dst && !k.body.isReply && k.arrived s.now &&
    (k.body.isCancel || !(s.packets.any fun q =>
      q.src == k.src && q.sctx == k.sctx && (q.dst == dst || s.forwardOf q.dst == some dst) && q.accepted.isNone && !q.body.isReply && decide (q.id < k.id))))
/-- A request of the core's own C0, which goes on in a freeze (R284). -/
def Packet.ownC0 (k : Packet) : Bool := k.src == k.dst && k.sctx == 0
/-- One end accepts the request first in order (R132). A frozen core refuses it for now; one that has left its reach forwards it (R284). The target of a commit refuses for now what needs the shared state that it has still to receive (R334; log 70). -/
def State.accept (s : State) (dst : Nat) : State :=
  match s.acceptable dst with
  | [] => s
  | k :: _ =>
    match (if dst < hubId then (s.core dst).forward else none) with
    | some q => s.onPacket k.id fun k => { (k.depart s.now dst q) with dst := q }
    | none =>
      match k.body with
      | .cancel id => s.cancelAt k id
      | _ =>
        if dst < hubId && (((s.core dst).frozen && !k.ownC0) || (k.body.needsShared && s.awaitsCopy dst)) then s.refuseForNow k
        else s.onPacket k.id fun k => { k with accepted := some s.now }
/-- A freeze (R284, R303): requests that a core has accepted or holds in watch slots, and has not performed, are refused for now. -/
def State.refuseHeld (s : State) (p : Nat) : State :=
  let held := ((s.core p).watches.filter fun w => !w.pkt.ownC0).map (·.pkt)
  let t := s.onCore p fun c => { c with watches := c.watches.filter fun w => w.pkt.ownC0 }
  let u := { t with packets := t.packets ++ held }
  (u.packets.filter fun k => k.dst == p && k.accepted.isSome && !k.ownC0 && !k.body.isReply).foldl (fun s k => s.refuseForNow k) u

end Sys2Proof.Machine
end

