-- ==== Sys2Proof/Machine/Logs.lean ====
section
/-! DEFINITION. The draining of receive logs and trace rings into a launch's replay buffer (spec/14_faults_preemption_and_replay.md R334 to R337). -/
namespace Sys2Proof.Machine

/-- The 32 bytes of an entry (R335). -/
def Receive.entry (r : Receive) : List Byte :=
  bytesOf 8 (r.kind.toNat + 2 ^ 8 * r.ctx.toNat + 2 ^ 16 * r.src.toNat + 2 ^ 32 * r.sctx.toNat) ++ bytesOf 8 r.tide ++
    bytesOf 8 r.value.toNat ++ bytesOf 8 (r.laddr.toNat + 2 ^ 32 * r.len.toNat)
/-- An entry in the replay buffer, with its captured bytes behind it, filled up to whole entries (R337; log 15). -/
def Receive.stored (r : Receive) : List Byte :=
  let bs := if r.kind = 0x0A then [] else r.bytes
  r.entry ++ bs ++ List.replicate ((32 - bs.length % 32) % 32) 0
/-- The 16 bytes of a trace record (R336). -/
def traceBytes (r : Nat × Half × BitVec 4 × Nat) : List Byte :=
  bytesOf 8 (r.1 + 2 ^ 19 * r.2.1.toNat + 2 ^ 35 * r.2.2.1.toNat) ++ bytesOf 8 r.2.2.2
/-- Bytes written behind what a launch's replay buffer holds (R337). -/
def State.putReplay (s : State) (launch : Option Nat) (bs : List Byte) : State :=
  match launch.bind fun i => (find s.hub.replayAt i).map fun a => (i, a) with
  | some (i, a) =>
    let t := (s.putStack a bs).charge a bs.length
    { t with hub := { t.hub with replayAt := put t.hub.replayAt i (a + bs.length) } }
  | none => s
/-- A core's entries and trace records go to the replay buffer of the launch whose log they are (R334, R337). -/
def State.drainLog (s : State) (p : Nat) : State :=
  let c := s.core p
  let ts := (c.traces.map (·.2)).flatten
  let t := s.putReplay c.logLaunch ((c.recvs.map Receive.stored).flatten ++ (ts.map traceBytes).flatten)
  let u := { t with hub := { t.hub with
    drained := t.hub.drained ++ c.recvs.map fun r => (p, r)
    drainedTraces := t.hub.drainedTraces ++ ts.map fun r => (p, r) } }
  u.onCore p fun c => { c with recvs := [], traces := [] }

end Sys2Proof.Machine
end

