-- ==== Sys2Proof/Machine/Swap.lean ====
section
/-! DEFINITION. Rockpool entries and command save areas, and what completes SWAP, RESUME, MOVC and MIGR (spec/01_machine_state.md R36; spec/04_scalar_and_control.md R128; spec/11_tasks_traps_and_system.md R266, R267, R284, R285; spec/14_faults_preemption_and_replay.md R330 to R334); traps taken at a context's turn (R280, R281, R327, R328) and the C0 timer (R23, R441). -/
namespace Sys2Proof.Machine

/-! ## Level records (R128) -/

/-- An open level's record. -/
def Level.bits (l : Level) : BitVec 128 :=
  (0 : BitVec 19) ++ BitVec.ofBool l.skip ++ BitVec.ofBool l.first ++ (1 : BitVec 1) ++ l.stride ++ BitVec.ofBool l.src ++
    l.dreg ++ BitVec.ofBool l.lo ++ BitVec.ofBool l.fo ++ l.pos ++ l.len ++ l.count ++ l.start.extractLsb' 0 48
/-- OPEN of a record. -/
def openBit (r : BitVec 128) : Bool := r.getLsbD 106
/-- The level of a record. -/
def levelOf (r : BitVec 128) : Level :=
  ⟨(r.extractLsb' 0 48).setWidth 64, r.extractLsb' 48 32, r.extractLsb' 80 5, r.extractLsb' 85 5, r.getLsbD 90, r.getLsbD 91,
    r.extractLsb' 92 6, r.getLsbD 98, r.extractLsb' 99 7, r.getLsbD 107, r.getLsbD 108⟩
/-- A record that breaks R128, whatever comes before it: POS exceeds LEN, or a reserved bit is 1. -/
def badBits (r : BitVec 128) : Bool :=
  r.extractLsb' 109 19 != 0 || (r.getLsbD 98 && r.getLsbD 105) || (r.extractLsb' 80 5).toNat < (r.extractLsb' 85 5).toNat
/-- The index of the first record that RESUME refuses (R128): one that is bad, or an open one after a closed one. -/
def firstBad (i : Nat) (closed : Bool) : List (BitVec 128) → Option Nat
  | [] => none
  | r :: t => if badBits r || (openBit r && closed) then some i else firstBad (i + 1) (closed || !openBit r) t

/-! ## Saved commands (R331) -/

/-- The save area of an entry. -/
def saveArea (e : Nat) : Nat := 0x74000 + 0x1000 * e
/-- A FOOT region as saved. -/
def Region.word (r : Region) : DWord :=
  BitVec.ofNat 64 (r.lo % 2 ^ 19 + 2 ^ 19 * (if r.wr then 1 else 0) + 2 ^ 20 * ((r.len - 1) % 2 ^ 19) + 2 ^ 63)
/-- A saved FOOT region. -/
def regionOf (w : DWord) : Option Region :=
  if w.getLsbD 63 then some ⟨(w.extractLsb' 0 19).toNat, (w.extractLsb' 20 19).toNat + 1, w.getLsbD 19⟩ else none
/-- The regions that a command has of itself; the rest of its footprint came from FOOT. -/
def ownRegions (i : Instr) (a b c : DWord) : List Region :=
  match i with
  | .cpyi _ _ _ _ _ | .cpyo _ _ _ _ _ | .cpyl _ _ _ _ => copyRegions i a b c
  | .tsnd _ _ _ => [⟨laddrOf a, 64, false⟩]
  | .trcv _ _ _ _ => [⟨laddrOf a, 64, true⟩]
  | .tide _ _ => [⟨laddrOf a, 2048, false⟩]
  | .lsnd _ _ _ => [⟨laddrOf a, linkBytes c, false⟩]
  | .lrcv _ _ _ | .lred _ _ _ => [⟨laddrOf a, linkBytes c, true⟩]
  | .sigs _ _ _ _ => if isRemote a then [] else [⟨laddrOf a, 8, true⟩]
  | i =>
    if Instr.isM i then (matrixRegions i a b c).map fun r => ⟨laddrOf r.1, r.2.1, r.2.2⟩
    else match sdRegion i a b c with
      | some (v, n, wr, _) => [⟨laddrOf v, n, wr⟩]
      | none => []
/-- A command record: META, words, operands, attached FOOT regions. -/
def commandRecord (matrix : Bool) (seq : Half) (step : Nat) (words a b c : DWord) (att : List Region) : List DWord :=
  [BitVec.ofNat 64 ((if matrix then seq.toNat + 2 ^ 16 else 0) + 2 ^ 32 * (step % 16)), words, a, b, c,
    ((nth att 0).map Region.word).getD 0, ((nth att 1).map Region.word).getD 0]
/-- The record of a command. -/
def Cmd.record (k : Cmd) : List DWord :=
  commandRecord k.matrix k.seq k.step k.words k.a k.b k.c (k.foot.drop (ownRegions k.op k.a k.b k.c).length)
/-- The operation of a record's words: that of the kept command where they are unchanged. -/
def recordOp (kept : Cmd) (meta_ words : DWord) : Instr :=
  if words = kept.words then kept.op else
  match (if meta_.getLsbD 16 then decodeM (words.extractLsb' 0 32) (words.extractLsb' 32 32)
         else decodeN (words.extractLsb' 0 32) (words.extractLsb' 32 32)) with
  | .ok i => i
  | _ => kept.op
/-- A command read back from its record: its name and launch are those that the core kept. -/
def Cmd.restore (kept : Cmd) (n : Nat) (r : List DWord) : Cmd :=
  let m := nthD 0 r 0
  let i := recordOp kept m (nthD 0 r 1)
  let a := nthD 0 r 2
  let b := nthD 0 r 3
  let c := nthD 0 r 4
  { kept with ctx := n, op := i, words := nthD 0 r 1, a := a, b := b, c := c, seq := m.extractLsb' 0 16,
              step := (m.extractLsb' 32 4).toNat,
              foot := ownRegions i a b c ++ [nthD 0 r 5, nthD 0 r 6].filterMap regionOf }
/-- Words written from a local address on. -/
def Core.putWords (c : Core) (a : Nat) : List DWord → Core
  | [] => c
  | v :: t => (c.storeBytes a 8 v.toNat).putWords (a + 8) t
/-- Words from a local address on. -/
def Core.getWords (c : Core) (a n : Nat) : List DWord := (upTo n).map fun i => c.word (a + 8 * i)

/-! ## Writing and reading an entry (R36, R330) -/

/-- The context whose state a register write changes. -/
def Dest.ofCtx : Dest → Option Nat
  | .x n _ | .v n _ | .vq n _ _ | .q n _ | .spr n _ _ | .tagsClear n | .flags n | .next n => some n
  | _ => none
/-- A dispatch-ring entry as saved (R455). -/
def RingEntry.pair (r : RingEntry) : List DWord :=
  [(0 : BitVec 15) ++ r.caddr ++ (0 : BitVec 14) ++ (1 : BitVec 1) ++ BitVec.ofBool r.m ++ r.seq, r.words]
/-- The entry's words below 0x200, but for the parked-access record: state code, accumulator claims, and CS0 and CS1 given. -/
def Ctx.entryWords (x : Ctx) (n code claims : Nat) (cs0 cs1 : DWord) : List (Nat × DWord) :=
  let levels := (upTo 6).map fun k => match nth x.levels k with | some l => l.bits | none => 0
  [(0, x.next), (8, BitVec.ofNat 64 (n + 2 ^ 8 * code + 2 ^ 16 * claims)), (0x10, (x.qs ||| 1).setWidth 64),
    (0x18, BitVec.ofNat 64 (x.hold.getD 0))] ++
  (upFrom 1 31).map (fun r => (0x20 + 8 * (r - 1), look 0 x.xs r)) ++
  [(0x118, 0), (0x120, x.turn), (0x128, x.fcr), (0x130, x.tags), (0x138, x.seed), (0x140, x.epc), (0x148, x.cause),
    (0x150, x.tval), (0x158, x.check), (0x160, x.phaseReg), (0x168, x.vseqReg)] ++
  ((upTo 6).map fun k => let r := nthD 0 levels k
    [(0x170 + 16 * k, r.extractLsb' 0 64), (0x178 + 16 * k, r.extractLsb' 64 64)]).flatten ++
  [(0x1E8, BitVec.ofNat 64 x.outstanding), (0x1F0, cs0), (0x1F8, cs1)]
/-- The accumulators that a context claims, as a mask. -/
def Core.claimMask (c : Core) (n : Nat) : Nat :=
  total ((upTo 8).map fun m => if (m, n) ∈ c.claims then 2 ^ m else 0)
/-- CS0 and CS1 (R330). -/
def summary (x : Ctx) (cmds : List Cmd) : DWord × DWord :=
  let m := (cmds.filter Cmd.matrix).length
  let timed := sortBy (fun o => o) ((cmds.filter Cmd.timed).map fun k => (Instr.start k.op).off.toNat)
  (BitVec.ofNat 64 (m + 2 ^ 8 * (cmds.length - m) + 2 ^ 16 * x.foot.length + 2 ^ 24 * x.backlog.length + 2 ^ 32 * x.lost),
    match timed with | o :: _ => BitVec.ofNat 64 (o + 2 ^ 24) | [] => 0)
/-- Bytes cleared or written over a range of the store by a swap's path (R333). -/
def Core.writeEntry (c : Core) (e n code : Nat) (x : Ctx) (parks : List Park) (cmds : List Cmd) (parked : List DWord) : Core :=
  let (cs0, cs1) := summary x cmds
  let c1 := (x.entryWords n code (c.claimMask n) cs0 cs1).foldl (fun c w => c.storeBytes (poolAddr e w.1) 8 w.2.toNat) c
  let c2 := (upTo 32).foldl (fun c r => c.storeBytes (poolAddr e (0x200 + 32 * r)) 32 (look 0 x.vs r).toNat) c1
  let c3 := (upTo 32).foldl (fun c i =>
    c.putWords (poolAddr e (0x600 + 16 * i)) (match nth x.ring i with | some r => r.pair | none => [0, 0])) c2
  let c4 := c3.putPark e parks
  let c5 := c4.putWords (saveArea e) (cmds.map Cmd.record).flatten
  let c6 := c5.putWords (saveArea e + 0xA80) ((upTo 2).map fun i => match nth x.foot i with | some r => r.1.word | none => 0)
  let c7 := c6.putWords (saveArea e + 0xA90) (x.backlog.map fun r => [r.1, r.2]).flatten
  c7.putWords (saveArea e + 0xF90) parked
/-- The special registers, general registers, levels and lists that an entry's words give a context (R36, R267): the rest comes from the core's copy. -/
def Core.readEntry (c : Core) (e : Nat) (q : PoolCopy) : Ctx :=
  let w (o : Nat) : DWord := c.word (poolAddr e o)
  let recs : List (BitVec 128) := (upTo 6).map fun k => w (0x178 + 16 * k) ++ w (0x170 + 16 * k)
  let cs0 := w 0x1F0
  let held := (w 0x18).extractLsb' 0 4
  { Ctx.reset with
    st := .out, turn := q.turn, next := w 0,
    hold := if held.toNat = q.hold.getD 0 then q.hold else some held.toNat,
    xs := (upFrom 1 31).map fun r => (r, w (0x20 + 8 * (r - 1))),
    vs := (upTo 32).map fun r => (r, BitVec.ofNat 256 (memRead c.ls (poolAddr e (0x200 + 32 * r)) 32)),
    qs := (w 0x10).setWidth 8 ||| 1,
    fcr := w 0x128 &&& fcrMask, tags := w 0x130, tagOut := q.tagOut, seed := w 0x138, epc := w 0x140,
    cause := w 0x148 &&& 0x0000FFFFFF001FFF, tval := w 0x150, check := w 0x158 &&& 0xFFFF0007,
    phaseCount := q.phaseCount, pend := q.pend, vseqSel := q.vseqSel, vseqNext := q.vseqNext, ring := q.ring,
    levels := if (firstBad 0 false recs).isSome then [] else (recs.filter openBit).map levelOf,
    nextWritten := q.nextWritten, base := q.base, disp := q.disp, parks := q.parks, relaxed := q.relaxed,
    late := q.late ++ (match firstBad 0 false recs with
      | some k => [⟨.first 0 (w 0), causeOf 0x03, BitVec.ofNat 64 (0x170 + 16 * k), 0⟩]
      | none => []),
    backlog := (upTo (cs0.extractLsb' 24 7).toNat).map fun i =>
      (c.word (saveArea e + 0xA90 + 16 * i), c.word (saveArea e + 0xA98 + 16 * i)),
    lost := (cs0.extractLsb' 32 32).toNat,
    foot := ((c.getWords (saveArea e + 0xA80) (min 2 (cs0.extractLsb' 16 2).toNat)).filterMap regionOf).map fun r => (r, 0),
    launch := q.launch, marked := q.marked, stepped := q.stepped, mmode := q.mmode, cancelled := q.cancelled,
    seeking := q.seeking }

/-- Late faults of a context OUT in entry e that fall due join the backlog in its save area, and its CS0 counts them (R329, R330). -/
def Core.holdEntry (c : Core) (e now : Nat) : Core :=
  match find c.pool e with
  | none => c
  | some q =>
    let x := { c.readEntry e q with late := q.late }.holdDue now
    if x.late = q.late then c else
    let cs0 := c.word (poolAddr e 0x1F0)
    let counts : DWord := BitVec.ofNat 64 (2 ^ 24 * x.backlog.length + 2 ^ 32 * x.lost)
    (((c.onPool e fun q => { q with late := x.late }).putWords (saveArea e + 0xA90)
      (x.backlog.map fun r => [r.1, r.2]).flatten)).setWord (poolAddr e 0x1F0) (merge cs0 counts 0xFFFFFFFF7F000000)

/-! ## SWAP (R213, R240, R266, R332) -/

/-- A context's commands and copies, and its words in staging stores, bear another number (R217, R332). -/
def State.retag (s : State) (p old new : Nat) : State :=
  let f (k : Cmd) : Cmd := if k.ctx = old then { k with ctx := new } else k
  let t := s.onCore p fun c => { c with eflight := c.eflight.map f, mflight := c.mflight.map f }
  let g (o : Nat × Option Nat × Nat × Nat) : Nat × Option Nat × Nat × Nat :=
    if o.2.2 = (p, old) then (o.1, o.2.1, p, new) else o
  { t with copies := t.copies.map fun (k : Copy) => if k.core = p && k.ctx = old then { k with ctx := new } else k,
           quays := t.quays.map fun kq =>
             (kq.1, { kq.2 with staging := kq.2.staging.map fun (w : Staged) => { w with by_ := w.by_.map g } }) }
/-- A context that a SWAP takes issues no more (R263, R266): its state is noted, and its unstarted commands leave their queues. -/
def Core.freeze (c : Core) (j : SwapJob) : Core :=
  let x := c.ctx j.ctx
  let mine (k : Cmd) : Bool := k.ctx == j.ctx
  let cmds := sortBy (·.id) ((c.mq ++ c.eq ++ c.mwait ++ c.ewait).filter mine)
  let c1 := cmds.foldl (fun c k => c.releaseHazards k.id) c
  let rest (l : List Cmd) : List Cmd := l.filter fun k => !mine k
  { (c1.onCtx j.ctx fun x => { x with st := .stop }) with
    mq := rest c.mq, eq := rest c.eq, mwait := rest c.mwait, ewait := rest c.ewait,
    swapping := c.swapping.map fun k => if k.ctx = j.ctx then { k with was := some x.st, cmds := cmds } else k }
/-- The command parked at issue, or the FOOT that waits: its record (R330, R331). -/
def parkedRecord (parks : List Park) (cmds : List Cmd) : List DWord :=
  match firstOf (fun k => k.kind == .queueFull && k.ended == .waiting) parks with
  | none => List.replicate 7 0
  | some k =>
    match cmdOf cmds k.id with
    | some q => q.record
    | none => commandRecord false 0 0 k.words k.a k.b k.c []
/-- The state code that an entry records (R12, R36): PARK with nothing left to wait for is RUN. -/
def savedCode (was : CtxState) (parks : List Park) : Nat :=
  match was with
  | .stop => 3
  | .park => if parks.isEmpty then 1 else 2
  | _ => 1
/-- The entry is written and marked valid, and the slot holds no context (R266, R332, R333). -/
def State.swapOut (s : State) (p : Nat) (j : SwapJob) (was : CtxState) : State :=
  let n := j.ctx
  let c0 := s.core p
  -- What is left of an MSEQ between two of its steps is saved too (R213).
  let between := c0.mflight.filter fun k => k.ctx == n
  let cmds := sortBy (·.id) (j.cmds ++ between)
  let c1 := between.foldl (fun c k => c.releaseHazards k.id) { c0 with mflight := c0.mflight.filter fun k => k.ctx != n }
  let mine (w : Write) : Bool := w.dst.ofCtx == some n
  let c2 := c1.landAll s.free (sortBy landOrder (c1.writes.filter fun w => mine w && w.due.isSome))
  let owed := c2.writes.filter mine
  let x := ((c2.ctx n).exitWaits s.now).holdDue s.now
  let isParked (k : Cmd) : Bool := x.parks.any fun q => q.kind == .queueFull && q.id == k.id
  let copy : PoolCopy := ⟨n, x.turn, x.phaseCount, x.pend, x.vseqSel, x.vseqNext, x.ring, x.base, x.disp, x.tagOut, x.parks,
    x.relaxed, owed, x.late, cmds, x.launch, x.marked, false, x.hold, x.nextWritten, x.stepped, x.mmode, x.cancelled, x.seeking⟩
  let c3 := c2.writeEntry j.entry n (savedCode was x.parks) x x.parks (cmds.filter fun k => !isParked k)
    (parkedRecord x.parks cmds)
  let c4 := { c3 with pool := put c3.pool j.entry copy, writes := c3.writes.filter fun w => !mine w,
                      swapping := c3.swapping.filter fun k => k.ctx != n }
  let s1 := (s.setCore p (c4.setCtx n { Ctx.reset with st := .out })).retag p n (16 + j.entry)
  match j.wait with
  | some w => s1.endWait p 0 w (some (.word 1))
  | none => s1
/-- SWAP_COMPLETE (R266, R303, R333): the context issues no more, its started matrix command has completed, its relaxed local accesses are performed, and the save is done. -/
def execSwapComplete (core ctx : Nat) (s : State) : Out :=
  event (fun s =>
    match firstOf (fun j => j.ctx == ctx) (s.core core).swapping with
    | none => s
    | some j =>
      match j.was with
      | none => s
      | some was =>
        let busy := (s.core core).mflight.any fun k => k.ctx == ctx && k.started.isSome
        if decide (s.now < j.due) || busy then s else
        let t := s.onCore core fun c => c.performAllRelaxed s.now core ctx
        if (t.ctx core ctx).relaxed.any (fun r => r.held || (!r.remote && !r.performed)) then t else t.swapOut core j was) s

/-! ## RESUME (R267, R332) -/

/-- The waits of an entry as its parked-access record gives them (R330): the recorded one's turns and operands, and none where KIND is 0. -/
def Core.savedParks (c : Core) (e : Nat) (q : PoolCopy) : List Park :=
  let pa0 := c.word (poolAddr e 0x1D0)
  match q.parks.filter fun k => k.ended == .waiting with
  | [] => []
  | k :: t =>
    if pa0.extractLsb' 0 4 = 0 then [] else
    let k := { k with turns := (pa0.extractLsb' 32 32).toNat }
    (if k.kind.code ≤ 5 then { k with a := c.word (poolAddr e 0x1D8) }.setSecond (c.word (poolAddr e 0x1E0)) else k) :: t
/-- The commands of a save area, in record order: those in the list, then the one parked at issue. -/
def Core.savedCmds (c : Core) (e n : Nat) (q : PoolCopy) (parks : List Park) : List Cmd :=
  let parked := match firstOf (fun k => k.kind == .queueFull) parks with | some k => cmdOf q.cmds k.id | none => none
  let listed := q.cmds.filter fun k => some k != parked
  let at_ (a : Nat) (k : Cmd) : Cmd := k.restore n (c.getWords a 7)
  ((upTo listed.length).filterMap fun i => (nth listed i).map (at_ (saveArea e + 56 * i))) ++
    (parked.map (at_ (saveArea e + 0xF90))).toList
/-- The claims of a context as its entry's mask gives them; an accumulator that another context claims stays with it (R16, R36). -/
def Core.takeClaims (c : Core) (n mask : Nat) : Core :=
  let others := c.claims.filter fun p => p.2 != n
  let mine := (upTo 8).filter fun m => mask / 2 ^ m % 2 == 1 && !(others.any fun p => p.1 == m)
  { c with claims := others ++ mine.map fun m => (m, n) }
/-- Saved tide-locked commands that a re-tide refused (R288). -/
def State.refuseSaved (s : State) (p n : Nat) (cmds : List Cmd) : State :=
  cmds.foldl (fun s k =>
    let off := (Instr.start k.op).off
    if k.matrix then
      ((s.onCore p fun c => c.forgo k.id).mFlags p k k.flags (if k.step = 0 then s.now else k.until_)).lateFault p n
        ⟨.vm k.seq, causeWord 0x13 true 0 0x0A k.seq, (s.core p).stepTval k, s.now⟩
    else (s.engineDone p k).engineFault p k (if isTidal k.op then 0x1E else 0x0A) (off.setWidth 64)) s
/-- A saved Spindrift command of a core that does not own its shore's cove, after a migration to another shore (R242). -/
def State.coveLost (s : State) (p : Nat) (k : Cmd) : Bool := isSd k.op && (!isOrdinary p || s.coveOwner p != some p)
/-- Saved Spindrift commands that find no cove at RESUME end with 0x15, as late faults (R242; log 69). -/
def State.refuseCoves (s : State) (p : Nat) (cmds : List Cmd) : State :=
  cmds.foldl (fun s k => (s.engineDone p k).engineFault p k 0x15
    (BitVec.ofNat 64 ((if isOrdinary p then s.coveOwner p else none).getD 0xFFFF))) s
/-- A saved command comes back as though issued now: it waits for its queue, and its regions enter the hazard table when there is room (R332). -/
def Core.reenter (c : Core) (k : Cmd) : Core :=
  let k := { k with order := c.cmdOrder, reserved := 0, saved := true }
  let c := { c with cmdOrder := c.cmdOrder + 1 }
  (if k.matrix then { c with mwait := c.mwait ++ [k] } else { c with ewait := c.ewait ++ [k] }).tryEnter k
/-- The context of a valid entry is resident again; from the next core turn it has its recorded state (R267). -/
def State.resumeIn (s : State) (p e wait : Nat) (q : PoolCopy) : State :=
  let c := s.core p
  let (n, code) := c.entryWord e
  let parks := c.savedParks e q
  let gone := q.parks.filter fun k => !(parks.any fun j => j.id == k.id)
  let cmds := c.savedCmds e n q parks
  let (late, kept) := if q.retided then (cmds.filter Cmd.timed, cmds.filter fun k => !k.timed) else ([], cmds)
  let (lost, live) := (kept.filter (s.coveLost p), kept.filter fun k => !s.coveLost p k)
  let parks := parks.filter fun k => !((late ++ lost).any fun j => j.id == k.id)
  let x := { c.readEntry e q with parks := parks }
  let st : CtxState := if code = 3 then .stop else if code = 2 && !parks.isEmpty then .park else .run
  let c1 := c.setCtx n x
  let owed : List Write := (q.writes.filter fun w => !(gone.any fun k => k.id == w.id)).map fun w => { w with byCtx := n }
  let c2 : Core := { c1 with
    pool := del c1.pool e, resuming := c1.resuming.filter fun r => r.1 != e, writes := c1.writes ++ owed,
    changes := c1.changes ++ [.resume n st] }
  let s1 := (s.setCore p ((live.foldl Core.reenter c2).takeClaims n ((c.word (poolAddr e 8)).extractLsb' 16 8).toNat)).retag p (16 + e) n
  ((s1.refuseSaved p n late).refuseCoves p lost).endWait p 0 wait none
/-- RESUME_COMPLETE (R267, R332). -/
def execResumeComplete (core entry : Nat) (s : State) : Out :=
  event (fun s =>
    match firstOf (fun r => r.1 == entry) (s.core core).resuming, find (s.core core).pool entry with
    | some (e, w, due), some q => if s.now < due then s else s.resumeIn core e w q
    | _, _ => s) s

/-! ## MOVC (R285) -/

/-- The bytes of an entry and of the used part of its command save area: offset within the store, and bytes. -/
def Core.entryBytes (c : Core) (b : Nat) : List (Nat × List Byte) :=
  let cs0 := c.word (poolAddr b 0x1F0)
  let n := (cs0.extractLsb' 0 5).toNat + (cs0.extractLsb' 8 6).toNat
  [(0x1000000, memBytes c.ls (poolAddr b 0) 2048), (0, memBytes c.ls (saveArea b) (56 * n)),
    (0xA80, memBytes c.ls (saveArea b + 0xA80) (16 + 16 * (cs0.extractLsb' 24 7).toNat)),
    (0xF90, memBytes c.ls (saveArea b + 0xF90) 56)]
/-- They are written into another entry. -/
def Core.putEntry (c : Core) (e : Nat) (l : List (Nat × List Byte)) : Core :=
  l.foldl (fun c p =>
    { c with ls := memPutBytes c.ls (if p.1 = 0x1000000 then poolAddr e 0 else saveArea e + p.1) p.2 }) c
/-- The entry is copied, with the copy that the core keeps; the source entry is free (R285). -/
def State.moveEntry (s : State) (p b t e : Nat) (q : PoolCopy) : State :=
  let bytes := (s.core p).entryBytes b
  let mine (w : Write) : Bool := (q.parks.any fun k => k.id == w.id) || (q.relaxed.any fun r => r.id == w.id)
  let shared := (s.core p).writes.filter fun w => w.due.isNone && mine w
  let s1 := s.onCore p fun c => { c with pool := del c.pool b }
  let s2 := s1.onCore t fun c => { (c.putEntry e bytes) with pool := put c.pool e q }
  if t = p then s2.retag p (16 + b) (16 + e) else
  let s3 := s2.onCore p fun c => { c with writes := c.writes.filter fun w => !(w.due.isNone && mine w) }
  (s3.onCore t fun c => { c with writes := c.writes ++ shared }).retag p (16 + b) (32 + q.ctx)
/-- MOVC_COMPLETE (R285): the target entry is written and marked valid; one already valid refuses the copy with a late 0x08. -/
def execMovcComplete (core cmd : Nat) (s : State) : Out :=
  event (fun s =>
    match (s.core core).flight cmd with
    | none => s
    | some k =>
      match k.op with
      | .movc _ _ _ _ =>
        if s.now < k.until_ then s else
        let b := k.b.toNat % 4
        let e := k.c.toNat % 4
        let t := k.a.toNat
        match find (s.core core).pool b with
        | some q =>
          if (s.core t).entryFree e then (s.moveEntry core b t e q).engineDone core k
          else (s.engineDone core k).engineFault core k 0x08 k.a
        | none => (s.engineDone core k).engineFault core k 0x08 k.a
      | _ => s) s

/-! ## MIGR (R284, R334) -/

/-- A core in no launch: ordinary, and neither holding a launch nor given to one. -/
def State.spare (s : State) (a : DWord) : Bool :=
  let q := a.toNat
  decide (q < 65536) && physValid q && isOrdinary q && (s.core q).launches.isEmpty &&
    !(s.hub.launches.any fun l => q ∈ l.grantedCores)
/-- The contexts that MIGR.arm marks: workers in RUN, PARK, STOP or OUT. -/
def Core.toMark (c : Core) : List Nat :=
  (upFrom 1 15).filter fun n => match (c.ctx n).st with | .run | .park | .stop | .out => true | _ => false
/-- PEND of every valid entry set or cleared, in its copy and in its PHASE word. -/
def Core.poolPend (c : Core) (b : Bool) : Core :=
  let c1 := { c with pool := c.pool.map fun kq => (kq.1, { kq.2 with pend := b, marked := b }) }
  (keys c1.pool).foldl (fun c e =>
    let w := c.word (poolAddr e 0x160)
    c.setWord (poolAddr e 0x160) (if b then w ||| bitAt 63 else w &&& ~~~bitAt 63)) c1
/-- MIGR.arm (R284). -/
def execMigrArm (d a : SReg) (s : State) : Out :=
  operation (.migrArm d a) (fun s => badValue (!s.spare (s.rx a)) (s.rx a) none) (fun s =>
    let ns := s.here.toMark
    let mask := ns.foldl (fun m n => m ||| bitAt n) 0
    let t := s.onHere fun c =>
      let c1 := c.mapCtxs fun n x => if n ∈ ns && x.st != .out then { x with pend := true, marked := true } else x
      { (c1.poolPend true) with migration := some ⟨(s.rx a).toNat, false, none⟩ }
    t.wx d mask 1) s
/-- MIGR.freeze (R284). -/
def execMigrFreeze (s : State) : Out :=
  operation .migrFreeze noCheck (fun s => (s.onHere fun c =>
    { c with migration := match c.migration with
        | some m => some { m with frozen := true }
        | none => some ⟨65536, true, none⟩ }).refuseHeld s.frame.core) s
/-- A started copy into a core's own local store, named in either form, which does not hold up the commit (R284). -/
def State.copiesIn (s : State) (p : Nat) (k : Cmd) : Bool :=
  match k.op with
  | .cpyi _ _ _ _ _ | .cpyl _ _ _ _ =>
    let (d, _) := copySides k.op k.a k.b k.c
    (!isRemote d.1 || (s.core p).targetOf k.launch d.1 == some p) && (s.copies.any (·.id == k.id))
  | _ => false
/-- MIGR.commit may succeed (R284). -/
def State.mayCommit (s : State) (p : Nat) (a : DWord) : Bool :=
  let c := s.core p
  ((upFrom 1 15).all fun n => match (c.ctx n).st with | .free | .halt | .out => true | _ => false) && s.spare a &&
  c.mq.isEmpty && c.mwait.isEmpty && c.mflight.isEmpty && c.eq.isEmpty && c.ewait.isEmpty && c.swapping.isEmpty &&
  c.eflight.all fun k => s.copiesIn p k
/-- A core's number replaced in a list of cores. -/
def renumber (p q : Nat) (l : List Nat) : List Nat := l.map fun k => if k = p then q else k
/-- The launch with a core's place taken by another (R284, R368). -/
def Launch.renumber (l : Launch) (p q : Nat) : Launch :=
  let key (m : List (Nat × Nat)) : List (Nat × Nat) := m.map fun e => (if e.1 = p then q else e.1, e.2)
  { l with reach := Machine.renumber p q l.reach, loads := key l.loads, tables := key l.tables,
           notices := key l.notices, coves := Machine.renumber p q l.coves,
           grantedCores := Machine.renumber p q l.grantedCores }
/-- Cove ownership after a migration (R242): it moves within a shore, and ends across shores. -/
def State.moveCove (s : State) (p q : Nat) : State :=
  match (s.cove (shoreKey p)).owner with
  | some (o, l) =>
    if o = p then s.onCove (shoreKey p) fun v => { v with owner := if shoreKey p = shoreKey q then some (q, l) else none } else s
  | none => s
/-- The work of core p is core q's (R284): the reach names q, q owns the banks, requests are forwarded, and words held for p are q's. -/
def State.commit (s : State) (p q : Nat) : State :=
  let c := s.core p
  let due := s.now + 1 + s.anyBelow 8500 4096
  let s1 := s.mapCores fun _ c => { c with launches := c.launches.map fun (l : CoreLaunch) => { l with map := Machine.renumber p q l.map } }
  -- The class and a failure are the old core's (R432).
  let ls := (s1.core p).launches.map fun (l : CoreLaunch) => { l with cls := (s1.core q).degraded, failure := none }
  let s2 := s1.onCore q fun k => { k with
    launches := ls, period := c.period, tideBase := c.tideBase, lastTenant := c.lastTenant, emonef := c.emonef, forward := none, logLaunch := c.logLaunch }
  let watched := c.watches.map fun w =>
    { (w.pkt.depart s.now p q) with dst := q, accepted := none, waited := 0 }
  let s3 := s2.onCore p fun k => { k with
    launches := [], forward := some q, watches := [],
    migration := some ⟨q, false, some (c.logicalOf 0, due)⟩ }
  let s4 : State := { s3 with
    hub := { s3.hub with launches := s3.hub.launches.map fun l => l.renumber p q },
    packets := (s3.packets.map fun (k : Packet) => if k.dst = p && k.accepted.isSome then { (k.depart s.now p q) with dst := q, accepted := none } else k) ++ watched,
    copies := s3.copies.map fun (k : Copy) =>
      let isCode : Bool := match k.op with | .codel _ _ _ => true | _ => false
      if isCode then k else { k with
        moves := k.moves.map fun m => if m.core = p then { m with core := q } else m
        reads := k.reads.map fun m => if m.core = p then { m with core := q } else m } }
  let s5 := (upTo 16).foldl (fun s n => s.retag p n (32 + n)) s4
  let s6 := (c.pool).foldl (fun s kq => s.retag p (16 + kq.1) (32 + kq.2.ctx)) s5
  s6.moveCove p q
/-- MIGR.commit (R284). -/
def execMigrCommit (d a : SReg) (s : State) : Out :=
  operation (.migrCommit d a) noCheck (fun s =>
    let p := s.frame.core
    if s.mayCommit p (s.rx a) then (s.wx d 1 1).commit p (s.rx a).toNat else s.wx d 0 1) s
/-- A migration given up (R284): held words are released, and every PEND is cleared. -/
def Core.migrAbort (c : Core) : Core :=
  let c1 := c.mapCtxs fun _ x => { x with pend := false, marked := false, deferred := none }
  let done_ : Bool := match c.migration with | some m => m.committed.isSome | none => false
  { (c1.poolPend false) with migration := if done_ then c.migration else none }
/-- MIGR.abort (R284). -/
def execMigrAbort (s : State) : Out :=
  operation .migrAbort noCheck (fun s => s.onHere Core.migrAbort) s
/-- The locked latency of each link (R395). -/
def Hub.latWord (h : Hub) (ks : List Nat) : DWord :=
  (upTo ks.length).foldl (fun v i => v ||| (BitVec.ofNat 64 (h.linkLat (nthD 0 ks i)) <<< (12 * i))) 0
/-- CLASS of a launch on one of its cores (R408). -/
def State.classAt (s : State) (p : Nat) (l : Launch) : Bool :=
  match firstOf (fun (k : CoreLaunch) => k.id == l.id) (s.core p).launches with
  | some k => k.cls
  | none => false
/-- A descriptor for mailbox 127 of core p (R395). -/
def State.descriptorFor (s : State) (kind p : Nat) (l : Launch) (w20 : DWord) : List Byte :=
  let d := dieOf p
  let w0 := BitVec.ofNat 64 (kind + 2 ^ 8 * (l.period - 1) + 2 ^ 16 * (if l.mode then 1 else 0) + 2 ^ 17 * (if s.classAt p l then 1 else 0)) |||
    (l.id.setWidth 64 <<< 32)
  let ws : List DWord := [w0, l.base, BitVec.ofNat 64 ((find l.loads p).getD 0), BitVec.ofNat 64 ((find l.tables p).getD 0), w20,
    s.hub.latWord [0, 1, 2, 3], s.hub.latWord [4 + 4 * d, 5 + 4 * d, 6 + 4 * d, 7 + 4 * d], 0]
  (ws.map fun w => bytesOf 8 w.toNat).flatten
/-- TVAL of a wake by the hub for mailbox 127 (R229, R335). -/
def hubWake : DWord := wakeTval 127 0xFFFF 0
/-- The descriptor that mailbox 127 of a core delivers next (R395). -/
def Core.descriptor (c : Core) : List Byte :=
  match firstOf (fun m : Msg => m.mb == 127) c.msgs with
  | some m => m.data
  | none => []
/-- A descriptor as a message in mailbox 127, with its wake: an ERCV of C0 receives it (R230, R334, R395). -/
def Core.takeDescriptor (c : Core) (bytes : List Byte) : Core :=
  { c with msgs := c.msgs ++ [⟨127, 0xFFFF, 0, bytes⟩], pending := { c.pending with wakes := c.pending.wakes ++ [hubWake] } }
/-- A descriptor placed in mailbox 127 of a core, with its wake and its log entry (R307, R334, R335). -/
def State.giveDescriptor (s : State) (p : Nat) (bytes : List Byte) : State :=
  (s.onCore p fun c => c.takeDescriptor bytes).logReceive p 0x0A 0 hubId 0 127 0 64 bytes (some .descriptor)
/-- MIGRATION_STATE_COPY (R334): the hub copies the shared registers, the claimed accumulators, rings, deque, spill chain and ready queue to the target, and wakes its C0 with the migration descriptor. -/
def execMigrationStateCopy (core : Nat) (s : State) : Out :=
  event (fun s =>
    let c := s.core core
    match c.migration with
    | some ⟨q, _, some (logical, due)⟩ =>
      if s.now < due then s else
      let claimed := (c.claims.map (·.1)).eraseDups
      let s1 := s.onCore q fun t =>
        { t with ks := c.ks, ws := c.ws, claims := c.claims,
                 accs := claimed.foldl (fun a m => put a m (look [] c.accs m)) t.accs,
                 rings := c.rings, ringTold := c.ringTold, deque := c.deque, chain := c.chain, zeroSpilled := c.zeroSpilled, ready := c.ready }
      let s2 := s1.onCore core fun c => { c with migration := none }
      match s2.launch ((s2.core q).launchId 0) with
      | some l => s2.giveDescriptor q (s2.descriptorFor 2 q l (BitVec.ofNat 64 (core + 65536 * logical.toNat)))
      | none => s2
    | _ => s) s

/-! ## Traps at a context's turn (R280, R281, R327 to R329) -/

/-- WORKER_TRAP_TAKEN (R280, R329): at its issue turn a worker takes the first of its candidates. -/
def execWorkerTrapTaken (core ctx : Nat) (s : State) : Out :=
  event (fun s =>
    let x := s.ctx core ctx
    if ctx = 0 || x.st ≠ .run then s else
    match x.pickTrap s.now with
    | none => s
    | some (epc, cause, tval, y) => (s.onCtx core ctx fun _ => y).takeTrap core ctx (epc.getD x.next) cause tval) s
/-- C0_TRAP_ENTRY (R281). -/
def execC0TrapEntry (core : Nat) (s : State) : Out :=
  event (fun s => if (s.core core).c0Ready then s.onCore core Core.c0Entry else s) s
/-- C0_TRAP_TO_LIGHTHOUSE (R327): a trap of C0's own work that has become known is taken at its issue turn. -/
def execC0TrapToLighthouse (core : Nat) (s : State) : Out :=
  event (fun s =>
    let x := s.ctx core 0
    if x.st ≠ .run then s else
    match x.pickTrap s.now with
    | none => s
    | some (epc, cause, tval, y) => (s.onCtx core 0 fun _ => y).c0Trap core (epc.getD x.next) cause tval) s
/-- TIMER at the end of a core turn, where its count does not reach zero (R23, R441). -/
def Core.tickTimer (c : Core) : Core :=
  if c.timer.getLsbD 63 && c.timer.extractLsb' 0 32 != 0 then { c with timer := c.timer - 1 } else c
/-- The count of TIMER reaches zero at the end of this turn. -/
def Core.timerEnds (c : Core) : Bool := c.timer.getLsbD 63 && c.timer.extractLsb' 0 32 == 1
/-- C0_TIMER_EXPIRY (R23, R441): COUNT reaches zero, FIRED is set, EN cleared, and the trap is pending. -/
def execC0TimerExpiry (core : Nat) (s : State) : Out :=
  event (fun s =>
    if (s.core core).timerEnds then
      s.onCore core fun c => { c with timer := 0x4000000000000000, pending := { c.pending with timer := true } }
    else s) s
/-- UNCORRECTABLE_LS_ERROR (R33, R328): a word turns out to hold a double-bit error, and the context whose L-slot access meets it, if one does, stops under M-mode control. -/
def execUncorrectableLsError (core ctx addr : Nat) (s : State) : Out :=
  event (fun s =>
    let w := addr % 2 ^ 19 / 8 * 8
    let t := s.onCore core fun c => { c with poison := w :: c.poison.filter (· != w) }
    let x := s.ctx core ctx
    match x.st with
    | .run => t.takeTrap core ctx x.next (causeOf 0x1D) (BitVec.ofNat 64 w)
    | .park =>
      match firstOf (fun k => k.kind == .retry && k.ended == .waiting) x.parks with
      | some k =>
        let u := (t.onCtx core ctx fun x => { x with parks := x.parks.filter fun q => q.id != k.id }).onCore core fun c => c.forgo k.id
        u.takeTrap core ctx k.addr (causeOf 0x1D) (BitVec.ofNat 64 w)
      | none => t
    | _ => t) s

end Sys2Proof.Machine
end

