-- ==== Sys2Proof/Machine/Hub.lean ====
section
/-! DEFINITION. The hub: its own accesses to Cliffstack, the queue table, notifies and peers, every packet but LAUNCH, reset and destruction, and the Ebb wheel's entries (spec/17_lighthouse_and_harbour_queues.md R386 to R403; spec/16_tidal_eddy_and_swell_fabric.md R374). -/
namespace Sys2Proof.Machine

/-- The state with its hub changed. -/
def State.onHub (s : State) (f : Hub → Hub) : State := { s with hub := f s.hub }
/-- A watch is active (R377). -/
def State.active (s : State) : Bool := s.hub.watches.any fun kw => kw.2.active

/-! ## The hub's reads and writes of the data space (R346, R351 to R353) -/

/-- The leaf that a walk from a table finds, with the size of its page: levels are taken from the highest of `n` down. -/
def State.hubLeaf (s : State) (instr : Bool) (va : Nat) : Nat → Nat → Option (DWord × Nat)
  | 0, _ => none
  | n + 1, table =>
    let (lo, w) := levelShape n
    let a := table + 8 * (va / 2 ^ lo % 2 ^ w)
    if s.badCode a then none else
    match readEntry instr n (s.stackWord a) with
    | .bad _ => none
    | .leaf e => some (e, lo)
    | .next t => s.hubLeaf instr va n t
/-- The physical address of a data-space address for a read or a write of the hub. -/
def State.hubPa (s : State) (root : Nat) (write : Bool) (va : Nat) : Option Nat :=
  if 2 ^ 47 ≤ va then none else
  match s.hubLeaf false va 7 root with
  | some (e, lo) => if e.getLsbD (if write then 3 else 2) then some (leafAddr e + va % 2 ^ lo) else none
  | none => none
/-- Some codeword of a range of the stack has an uncorrectable error. -/
def State.badRange (s : State) (pa n : Nat) : Bool := s.cliffBad.any fun k => decide (pa < 32 * (k + 1) && 32 * k < pa + n)
/-- n bytes from a data-space address, page by page: error 1 for a fault of translation or permission, 2 for an uncorrectable error (R399). -/
def State.hubPages (s : State) (root : Nat) : Nat → Nat → Nat → Except Nat (List Byte)
  | 0, _, _ => .ok []
  | fuel + 1, va, n =>
    if n = 0 then .ok [] else
    match s.hubPa root false va with
    | none => .error 1
    | some pa =>
      let m := min n (4096 - va % 4096)
      if s.badRange pa m then .error 2 else
      match s.hubPages root fuel (va + m) (n - m) with
      | .ok t => .ok (memBytes s.cliff pa m ++ t)
      | .error e => .error e
/-- n bytes from a data-space address. -/
def State.hubRead (s : State) (root : DWord) (va n : Nat) : Except Nat (List Byte) :=
  s.hubPages root.toNat (n / 4096 + 2) va n
/-- The 64-bit words of bytes, of which there are n. -/
def dwords (n : Nat) (bs : List Byte) : List DWord :=
  match n with
  | 0 => []
  | n + 1 => BitVec.ofNat 64 (natOf (bs.take 8)) :: dwords n (bs.drop 8)
/-- A signal word read; none for a fault. -/
def State.hubWord (s : State) (root : DWord) (va : DWord) : Option DWord :=
  if va.toNat % 8 ≠ 0 then none else
  match s.hubRead root va.toNat 8 with
  | .ok bs => some (wordAt bs 0)
  | .error _ => none
/-- The entries that a walk reads, from the highest of `n` levels down. -/
def State.walkEntries (s : State) (instr : Bool) (va : Nat) : Nat → Nat → List Nat
  | 0, _ => []
  | n + 1, table =>
    let (lo, w) := levelShape n
    let a := table + 8 * (va / 2 ^ lo % 2 ^ w)
    a :: match readEntry instr n (s.stackWord a) with
      | .next t => s.walkEntries instr va n t
      | _ => []
/-- The bursts of an access to n bytes from a data-space address, page by page: those of the walks and those of the bytes (R346, R348). -/
def State.pageBursts (s : State) (instr : Bool) (root : Nat) : Nat → Nat → Nat → List Nat
  | 0, _, _ => []
  | fuel + 1, va, n =>
    if n = 0 then [] else
    let m := min n (4096 - va % 4096)
    s.walkEntries instr va 7 root ++
      match s.hubLeaf instr va 7 root with
      | some (e, lo) => burstsAt (leafAddr e + va % 2 ^ lo) m ++ s.pageBursts instr root fuel (va + m) (n - m)
      | none => []
/-- The bursts of an access to n bytes of the data space. -/
def State.hubBursts (s : State) (root : DWord) (va n : Nat) : List Nat := s.pageBursts false root.toNat (n / 4096 + 2) va n
/-- A signal or completion word written with one 8-byte write at the channel; none for a fault. -/
def State.hubPut (s : State) (root va v : DWord) : Option State :=
  if va.toNat % 8 ≠ 0 then none else (s.hubPa root.toNat true va.toNat).map fun pa => (s.setStackWord pa v).oweBursts 0 (s.hubBursts root va.toNat 8)

/-! ## Queues (R389, R390, R399) -/

/-- A queue-table entry. -/
def State.queue (s : State) (q : Nat) : Queue := look Queue.reset s.hub.queues q
/-- A queue-table entry changed. -/
def State.onQueue (s : State) (q : Nat) (f : Queue → Queue) : State :=
  s.onHub fun h => { h with queues := put h.queues q (f (s.queue q)) }
/-- Slots of a ring (R390). -/
def Queue.slots (k : Queue) : Nat := if k.log2n = 0 then 65536 else 2 ^ k.log2n.toNat
/-- A queue error (R399): STATE 2, except during a reset, with ERR, and bit 2 of gqirq and sgqirq. -/
def State.queueFail (s : State) (q : Nat) (e : BitVec 8) : State :=
  (s.onQueue q fun k => { k with err := e, state := if k.state = 1 then 2 else k.state }).onHub fun h => h.raise 4 4
/-- The word of a packet that does not succeed (R391). -/
def statusWord (n : Nat) : DWord := BitVec.ofNat 64 (2 ^ 63 + n)
/-- A packet completes: it is no longer open, and its completion word, if it names one, is written (R391, R399). -/
def State.finishPacket (s : State) (q : Nat) (key : Option Word × Option Nat) (caddr v : DWord) : State :=
  let t := s.onQueue q fun k => { k with open_ := k.open_.erase key }
  if caddr = 0 then t else
  match t.hubPut (t.queue q).droot caddr v with
  | some u => u
  | none => t.queueFail q 4

/-! ## Packets (R391 to R393) -/

/-- A packet whose words break R391 or R392; `ring` for one in the ring, whose MISSED is zero. -/
def packetBad (ring : Bool) (w : List DWord) : Bool :=
  let g (i : Nat) : DWord := nthD 0 w i
  (g 0).extractLsb' 9 23 != 0 || (ring && (g 0).extractLsb' 32 32 != 0) ||
  match ((g 0).extractLsb' 0 8).toNat with
  | 1 => (g 1).toNat % 64 != 0 || g 2 != 0 || g 3 != 0 || g 4 != 0 || g 5 != 0
  | 2 => false
  | 3 => (g 3).toNat > 2 || g 4 != 0 || g 5 != 0
  | 4 => (g 1).extractLsb' 12 4 != 0 || (g 1).extractLsb' 17 47 != 0 || g 5 != 0
  | 5 => (g 1).extractLsb' 10 54 != 0 || g 2 != 0 || g 3 != 0 || g 4 != 0 || g 5 != 0
  | _ => true
/-- TYPE. -/
def packetType (w : List DWord) : Nat := ((nthD 0 w 0).extractLsb' 0 8).toNat
/-- The packet at RDIDX (R390). -/
def State.nextPacket (s : State) (q : Nat) : Except Nat (List DWord) :=
  let k := s.queue q
  match s.hubRead k.droot (k.ring.toNat + 64 * (k.rdidx.toNat % k.slots)) 64 with
  | .ok bs => .ok (dwords 8 bs)
  | .error e => .error e
/-- What a queue may do next. -/
inductive QueueAct | launch | barrierAnd | signal | arm | disarm | resetq | error (e : BitVec 8)
  deriving DecidableEq, Repr
/-- What a queue does next, if it is enabled, has a posted packet, a watch is active and bring-up has started the supervisor (R390, R393, R399, R434): the start of the packet at RDIDX, or an error; nothing while the packet's BAR waits. -/
def State.queueAct (s : State) (q : Nat) : Option QueueAct :=
  let k := s.queue q
  if k.state != 1 || k.rdidx == k.wridx || !s.active || !s.hub.supervised then none else
  match s.nextPacket q with
  | .error e => some (.error (BitVec.ofNat 8 e))
  | .ok w =>
    if packetBad true w then some (.error 3)
    else if (nthD 0 w 0).getLsbD 8 && k.open_.any (·.1.isSome) then none else
    match packetType w with
    | 1 =>
      match s.hubRead k.droot (nthD 0 w 1).toNat 256 with
      | .ok _ => some .launch
      | .error e => some (.error (BitVec.ofNat 8 e))
    | 2 => some .barrierAnd
    | 3 => some .signal
    | 4 => some (if (nthD 0 w 1).getLsbD 16 then .disarm else .arm)
    | _ => some .resetq
/-- An error that holds up a queue's next packet, or one raised from outside the list (R399). -/
def execQueueError (q : Nat) (err : BitVec 8) (s : State) : Out :=
  event (fun s => if s.queueAct q = some (.error err) then s.queueFail q err else s) s
/-- The packet at RDIDX starts (R393): RDIDX passes it, and it is open. `start` gets its index and its words. -/
def State.startPacket (s : State) (q : Nat) (i : QueueAct) (start : State → Word → List DWord → State) : State :=
  if s.queueAct q ≠ some i then s else
  match s.nextPacket q with
  | .error _ => s
  | .ok w =>
    let n := (s.queue q).rdidx
    start (s.onQueue q fun k => { k with rdidx := n + 1, open_ := k.open_ ++ [(some n, none)] }) n w
/-- CADDR and CVAL of a packet. -/
def caddrOf (w : List DWord) : DWord := nthD 0 w 6
/-- CVAL. -/
def cvalOf (w : List DWord) : DWord := nthD 0 w 7
/-- How the words of a BARRIER-AND stand (R392): a status, 0 for success, or none while it waits. -/
def State.barrierTest (s : State) (root : DWord) : List Nat → Option Nat
  | [] => some 0
  | a :: t =>
    match s.hubWord root (BitVec.ofNat 64 a) with
    | none => some 3
    | some v =>
      if v.getLsbD 63 then some 4 else
      match s.barrierTest root t with
      | some 0 => if v = 0 then none else some 0
      | r => r
/-- A BARRIER-AND is tested: it completes, or waits. -/
def State.tryBarrier (s : State) (b : BarAnd) : State :=
  match s.barrierTest (s.queue b.queue).droot b.words with
  | none => s.onHub fun h => { h with barAnds := h.barAnds ++ [b] }
  | some n => s.finishPacket b.queue (b.index, none) (BitVec.ofNat 64 b.caddr) (if n = 0 then b.cval else statusWord n)
/-- BARRIER_AND (R392). -/
def execBarrierAnd (q : Nat) (s : State) : Out :=
  event (fun s => s.startPacket q .barrierAnd fun s n w =>
    s.tryBarrier ⟨q, some n, ((w.drop 1).take 5).filterMap (fun a => if a = 0 then none else some a.toNat), (caddrOf w).toNat, cvalOf w⟩) s
/-- BARRIER_AND_RECHECK (R392, R407): the words of waiting packets are read again; paused without an active watch. -/
def execBarrierAndRecheck (s : State) : Out :=
  event (fun s =>
    if !s.active then s else
    let bs := s.hub.barAnds
    bs.foldl (fun s b => s.tryBarrier b) (s.onHub fun h => { h with barAnds := [] })) s
/-- A SIGNAL is performed and completes (R392). -/
def State.hubSignal (s : State) (q : Nat) (key : Option Word × Option Nat) (w : List DWord) : State :=
  let root := (s.queue q).droot
  let a := nthD 0 w 1
  let op := (SigOp.ofCode (nthD 0 w 3).toNat).getD .set
  match s.hubWord root a with
  | none => s.finishPacket q key (caddrOf w) (statusWord 3)
  | some v =>
    match s.hubPut root a (signalVal op v (nthD 0 w 2)) with
    | none => s.finishPacket q key (caddrOf w) (statusWord 3)
    | some t => t.finishPacket q key (caddrOf w) (cvalOf w)
/-- SIGNAL_PACKET (R392). -/
def execSignalPacket (q : Nat) (s : State) : Out :=
  event (fun s => s.startPacket q .signal fun s n w => s.hubSignal q (some n, none) w) s
/-- An ARM that R403 admits. -/
def State.armOk (s : State) (q e : Nat) (period rpkt : DWord) : Bool :=
  (match find s.hub.wheel e with | some x => x.owner.toNat == q | none => true) &&
  period.toNat % 1024 == 0 && rpkt.toNat % 64 == 0
/-- The entry that an ARM packet names. -/
def armEntry (w : List DWord) : Nat := ((nthD 0 w 1).extractLsb' 0 12).toNat
/-- ARM_PACKET (R403). -/
def execArmPacket (q : Nat) (s : State) : Out :=
  event (fun s => s.startPacket q .arm fun s n w =>
    let e := armEntry w
    if s.armOk q e (nthD 0 w 3) (nthD 0 w 4) then
      (s.onHub fun h => { h with wheel := put h.wheel e ⟨BitVec.ofNat 10 q, true, false, nthD 0 w 2, nthD 0 w 3, nthD 0 w 4, none⟩ }).finishPacket
        q (some n, none) (caddrOf w) (cvalOf w)
    else s.finishPacket q (some n, none) (caddrOf w) (statusWord 3)) s
/-- DISARM_PACKET (R403): an entry that the queue owns is freed. -/
def execDisarmPacket (q : Nat) (s : State) : Out :=
  event (fun s => s.startPacket q .disarm fun s n w =>
    match find s.hub.wheel (armEntry w) with
    | some x =>
      if x.owner.toNat = q then
        (s.onHub fun h => { h with wheel := del h.wheel (armEntry w) }).finishPacket q (some n, none) (caddrOf w) (cvalOf w)
      else s.finishPacket q (some n, none) (caddrOf w) (statusWord 3)
    | none => s.finishPacket q (some n, none) (caddrOf w) (statusWord 3)) s

/-! ## The end of a launch's hold on a core (R314, R319, R400) -/

/-- A context of a launch that ends: FREE, its registers discarded. -/
def Ctx.freed (x : Ctx) : Ctx := { Ctx.reset with base := x.base }
/-- A fresh start of a worker of a launch that is still to take effect. -/
def Change.startOf (g : Change) (id : Nat) : Bool :=
  match g with
  | .start _ _ _ _ _ _ _ _ fresh l => fresh && l == some id
  | _ => false
/-- The launch's workers on the core are FREE, and its entries, writes and pending traps are gone (R319 step 1, R400 step 3). -/
def Core.freeWorkers (c : Core) (id : Nat) : Core :=
  let workers := (c.ctxs.filter fun kx => kx.1 != 0 && kx.2.launch == some id).map (·.1)
  let stale (w : Write) : Bool := match w.dst.ofCtx with | some n => n ∈ workers | none => false
  { c with
    ctxs := c.ctxs.map fun kx => if kx.1 ∈ workers then (kx.1, kx.2.freed) else kx
    pool := c.pool.filter fun kq => kq.2.launch != some id
    writes := c.writes.filter fun w => !stale w && !(w.due.isNone && w.byCtx ∈ workers)
    turnOps := c.turnOps.filter fun o => !(o.ctx ∈ workers)
    changes := c.changes.filter fun g => !(g.startOf id) && match g with
      | .start n _ _ _ _ _ _ _ _ _ | .stop n | .rett n | .resume n _ => !(n ∈ workers)
    pending := { c.pending with workers := c.pending.workers.filter fun w => !(w.1 ∈ workers) } }
/-- The launch's claims end, its banks pass to the other launch's hand-over mask, and the rest are released (R314, R319 step 3, R400 step 3). Messages that an Emonef program left in the translator's mailboxes go with it (R420, R422; log 27). -/
def Core.endHolds (c : Core) (id : Nat) : Core :=
  let gone := c.launches.filter fun l => l.id.toNat == id
  let own := gone.foldl (fun (m : Half) l => m ||| l.own) 0
  let named := gone.foldl (fun (m : Half) l => m ||| l.workers) 0
  let pass (l : CoreLaunch) : CoreLaunch := { l with own := l.own ||| (own &&& l.handover) }
  let kept := (c.launches.filter fun l => l.id.toNat != id).map pass
  let c1 : Core := { c with
    claims := c.claims.filter fun k => !(named.getLsbD k.2) && !(gone.any fun l => l.accs.contains k)
    launches := kept
    emonef := if kept.isEmpty then false else c.emonef
    msgs := if c.emonef && kept.isEmpty then c.msgs.filter fun m => !(decide (64 ≤ m.mb) && decide (m.mb < 127)) else c.msgs
    latch := none }
  { c1 with launches := grantFree none c1.freeBanks c1.bankWants c1.launches }
/-- The launch leaves the core. -/
def Core.releaseLaunch (c : Core) (id : Nat) : Core := (c.freeWorkers id).endHolds id
/-- Packets of a launch, at whichever end they stand, except those of C0's own waits where C0 does not run the launch's image (R440). -/
def Packet.ofLaunch (k : Packet) (id : Nat) (c0 : Bool) : Bool := k.launch == some id && (c0 || k.sctx % 16 != 0)
/-- The launch's packets are discarded where they stand (R319, R400). -/
def State.dropTraffic (s : State) (id : Nat) (c0 : Bool) : State :=
  let t := s.mapCores fun _ c => { c with watches := c.watches.filter fun w => !(w.pkt.ofLaunch id c0) }
  { t with packets := t.packets.filter fun k => !(k.ofLaunch id c0),
           barriers := t.barriers.map fun kb => (kb.1, { kb.2 with waiters := kb.2.waiters.filter fun w => !(w.1.ofLaunch id c0) }) }
/-- The log and the trace rings of every core that holds a launch's are drained while the launch has a replay buffer (R334, R337); what comes later is the next launch's. -/
def State.closeLogs (s : State) (id : Nat) : State :=
  ((s.cores.filter fun kc => kc.2.logLaunch == some id).map (·.1)).foldl (fun s p => (s.drainLog p).onCore p fun c =>
    { c with logLaunch := ((c.launches.filter fun l => l.id.toNat != id).head?).map (·.id.toNat) }) s
/-- The launch ends everywhere: workers, claims, coves, banks, channels of its program (R319 step 3, R400 step 3). -/
def State.releaseLaunch (s : State) (l : Launch) : State :=
  let id := l.id.toNat
  let s1 := l.grantedCores.foldl (fun s p => s.onCore p fun c => c.releaseLaunch id) ((s.closeLogs id).dropTraffic id (l.stage == .cancelled && l.c0entry.isSome))
  let free (v : Cove) : Cove := match v.owner with
    | some (_, o) => if o = id then { v with owner := none } else v
    | none => v
  { s1 with coves := s1.coves.map fun kv => (kv.1, free kv.2),
            emSent := s1.emSent.filter fun kv => kv.1 / 256 != id, emDecls := s1.emDecls.filter fun kv => kv.1 / 256 != id,
            hub := { s1.hub with
              launches := s1.hub.launches.filter fun k => k.id != l.id
              wheel := s1.hub.wheel.map fun ke => if ke.2.released = some id then (ke.1, { ke.2 with busy := false, released := none }) else ke } }
/-- A staging store holds a word of the launch: a drain point waits for its write-back in the order of entry (R319, R345). -/
def State.stagedFor (s : State) (id : Nat) : Bool := s.quays.any fun kq => kq.2.staging.any fun w => w.by_.any fun o => o.2.1 == some id

/-! ## Reset (R400 to R402) -/

/-- A Spindrift command, which finishes once started. -/
def Cmd.stays (k : Cmd) : Bool := isSd k.op
/-- Step 2 of a reset at one core (R400). -/
def State.cancelCore (s : State) (l : Launch) (p : Nat) : State :=
  let id := l.id.toNat
  let c := s.core p
  let mine (k : Cmd) : Bool := k.launch == some id
  let halt (n : Nat) (x : Ctx) : Ctx := if n ≠ 0 && x.launch == some id then { x with cancelled := true } else x
  -- The tasks in the deque are those of the launch that runs here.
  let alone := !(c.launches.any fun k => k.id != l.id && s.hub.launches.any fun j => j.id == k.id && j.stage == .running)
  let s1 := s.onCore p fun c =>
    let c1 := ((c.mq ++ c.mwait).filter mine).foldl (fun c k => c.releaseHazards k.id) c
    let c2 := c1.mapCtxs halt
    { c2 with mq := c2.mq.filter fun k => !mine k, mwait := c2.mwait.filter fun k => !mine k,
              swapping := c2.swapping.map fun (j : SwapJob) => { j with cmds := j.cmds.filter fun k => !mine k },
              pool := c2.pool.map fun kq => if kq.2.launch = some id then (kq.1, { kq.2 with cmds := [], cancelled := true }) else kq,
              changes := c2.changes.filter fun g => !(g.startOf id),
              deque := if alone then [] else c2.deque, chain := if alone then 0 else c2.chain,
              latch := none }
  let go := (c.eq ++ c.ewait ++ c.eflight.filter fun k => !k.stays).filter mine
  let s2 := go.foldl (fun s k => s.engineDone p k) s1
  let dead := (s.copies.filter fun k => k.core == p && k.launch == some id).map (·.id)
  let s3 : State := { s2 with
    copies := s2.copies.filter fun k => !(k.id ∈ dead)
    quays := s2.quays.map fun kq => (kq.1, { kq.2 with
      service := kq.2.service.filter fun i => !(i ∈ dead), pieces := kq.2.pieces.filter fun w => !(w.copy ∈ dead) }) }
  let s4 := if (s3.core p).migration.isSome && (s3.core p).armed.isSome then s3.onCore p Core.migrAbort else s3
  s4.giveDescriptor p ((s4.descriptorFor 3 p l 0).take 8 ++ List.replicate 56 0)
/-- Link flits of a launch's channels are discarded (R400). -/
def State.dropLinks (s : State) (l : Launch) : State :=
  l.chans.foldl (fun s d =>
    let t := s.onLink (declPort d) d.1 fun _ => Link.reset
    { t with linkOut := t.linkOut.filter fun o => !(o.2.1 == declPort d && (o.2.2.1 == d.1 || o.2.2.1 == 1024 + d.1)) }) s
/-- A launch is cancelled (R400 step 2): one that holds no core yet is gone. -/
def State.cancelLaunch (s : State) (l : Launch) : State :=
  let id := l.id.toNat
  let owe (k : Queue) : Queue := { k with owed := if l.caddr = 0 then k.owed else k.owed ++ [l.caddr] }
  let t := s.onQueue l.queue owe
  if l.grantedCores.isEmpty then
    t.releaseLaunch l
  else
    let mark (k : Launch) : Launch := if k.id = l.id then { k with stage := .cancelled } else k
    let u := l.grantedCores.foldl (fun s p => s.cancelCore l p) ((t.dropTraffic id l.c0entry.isSome).onHub fun h => { h with launches := h.launches.map mark })
    (u.dropLinks l).onQueue l.queue fun k => { k with acks := k.acks ++ l.grantedCores.filter fun p => !(p ∈ k.acks) }
/-- The reset is reported (R400 steps 3 and 4, R402). -/
def State.reportReset (s : State) (q : Nat) : State :=
  let dead := s.hub.launches.filter fun l => l.queue == q && l.stage == .cancelled
  let s1 := dead.foldl (fun s l => s.releaseLaunch l) s
  let k := s1.queue q
  let own := k.resetters.filter fun r => r.1 == q
  let kept := k.open_.filter fun o => own.any fun r => r.2.1 == o.1
  let s2 := s1.onQueue q fun k => { k with owed := [], open_ := kept }
  let s3 := k.owed.foldl (fun s a => match s.hubPut k.droot (BitVec.ofNat 64 a) (statusWord 2) with
    | some t => t
    | none => s.queueFail q 4) s2
  let s4 := s3.onQueue q fun k => { k with rdidx := k.discard, state := 1, cmd := 0, resetters := [], destroy := false }
  let s5 := k.resetters.foldl (fun s r => s.finishPacket r.1 (r.2.1, none) (BitVec.ofNat 64 r.2.2.1) r.2.2.2) s4
  if k.destroy then s5.onQueue q fun k => { Queue.reset with drops := k.drops } else s5
/-- A reset reports once no core owes an acknowledgement and no launch of the queue that ended before it still completes (R400, R401). -/
def State.tryReport (s : State) (q : Nat) : State :=
  let k := s.queue q
  if k.state = 3 && k.acks.isEmpty && !(s.hub.launches.any fun l => l.queue == q && l.stage != .cancelled) then s.reportReset q else s
/-- Steps 1 and 2 of a reset (R400). -/
def State.beginReset (s : State) (q : Nat) (destroy : Bool) : State :=
  let s1 := s.onQueue q fun k => { k with state := 3, discard := k.wridx, cmd := 1, destroy := destroy, acks := [], owed := [] }
  let bars := s1.hub.barAnds.filter fun b => b.queue == q
  let s2 := s1.onHub fun h => { h with
    barAnds := h.barAnds.filter fun b => b.queue != q
    wheel := h.wheel.filter fun ke => ke.2.owner.toNat != q }
  let s3 := bars.foldl (fun s b => s.finishPacket q (b.index, none) (BitVec.ofNat 64 b.caddr) (statusWord 2)) s2
  -- RESETQ packets of this queue that wait for other queues are cancelled with it.
  let theirs := (s3.hub.queues.map fun kk => if kk.1 = q then [] else kk.2.resetters.filter fun r => r.1 == q).flatten
  let s4 := s3.onHub fun h => { h with queues := h.queues.map fun kk =>
    if kk.1 = q then kk else (kk.1, { kk.2 with resetters := kk.2.resetters.filter fun r => r.1 != q }) }
  let s5 := s4.onQueue q fun k => { k with owed := k.owed ++ (theirs.filter fun r => r.2.2.1 != 0).map fun r => r.2.2.1 }
  let ls := s5.hub.launches.filter fun l => l.queue == q && l.slack.isNone
  (ls.foldl (fun s l => s.cancelLaunch l) s5).tryReport q
/-- A reset or destruction asked for by CMD (R389, R400): refused while STATE is 0 or 3. -/
def State.commandReset (s : State) (q : Nat) (destroy : Bool) : State :=
  if (s.queue q).state = 0 || (s.queue q).state = 3 then s.onQueue q fun k => { k with cmd := 2 } else s.beginReset q destroy
/-- QUEUE_RESET (R400). -/
def execQueueReset (q : Nat) (s : State) : Out := event (fun s => s.commandReset q false) s
/-- QUEUE_DESTROY (R402). -/
def execQueueDestroy (q : Nat) (s : State) : Out := event (fun s => s.commandReset q true) s
/-- RESETQ_PACKET (R392, R400): status 0x03 for a free target or another SPACE; it completes when the target's reset is reported. -/
def execResetqPacket (q : Nat) (s : State) : Out :=
  event (fun s => s.startPacket q .resetq fun s n w =>
    let t := ((nthD 0 w 1).extractLsb' 0 10).toNat
    let k := s.queue t
    if k.state = 0 || k.space != (s.queue q).space then s.finishPacket q (some n, none) (caddrOf w) (statusWord 3) else
    let u := s.onQueue t fun k => { k with resetters := k.resetters ++ [(q, some n, (caddrOf w).toNat, cvalOf w)] }
    if k.state = 3 then u else u.beginReset t false) s
/-- A cancelled launch holds nothing more on a core (R400): no worker in RUN or PARK or about to start, no task of its own, no started command, no swap or resume of it. -/
def Core.doneWith (c : Core) (id : Nat) : Bool :=
  let mine (k : Cmd) : Bool := k.launch == some id
  !(c.ctxs.any fun kx => kx.1 != 0 && kx.2.launch == some id && (kx.2.st == .run || kx.2.st == .park)) &&
  !(c.mflight.any mine) && !(c.eflight.any mine) && !(c.changes.any fun g => g.startOf id) && (c.deque.isEmpty || 1 < c.launches.length) &&
  !(c.swapping.any fun j => (c.ctx j.ctx).launch == some id) &&
  !(c.resuming.any fun r => match find c.pool r.1 with | some k => k.launch == some id | none => false)
/-- A core may acknowledge a reset of a queue: it holds nothing of the cancelled launches, their staged words are written back, and C0 has left an image's own code (R440; log 29). -/
def State.ackReady (s : State) (q core : Nat) : Bool :=
  core ∈ (s.queue q).acks &&
  (s.hub.launches.filter fun l => l.queue == q && l.stage == .cancelled && l.grantedCores.contains core).all fun l =>
    (s.core core).doneWith l.id.toNat && !s.stagedFor l.id.toNat && (l.c0entry.isNone || ((s.core core).ctx 0).st == .stop)
/-- RESET_ACKNOWLEDGE (R400 step 3). -/
def execResetAcknowledge (q core : Nat) (s : State) : Out :=
  event (fun s =>
    if s.ackReady q core then (s.onQueue q fun k => { k with acks := k.acks.filter (· != core) }).tryReport q else s) s
/-- QUEUE_CREATE (R389). -/
def execQueueCreate (q : Nat) (s : State) : Out :=
  event (fun s => s.onQueue q fun k =>
    if k.state = 0 && k.keyWritten && !(1 ≤ k.log2n.toNat && k.log2n.toNat ≤ 3) then
      { k with state := 1, rdidx := 0, wridx := 0, lastseq := 0, cmd := 0 }
    else { k with cmd := 2 }) s
/-- QUEUE_KEY_WRITE (R389, R398): 8 bytes of KEY. -/
def execQueueKeyWrite (q i : Nat) (v : BitVec 64) (s : State) : Out :=
  event (fun s => s.onQueue q fun k =>
    { k with key := k.key.take (8 * i) ++ bytesOf 8 v.toNat ++ k.key.drop (8 * i + 8), keyWritten := true }) s

/-! ## WRIDX and notifies (R396 to R398) -/

/-- Check 4 of R397. -/
def Queue.inRange (k : Queue) (v : Word) : Bool :=
  decide ((v - k.wridx).toNat ≤ k.slots) && decide ((v - k.rdidx).toNat ≤ k.slots)
/-- A count of DROPS goes up and stays at its maximum: 0 authentication, 1 stale, 2 range, 3 state (R389). -/
def Queue.drop (k : Queue) (field : Nat) : Queue :=
  if (k.drops.extractLsb' (16 * field) 16).toNat = 65535 then k else { k with drops := k.drops + BitVec.ofNat 64 (2 ^ (16 * field)) }
/-- WRIDX_WRITE by a hart (R398). -/
def execWridxWrite (q : Nat) (v : BitVec 32) (s : State) : Out :=
  event (fun s => s.onQueue q fun k =>
    if !k.local_ then k else if k.inRange v then { k with wridx := v } else k.drop 2) s
/-- The tag that a notify must bear (R397). -/
def notifyTag (key : List Byte) (port : Nat) (bs : List Byte) : List Byte :=
  (hmac512 key ([0x47, 0x51, 0x4E, 0x4F, 0x54, 0x49, 0x46, 0x59] ++ bs.take 16 ++ bytesOf 8 port)).take 16
/-- A notify against the checks of R397, in order. -/
def Queue.notify (k : Queue) (port : Nat) (bs : List Byte) : Queue :=
  let v : Word := (wordAt bs 0).extractLsb' 32 32
  let seq := wordAt bs 8
  if !(k.state = 1 || k.state = 3) || !k.ports.getLsbD port then k.drop 3
  else if (bs.drop 16).take 16 != notifyTag k.key port bs then k.drop 0
  else if !(k.lastseq.toNat < seq.toNat) then k.drop 1
  else if !k.inRange v then k.drop 2
  else { k with lastseq := seq, wridx := v }
/-- QUEUE_NOTIFY (R396, R397): a write into a port's notify window, at its offset. -/
def execQueueNotify (port off : Nat) (data : List (BitVec 8)) (s : State) : Out :=
  event (fun s =>
    if off % 32 ≠ 0 || data.length ≠ 32 then s.onHub fun h => { h with malformed := put h.malformed port (look 0 h.malformed port + 1) }
    else s.onQueue ((wordAt data 0).extractLsb' 0 10).toNat fun k => k.notify port data) s

/-! ## Peers (R374, R387) -/

/-- A window within its limits and enabled (R387). -/
def PeerWindow.on (w : PeerWindow) : Bool :=
  let sz := (w.ctl.extractLsb' 0 6).toNat
  w.ctl.getLsbD 10 && w.ctl.extractLsb' 6 2 == 0 && w.ctl.extractLsb' 11 53 == 0 && decide (16 ≤ sz) && decide (sz ≤ 38) &&
  w.base.toNat % 2 ^ sz == 0 && w.target.toNat % 2 ^ sz == 0 && decide (w.target.toNat < cliffSize)
/-- The lowest enabled window of a port that holds a whole access (R387). -/
def Hub.window (h : Hub) (port : Nat) (a n : Nat) : Option PeerWindow :=
  ((upTo 32).filterMap fun i => find h.windows (32 * port + i)).find? fun w =>
    w.on && decide (w.base.toNat ≤ a) && decide (a + n ≤ w.base.toNat + 2 ^ (w.ctl.extractLsb' 0 6).toNat)
/-- The physical address of an access through a window that permits it: bit 8 for reads, 9 for writes. -/
def Hub.peerPa (h : Hub) (port a n bit : Nat) : Option Nat :=
  match h.window port a n with
  | some w => if w.ctl.getLsbD bit then some (w.target.toNat + (a - w.base.toNat)) else none
  | none => none
/-- An access answered with an error completion and counted (R374). -/
def State.peerError (s : State) (port : Nat) : State :=
  s.onHub fun h => { h with errors := put h.errors port (look 0 h.errors port + 1), peerReply := none }
/-- The lengths that a port accepts: 1 to 256 bytes at the UALink ports, which are ports 0 to 3 (R374, R387). -/
def peerLength (port n : Nat) : Bool := decide (4 ≤ port) || (decide (1 ≤ n) && decide (n ≤ 256))
/-- PEER_WRITE (R374, R387): a write into the notify window is a notify; another goes through the lowest window that holds it. -/
def execPeerWrite (port : Nat) (addr : BitVec 64) (data : List (BitVec 8)) (s : State) : Out :=
  event (fun s =>
    let a := addr.toNat
    let base := (look 0 s.hub.notifyBase port).toNat / 4096 * 4096
    if base ≤ a && a < base + 4096 then s.also (execQueueNotify port (a - base) data) else
    if !peerLength port data.length then s.peerError port else
    match s.hub.peerPa port a data.length 9 with
    | some pa => ((s.putStack pa data).charge pa data.length).onHub fun h => { h with peerReply := some [] }
    | none => s.peerError port) s
/-- PEER_READ (R374, R387). -/
def execPeerRead (port : Nat) (addr : BitVec 64) (bytes : Nat) (s : State) : Out :=
  event (fun s =>
    if !peerLength port bytes then s.peerError port else
    match s.hub.peerPa port addr.toNat bytes 8 with
    | some pa =>
      if s.badRange pa bytes then s.peerError port
      else (s.charge pa bytes).onHub fun h => { h with peerReply := some (memBytes s.cliff pa bytes) }
    | none => s.peerError port) s

end Sys2Proof.Machine
end

