-- ==== Sys2Proof/Machine/Loader.lean ====
section
/-! DEFINITION. Code objects and launch blocks: their parts, symbol resolution, relocation and the refusals of step 1 (spec/18_compatibility_and_code_loading.md R408 to R419; spec/17_lighthouse_and_harbour_queues.md R394; spec/16_tidal_eddy_and_swell_fabric.md R366, R367, R371; spec/13_execution_and_scheduling.md R306, R312). -/
namespace Sys2Proof.Machine

/-! ## Objects (R412, R413) -/

/-- A section: KIND, IMG, its offset and its bytes. -/
structure Section where
  kind : Nat
  img : Nat
  off : Nat
  bytes : List Byte
  deriving DecidableEq, Repr
/-- A code object as read from the data space. -/
structure Obj where
  va : Nat
  flags : DWord
  base : Nat
  entry : Nat
  banks : Half
  secs : List Section
  deriving DecidableEq, Repr
/-- Bytes in records of n. -/
def records (n : Nat) (bs : List Byte) : List (List Byte) := (upTo (bs.length / n)).map fun i => (bs.drop (n * i)).take n
/-- Every element has an image, and the list of them. -/
def allOf {α β : Type} (f : α → Option β) : List α → Option (List β)
  | [] => some []
  | a :: t => match f a, allOf f t with
    | some b, some r => some (b :: r)
    | _, _ => none
/-- ASCII "GQCODOB1". -/
def objMagic : List Byte := [0x47, 0x51, 0x43, 0x4F, 0x44, 0x4F, 0x42, 0x31]
/-- A section by its directory entry. -/
def State.readSection (s : State) (root : DWord) (va : Nat) (e : List Byte) : Option Section :=
  let w := wordAt e 0
  let kind := (w.extractLsb' 0 8).toNat
  let off := (wordAt e 8).toNat
  let len := (wordAt e 16).toNat
  let size : Nat := match kind with | 1 => 64 | 2 | 6 | 7 | 10 => 16 | 3 | 8 | 11 | 12 | 4 => 8 | 5 => 2056 | _ => 64
  if w.extractLsb' 24 40 != 0 || kind = 0 || 12 < kind || off % 8 ≠ 0 || len % size ≠ 0 then none else
  match s.hubRead root (va + off) len with
  | .ok bs => some ⟨kind, (w.extractLsb' 8 16).toNat, off, bs⟩
  | .error _ => none
/-- An object at an address, none if it is invalid (R412, R413). -/
def State.readObj (s : State) (root : DWord) (va : Nat) : Option Obj :=
  match s.hubRead root va 64 with
  | .error _ => none
  | .ok h =>
    let flags := wordAt h 8
    let base := (wordAt h 16).toNat
    if h.take 8 != objMagic || flags.extractLsb' 6 2 != 0 || flags.extractLsb' 28 36 != 0 ||
       (!flags.getLsbD 4 && flags.extractLsb' 16 12 != 0) || base % 2 ^ 21 ≠ 0 || 2 ^ 48 ≤ base ||
       (wordAt h 32).extractLsb' 16 48 != 0 || wordAt h 56 != 0 then none else
    match s.hubRead root (va + (wordAt h 40).toNat) (24 * (wordAt h 48).toNat) with
    | .error _ => none
    | .ok dir =>
      (allOf (s.readSection root va) (records 24 dir)).bind fun secs =>
        let images := if flags.getLsbD 4 then (flags.extractLsb' 16 12).toNat + 1 else 1
        let codes := (secs.filter (·.kind == 1)).map (·.img)
        if secs.all (fun k => decide (k.img < images)) && !hasDup codes then
          some ⟨va, flags, base, (wordAt h 24).toNat, (wordAt h 32).setWidth 16, secs⟩
        else none
/-- EMONEF. -/
def Obj.emonef (o : Obj) : Bool := o.flags.getLsbD 4
/-- The instruction base of an image: image v of an Emonef object follows the one before it by 2 MiB (log 27). -/
def Obj.imageBase (o : Obj) (img : Nat) : Nat := o.base + img * 2 ^ 21
/-- Sections of a kind. -/
def Obj.of (o : Obj) (kind : Nat) : List Section := o.secs.filter (·.kind == kind)
/-- Records of every section of a kind. -/
def Obj.recs (o : Obj) (kind n : Nat) : List (List Byte) := ((o.of kind).map fun k => records n k.bytes).flatten
/-- The further objects that LIBS names. -/
def Obj.libs (o : Obj) : List Nat := (o.recs 11 8).map fun r => (wordAt r 0).toNat
/-- Images that have code, symbols or relocations: IMG, base and code. -/
def Obj.images (o : Obj) : List (Nat × Nat × List Byte) :=
  (((o.secs.filter fun k => k.kind == 1 || k.kind == 9 || k.kind == 10).map (·.img)).eraseDups).map fun i =>
    (i, o.imageBase i, ((firstOf (fun k => k.img == i) (o.of 1)).map (·.bytes)).getD [])

/-! ## Symbols (R415) -/

/-- A symbol record: NAME, BIND, address, SIZE and HASH. -/
structure Symbol where
  name : List Byte
  bind : Nat
  addr : Nat
  size : DWord
  hash : List Byte
  deriving DecidableEq, Repr
/-- A symbol of an image; none if it is invalid. -/
def symbolOf (base : Nat) (r : List Byte) : Option Symbol :=
  let b := (wordAt r 24).toNat
  if b = 0 || 3 < b then none
  else some ⟨r.take 24, b, (base + (wordAt r 32).toNat) % 2 ^ 64, wordAt r 40, (r.drop 48).take 16⟩
/-- The symbols of one image of an object, in order. -/
def Obj.symbols (o : Obj) (img : Nat) : Option (List Symbol) :=
  allOf (symbolOf (o.imageBase img)) (((o.of 9).filter (·.img == img)).map fun k => records 64 k.bytes).flatten
/-- A newly loaded definition against those already loaded (R415): none where it is refused. -/
def define (table : List Symbol) (d : Symbol) : Option (List Symbol) :=
  match firstOf (fun e => e.name == d.name) table with
  | none => some (table ++ [d])
  | some e =>
    if e.bind = 1 then if d.bind = 1 && !(e.size == d.size && e.hash == d.hash) then none else some table
    else if d.bind = 1 then some (table.map fun k => if k.name = d.name then d else k) else some table
/-- Definitions loaded in order. -/
def defineAll (table : List Symbol) : List Symbol → Option (List Symbol)
  | [] => some table
  | d :: t => if d.bind = 3 then defineAll table t else (define table d).bind fun u => defineAll u t

/-! ## Relocation (R414) -/

/-- Four bytes replaced. -/
def setWord32 (bs : List Byte) (at_ v : Nat) : List Byte := bs.take at_ ++ bytesOf 4 v ++ bs.drop (at_ + 4)
/-- The patched word for a relocation of KIND at bundle address p with value v; none if it is refused. -/
def patch (kind : Nat) (w v p : Nat) : Option Nat :=
  let hi := (v + 0x800) / 2 ^ 12 % 2 ^ 20
  match kind with
  | 1 =>
    let d := (v : Int) - p
    if v % 2 ≠ 0 || d % 2 ≠ 0 || d < -(2 ^ 20) || 2 ^ 20 ≤ d then none
    else some (w / 2 ^ 20 * 2 ^ 20 + (d / 2 % 2 ^ 20).toNat)
  | 2 => if 2 ^ 31 - 2048 ≤ v then none else some (w / 2 ^ 20 * 2 ^ 20 + hi)
  | 3 => if 2 ^ 31 - 2048 ≤ v then none else some (w / 2 ^ 14 * 2 ^ 14 + (((v : Int) - 4096 * hi) % 2 ^ 14).toNat)
  | _ => none
/-- One relocation record applied to an image's code. -/
def relocate (table syms : List Symbol) (base : Nat) (code : List Byte) (r : List Byte) : Option (List Byte) :=
  let w := wordAt r 0
  let at_ := (w.extractLsb' 0 32).toNat
  let h := (w.extractLsb' 32 8).toNat
  if w.extractLsb' 48 16 != 0 || code.length < at_ + 4 || at_ < h then none else
  (nth syms ((wordAt r 8).extractLsb' 0 32).toNat).bind fun y =>
  (firstOf (fun e => e.name == y.name) table).bind fun d =>
    let v := ((d.addr : Int) + ((wordAt r 8).extractLsb' 32 32).toInt) % 2 ^ 64
    (patch (w.extractLsb' 40 8).toNat (natOf ((code.drop at_).take 4)) v.toNat (base + at_ - h)).map fun v => setWord32 code at_ v
/-- Relocations applied in order. -/
def relocateAll (table syms : List Symbol) (base : Nat) (code : List Byte) : List (List Byte) → Option (List Byte)
  | [] => some code
  | r :: t => (relocate table syms base code r).bind fun c => relocateAll table syms base c t
/-- An object's images linked against the table of definitions: every reference has one (R416). -/
def Obj.link (o : Obj) (table : List Symbol) : Option (List (Nat × Nat × List Byte)) :=
  allOf (fun (i : Nat × Nat × List Byte) =>
    (o.symbols i.1).bind fun syms =>
      if syms.all (fun y => table.any fun d => d.name == y.name) then
        (relocateAll table syms i.2.1 i.2.2 (((o.of 10).filter (·.img == i.1)).map fun k => records 16 k.bytes).flatten).map fun c =>
          (i.1, i.2.1, c)
      else none) o.images
/-- Every definition of an object. -/
def Obj.defs (o : Obj) : Option (List Symbol) := (allOf (fun (i : Nat × Nat × List Byte) => o.symbols i.1) o.images).map List.flatten
/-- Two images overlap, or two of their lines share a code-store slot (R416). -/
def codeClash (a b : Nat × Nat × List Byte) : Bool :=
  let na := a.2.2.length / 64
  let nb := b.2.2.length / 64
  let sa := a.2.1 / 64
  let sb := b.2.1 / 64
  (na != 0 && nb != 0) && (decide ((sa + 2048 - sb % 2048) % 2048 < nb) || decide ((sb + 2048 - sa % 2048) % 2048 < na))
/-- Two address ranges meet. -/
def codeOverlap (a b : Nat × Nat × List Byte) : Bool :=
  decide (a.2.1 < b.2.1 + b.2.2.length && b.2.1 < a.2.1 + a.2.2.length)
/-- Some pair of a list is in a relation. -/
def anyPair {α : Type} (f : α → α → Bool) : List α → Bool
  | [] => false
  | a :: t => t.any (f a) || anyPair f t

/-! ## Claims and tables (R306, R312, R413) -/

/-- A `.context` line: lo, hi and label. -/
def contextOf (base : Nat) (r : List Byte) : Option (Nat × Nat × Option DWord) :=
  let w := wordAt r 0
  let lo := (w.extractLsb' 0 4).toNat
  let hi := (w.extractLsb' 4 4).toNat
  if w.extractLsb' 9 55 != 0 || lo = 0 || hi < lo then none
  else some (lo, hi, if w.getLsbD 8 then some (BitVec.ofNat 64 base + wordAt r 8) else none)
/-- An `.acc` line: context and accumulators. -/
def accLine (r : List Byte) : Option (List (Nat × Nat)) :=
  let w := wordAt r 0
  let n := (w.extractLsb' 0 4).toNat
  if w.extractLsb' 4 4 != 0 || w.extractLsb' 16 48 != 0 || n = 0 then none
  else some (((upTo 8).filter fun m => w.getLsbD (8 + m)).map fun m => (n, m))
/-- A `.ring` line: id, address, entries. -/
def ringLine (r : List Byte) : Option (Nat × Nat × Nat) :=
  let w := wordAt r 0
  let u := wordAt r 8
  let a := (u.extractLsb' 0 19).toNat
  let n := (u.extractLsb' 32 16).toNat
  if w.extractLsb' 5 59 != 0 || u.extractLsb' 19 13 != 0 || u.extractLsb' 48 16 != 0 || a % 32 ≠ 0 || n = 0 then none
  else some ((w.extractLsb' 0 5).toNat, a, n)
/-- A `.chan` line: kind and its 16-bit operands. -/
def chanLine (r : List Byte) : Option (Nat × List Nat) :=
  let v := natOf r
  let f (i : Nat) : Nat := v / 2 ^ (8 + 16 * i) % 65536
  let rest (n : Nat) : Bool := v / 2 ^ (8 + 16 * n) != 0
  let fits (n : Nat) (ok : Bool) : Option (Nat × List Nat) := if ok && !rest n then some (v % 256, (upTo n).map f) else none
  match v % 256 with
  | 1 => fits 1 (decide (f 0 < 256))
  | 2 => fits 2 (decide (f 0 < 4) && decide (32 ≤ f 1) && decide (f 1 ≤ 48))
  | 3 => fits 2 (decide (f 0 < 16) && decide (64 ≤ f 1) && decide (f 1 ≤ 4095))
  | 4 => fits 4 (decide (f 0 < 256) && decide (f 1 < 16) && decide (1 ≤ f 2) && decide (f 2 ≤ 64) &&
      (f 3 == 0 || (decide (64 ≤ f 3) && decide (f 3 ≤ 4095))))
  | 5 => fits 3 (decide (f 0 < 256) && decide (f 1 < 8) && decide (1 ≤ f 2) && decide (f 2 ≤ 64))
  | 6 => fits 4 (decide (f 0 < 256) && decide (1 ≤ f 3) && decide (f 3 ≤ 64))
  | _ => none
/-- The regions of a LOCAL section: address, EMPTY, bytes, and the offset of the data within the section. -/
def localRegions (fuel off : Nat) (bs : List Byte) : Option (List (Nat × Bool × Nat × Nat)) :=
  match fuel with
  | 0 => if bs.isEmpty then some [] else none
  | fuel + 1 =>
    if bs.isEmpty then some [] else
    if bs.length < 16 then none else
    let w := wordAt bs 0
    let n := (wordAt bs 8).toNat
    let m := (n + 7) / 8 * 8
    let a := (w.extractLsb' 0 19).toNat
    if w.extractLsb' 20 44 != 0 || bs.length < 16 + m || 0x70000 < a + n || a % 8 ≠ 0 then none else
    (localRegions fuel (off + 16 + m) (bs.drop (16 + m))).map fun t => (a, w.getLsbD 19, n, off + 16) :: t
/-- The load list records of an object's `.local` regions for a logical core, or for every core (R417). -/
def Obj.localRecords (o : Obj) (k : Section) (core : Option Nat) : Option (List (Option Nat × List DWord)) :=
  (localRegions (k.bytes.length + 1) 0 k.bytes).map fun l => (l.map fun (a, empty, n, off) =>
    let data : List (Option Nat × List DWord) :=
      if n = 0 then [] else [(core, [2, BitVec.ofNat 64 (o.va + k.off + off), BitVec.ofNat 64 a, BitVec.ofNat 64 ((n + 7) / 8 * 8)])]
    if empty then data ++ [(core, [3, 0, BitVec.ofNat 64 a, BitVec.ofNat 64 ((n + 7) / 8)])] else data).flatten
/-- The banks of an object's `.local` regions. -/
def Obj.localBanks (o : Obj) : Half :=
  (o.of 4).foldl (fun m k => ((localRegions (k.bytes.length + 1) 0 k.bytes).getD []).foldl (fun m r =>
    m ||| regionBanks ⟨r.1, r.2.2.1, true⟩) m) 0

/-! ## Launch blocks (R394) -/

/-- A launch block that R394 refuses. -/
def blockBad (w : List DWord) : Bool :=
  let g (i : Nat) : DWord := nthD 0 w i
  let n := ((g 1).extractLsb' 12 4).toNat
  let form := (g 1).getLsbD 1
  (g 1).extractLsb' 2 10 != 0 || (g 1).extractLsb' 28 36 != 0 ||
  (if form then n == 0 || decide (4 < n) || (g 1).extractLsb' 16 12 != 0 else n != 0) ||
  ((upTo 4).any fun k => (g (2 + k)).extractLsb' 22 42 != 0 || ((!form || decide (n ≤ k)) && g (2 + k) != 0)) ||
  (g 12).extractLsb' 16 48 != 0 || (g 14).extractLsb' 16 48 != 0 || ((upFrom 17 15).any fun i => g i != 0)
/-- A rectangle: die, row0, col0, height, width. -/
def rectOf (v : DWord) : Nat × Nat × Nat × Nat × Nat :=
  ((v.extractLsb' 20 2).toNat, (v.extractLsb' 0 5).toNat, (v.extractLsb' 5 5).toNat, (v.extractLsb' 10 5).toNat + 1,
    (v.extractLsb' 15 5).toNat + 1)
/-- A rectangle that fits its die, at an origin of R306. -/
def rectOk (r : Nat × Nat × Nat × Nat × Nat) : Bool :=
  r.2.1 % 4 == 0 && r.2.2.1 % 4 == 0 && decide (r.2.1 + r.2.2.2.1 ≤ 32) && decide (r.2.2.1 + r.2.2.2.2 ≤ 32)
/-- The cores of a rectangle, row by row. -/
def rectCores (r : Nat × Nat × Nat × Nat × Nat) : List Nat :=
  ((upFrom r.2.1 r.2.2.2.1).map fun i => (upFrom r.2.2.1 r.2.2.2.2).map fun j => physOf r.1 i j).flatten
/-- The attached engine cores, each with the number that stands for c in R308. -/
def engineList (w : List DWord) : List (Nat × Nat) :=
  ((upTo 64).filter fun i => (nthD 0 w 13).getLsbD i).map (fun i => (quayOf (i / 16) (i % 16), 4096 + i)) ++
  ((upTo 16).filter fun j => (nthD 0 w 14).getLsbD j).map fun j => (strandOf (j / 4) (j % 4), 4160 + j)

/-! ## Step 1 (R307, R310) -/

/-- Every ordinary core (R10). -/
def ordinaryCores : List Nat := ((upTo 4).map fun d => (upTo 1024).map fun i => 4096 * d + i).flatten
/-- A die that is parked or asked to park (R431). -/
def Hub.parking (h : Hub) (d : Nat) : Bool := h.power.getLsbD (8 + d) || h.power.getLsbD (12 + d)
/-- The classes that an object accepts on a core that is degraded or not (R408). -/
def Obj.accepts (o : Obj) (degraded : Bool) : Bool :=
  o.emonef || if degraded then o.flags.getLsbD 2 else o.flags.getLsbD 1
/-- An object that breaks the resource floor in its tables (R410, R440). -/
def Obj.overFloor (o : Obj) : Bool :=
  (!o.emonef && !o.flags.getLsbD 1) || !(o.of 8).isEmpty ||
  ((o.recs 6 16).any fun r => natOf r % 256 ∈ [2, 3, 4]) ||
  ((o.recs 7 16).any fun r => decide (16 ≤ (wordAt r 0).toNat % 32))
/-- ASCII "c0entry", padded. -/
def c0entryName : List Byte := [0x63, 0x30, 0x65, 0x6E, 0x74, 0x72, 0x79] ++ List.replicate 17 0
/-- An image of the object defines the strong global symbol c0entry (R440). -/
def Obj.definesC0 (o : Obj) : Bool := (o.defs.getD []).any fun d => d.name == c0entryName && d.bind == 1
/-- Step 1's floor check of an object. -/
def Obj.floorOk (o : Obj) : Bool :=
  !(!o.flags.getLsbD 3 || o.flags.getLsbD 0) || !(o.overFloor || o.definesC0)
/-- The latencies and windows that the channels of an image assume (R366, R367, R371). -/
def State.chansOk (s : State) (instant : DWord) (cs : List (Nat × List Nat)) : Bool :=
  (cs.all fun c => match c with
    | (2, [k, lat]) => s.hub.linkLat k == lat
    | (3, [p, lat]) => s.hub.linkLat (4 + p) == lat && instant != 0
    | (4, [_, p, _, lat]) => lat == 0 || s.hub.linkLat (4 + p) == lat
    | _ => true) &&
  (upTo 16).all fun n => decide (total (cs.map fun c => match c with
    | (4, [_, p, w, _]) => if p = n then w else 0
    | (5, [_, _, w]) => w
    | _ => 0) ≤ 1024)
/-- Emonef channels among the lines of a CHAN section (R421). -/
def emLines (cs : List (Nat × List Nat)) : List (Nat × Nat × Nat × Nat) :=
  cs.filterMap fun c => match c with
    | (6, [ch, f, t, d]) => some (ch, f, t, d)
    | _ => none
/-- Channels of an Emonef program: each declared once, between its virtual cores, at most 63 ending at one (R421). -/
def emChansOk (n : Nat) (cs : List (Nat × List Nat)) : Bool :=
  let es := emLines cs
  !hasDup (es.map (·.1)) && es.all fun e => decide (e.2.1 < n) && decide (e.2.2.1 < n) &&
    decide ((es.filter fun k => k.2.2.1 == e.2.2.1).length ≤ 63)
/-- Operations that Emonef code admits in a slot (R418, R419). -/
def emonefAdmits (slot : Slot) (i : Instr) : Bool :=
  let now := !(Instr.start i).f && (Instr.start i).off == 0
  match slot with
  | .s => !(Instr.c0Only i)
  | .l | .v => true
  | .m => now
  | .n =>
    match i with
    | .cpyi _ _ _ _ _ | .cpyo _ _ _ _ _ => now && decide ((tagOf i).getD 0 ≤ 47) && decide ((depOf i).getD 0 ≤ 47)
    | .cpyl _ _ _ _ | .sigs _ _ _ _ => now && decide ((tagOf i).getD 0 ≤ 47) && decide ((depOf i).getD 0 ≤ 47)
    | .rpsh _ c _ | .rpop _ _ c _ => c == 0
    | .foot _ _ _ | .twait _ | .tany _ _ | .tffr _ _ | .tclr _ | .swait _ _ _ _ | .send _ _ | .recv _ _ => true
    | _ => false
/-- A SEND or RECV of virtual core v names a declared channel at the end that is its own (R420); es lists FROM, TO and DEPTH by channel. -/
def emonefEnds (es : List (Nat × Nat × Nat × Nat)) (v : Nat) (i : Instr) : Bool :=
  match i with
  | .send _ ch => es.any fun e => e.1 == ch.toNat && e.2.1 == v
  | .recv _ ch => es.any fun e => e.1 == ch.toNat && e.2.2.1 == v
  | _ => true
/-- Every bundle of Emonef code is one that the translator admits: WAIT 0, admitted operations, and channels that are the virtual core's own (R418 to R420). -/
def emonefCode (ok : Instr → Bool) : Nat → List Byte → Bool
  | 0, bs => bs.isEmpty
  | fuel + 1, bs =>
    if bs.length < 2 then bs.all (· == 0) else
    let hdr : Half := BitVec.ofNat 16 (leNat (bs.take 2))
    match decodeBundle (bs.take (bundleLen hdr)) with
    | .error _ => false
    | .ok b =>
      hdrWait hdr == 0 && (b.ops.all fun o => match o.ins with | .ok i => emonefAdmits o.slot i && ok i | _ => false) &&
      emonefCode ok fuel (bs.drop (bundleLen hdr))

/-- What step 1 makes of an object and a block: a launch ready to wait for its resources. -/
structure Loaded where
  o : Obj
  c0entry : Option DWord
  contexts : List (Nat × Nat × Option DWord)
  accs : List (Nat × Nat)
  rings : List (Nat × Nat × Nat)
  chans : List (Nat × List Nat)
  coves : List Nat
  tables : List (Nat × Nat)
  code : List (Nat × Nat × List Byte)
  records : List (Option Nat × List DWord)
  /-- Banks of the `.local` regions, those of the LIBS objects among them (R314). -/
  localBanks : Half
  deriving DecidableEq, Repr
/-- The tables of an object, none if a record is invalid (R413). -/
def Obj.tables (o : Obj) : Option Loaded :=
  let who (k : Section) : Option Nat := if o.emonef then some k.img else none
  let tid := (o.of 5).map fun k => (upTo (k.bytes.length / 2056)).map fun i => (k.off + 2056 * i, wordAt (k.bytes.drop (2056 * i)) 0)
  let covs := (o.recs 8 8).map fun r => wordAt r 0
  if tid.flatten.any (fun t => t.2.extractLsb' 16 48 != 0) || covs.any (fun v => v.extractLsb' 16 48 != 0) then none else
  (allOf (contextOf o.base) (o.recs 2 16)).bind fun ctxs =>
  (allOf accLine (o.recs 3 8)).bind fun accs =>
  (allOf ringLine (o.recs 7 16)).bind fun rings =>
  (allOf chanLine (o.recs 6 16)).bind fun chans =>
  (allOf (fun k => o.localRecords k (who k)) (o.of 4)).map fun recs =>
    -- Every virtual core has the accumulators m0 to m7 (R418).
    ⟨o, none, if o.emonef then [(1, 1, none)] else ctxs, if o.emonef then (upTo 8).map fun m => (1, m) else accs.flatten, rings, chans, covs.map (·.toNat),
      tid.flatten.map (fun t => (t.2.toNat, o.va + t.1 + 8)), [], recs.flatten, o.localBanks⟩
/-- The load list record of a linked image. -/
def codeRecord (o : Obj) (i : Nat × Nat × List Byte) : List (Option Nat × List DWord) :=
  if i.2.2.isEmpty then [] else
  [(if o.emonef then some i.1 else none, [1, BitVec.ofNat 64 i.2.1, BitVec.ofNat 64 (i.2.2.length / 64), 0])]
/-- The images that one core loads together clash in the code store (R416): an Emonef image is its virtual core's, another every core's. -/
def slotsClash (images : List (Option Nat × Nat × Nat × List Byte)) : Bool :=
  (images.any fun i => decide (131072 < i.2.2.2.length)) ||
  anyPair (fun a b => (a.1.isNone || b.1.isNone || a.1 == b.1) && codeClash a.2 b.2) images
/-- An object and those of its LIBS, read, resolved and linked (R415, R416). -/
def State.loadObject (s : State) (root : DWord) (va : Nat) : Option Loaded :=
  (s.readObj root va).bind fun o =>
  (allOf (s.readObj root) o.libs).bind fun libs =>
  if libs.any (fun l => !l.libs.isEmpty) then none else
  let all := o :: libs
  (allOf Obj.defs all).bind fun defs =>
  (defineAll [] defs.flatten).bind fun table =>
  (allOf (fun (k : Obj) => k.link table) all).bind fun linked =>
  (allOf Obj.tables all).bind fun tabs =>
  match tabs with
  | [] => none
  | t :: more =>
    let images := linked.flatten
    let each := (upTo all.length).filterMap fun n => (nth all n).bind fun k => (nth linked n).map fun l => (k, l)
    let whose := (each.map fun kl => kl.2.map fun i => (if kl.1.emonef then some i.1 else none, i)).flatten
    if anyPair codeOverlap images || slotsClash whose then none else
    let ends := emLines (tabs.map (·.chans)).flatten
    if !(whose.all fun i => match i.1 with | some v => emonefCode (emonefEnds ends v) (i.2.2.2.length + 1) i.2.2.2 | none => true) then none else
    let c0 := (firstOf (fun d => d.name == c0entryName && d.bind == 1) table).map fun d => BitVec.ofNat 64 d.addr
    if !(all.all Obj.floorOk) then none else
    let codes := (each.map fun kl => (kl.2.map (codeRecord kl.1)).flatten).flatten
    let flags := all.foldl (fun f k => f &&& (k.flags ||| ~~~6)) o.flags
    let records := codes ++ t.records ++ (more.map (·.records)).flatten
    let banks := more.foldl (fun m k => m ||| k.localBanks) t.localBanks
    some { t with o := { o with flags := flags }, c0entry := c0, code := images, records := records, localBanks := banks }
/-- The contexts of an image are ones that its mode admits (R312). -/
def contextsOk (mode : Bool) (l : Loaded) : Bool :=
  mode || l.o.emonef || l.contexts.all fun c => decide (1 < c.1) && c.2.2.isSome
/-- A launch as step 1 lets it through (R306, R307, R310, R366): its id and cores are given later where the block counts them. -/
def State.makeLaunch (s : State) (q : Nat) (index : Option Word) (w p : List DWord) : Option Launch :=
  let g (i : Nat) : DWord := nthD 0 w i
  let k := s.queue q
  if blockBad w then none else
  (s.loadObject k.droot (g 0).toNat).bind fun l =>
    let mode := (g 1).getLsbD 0
    let form := (g 1).getLsbD 1
    let rects := ((upTo ((g 1).extractLsb' 12 4).toNat).map fun i => rectOf (g (2 + i)))
    let n := if form then total (rects.map fun r => r.2.2.2.1 * r.2.2.2.2) else ((g 1).extractLsb' 16 12).toNat + 1
    let reach := if form then (rects.map rectCores).flatten else []
    let engines := engineList w
    let hand : Half := (g 12).setWidth 16
    let classed (p : Nat) : Bool := l.o.accepts (s.core p).degraded
    let suits (p : Nat) : Bool := classed p && !s.hub.parking (dieOf p)
    let fits := if form then (rects.all rectOk) && !hasDup (rects.map (·.1)) && reach.all suits
      else decide (n ≤ (ordinaryCores.filter suits).length) && l.tables.isEmpty && l.coves.isEmpty && !l.o.flags.getLsbD 5
    let virtual := (l.o.flags.extractLsb' 16 12).toNat + 1
    if !fits || !(engines.all fun e => classed e.1) || !contextsOk mode l || !s.chansOk (g 16) l.chans ||
       (l.tables.any fun t => decide (n ≤ t.1)) || (l.coves.any fun c => decide (n ≤ c)) ||
       (l.o.emonef && (virtual != n || !emChansOk virtual l.chans)) || (l.localBanks &&& hand != 0) || hasDup (l.coves.filterMap fun c => (nth reach c).map shoreKey) ||
       (g 16).toNat % 16 ≠ 0 || (g 16 != 0 && decide ((g 16).toNat < s.now)) then none else
    let chans := l.chans.filterMap fun c => match c with
      | (4, [ch, p, w, _]) => some (ch, p, w, false)
      | (5, [ch, p, w]) => some (ch, p, w, true)
      | _ => none
    let em := emLines l.chans
    let base := BitVec.ofNat 64 l.o.base
    some {
      id := s.hub.launchCount + 1, queue := q, index := index, stage := .waiting, caddr := (caddrOf p).toNat, cval := cvalOf p,
      mode := mode, count := n, reach := reach, engines := engines, base := base, entry := base + BitVec.ofNat 64 l.o.entry,
      banks := l.o.banks, handover := hand, period := ((l.o.flags.extractLsb' 8 8).toNat) + 1,
      tide := l.o.flags.getLsbD 5 || !l.tables.isEmpty, contexts := l.contexts, accs := l.accs, rings := l.rings,
      coves := l.coves.filterMap (nth reach), chans := chans, emChans := em, loads := [],
      tables := l.tables.filterMap fun t => (nth reach t.1).map fun p => (p, t.2), notices := [], deadline := none,
      instant := none, slack := none, tenant := k.tenant, space := k.space, droot := k.droot, iroot := k.iroot,
      loadFault := false, grantedCores := [], wheel := none, x3 := g 6, x4 := g 7, x5 := g 8, x6 := g 9, x7 := g 10,
      seed := g 11, emonef := l.o.emonef,
      classes := BitVec.ofBool (l.o.accepts true) ++ BitVec.ofBool (l.o.accepts false), allowed := (g 15).toNat, required := (g 16).toNat, step := false,
      c0entry := l.c0entry, code := l.code, records := l.records }

end Sys2Proof.Machine
end

