-- ==== Sys2Proof/Machine/Launch.lean ====
section
/-! DEFINITION. Launches from their packet to their completion signal, notices to the hub, and the Ebb wheel (spec/13_execution_and_scheduling.md R306 to R319; spec/17_lighthouse_and_harbour_queues.md R386, R393, R404; spec/19_security_power_and_degraded_modes.md R428, R430; spec/01_machine_state.md R38; spec/20_programs_number_and_text.md R440). -/
namespace Sys2Proof.Machine

/-! ## The packet starts (R393) -/

/-- The packet that a launch stands for: its index, or its own name for a release. -/
def Launch.key (l : Launch) : Option Word × Option Nat :=
  match l.index with
  | some n => (some n, none)
  | none => (none, some l.id.toNat)
/-- A launch is at step 1 of R307: refused with status 0x01, or one that waits for its resources; the name of the latter. -/
def State.startLaunch (s : State) (q : Nat) (index : Option Word) (p w : List DWord) : State × Option Nat :=
  match s.makeLaunch q index w p with
  | none => (s.finishPacket q (index, none) (caddrOf p) (statusWord 1), none)
  | some l => (s.onHub fun h => { h with launches := h.launches ++ [l], launchCount := l.id }, some l.id.toNat)
/-- LAUNCH_PACKET (R307 step 1, R393). -/
def execLaunchPacket (q : Nat) (s : State) : Out :=
  event (fun s => s.startPacket q .launch fun s n p =>
    match s.hubRead (s.queue q).droot (nthD 0 p 1).toNat 256 with
    | .ok bs => (s.startLaunch q (some n) p (dwords 32 bs)).1
    | .error _ => s) s
/-- A launch changed. -/
def State.onLaunch (s : State) (id : BitVec 32) (f : Launch → Launch) : State :=
  s.onHub fun h => { h with launches := h.launches.map fun l => if l.id = id then f l else l }
/-- A launch by its name. -/
def State.launchOf (s : State) (id : Nat) : Option Launch := s.launch (some id)
/-- A launch that has not begun is refused (R310): what it held is returned, and its completion word reports it. -/
def State.refuseLaunch (s : State) (l : Launch) : State :=
  (s.releaseLaunch l).finishPacket l.queue l.key (BitVec.ofNat 64 l.caddr) (statusWord 1)

/-! ## Step 2 and 3: the grant (R307, R313, R314) -/

/-- The cores of a launch: physical number, logical number of a reach core, and c of R308. -/
def Launch.parties (l : Launch) : List (Nat × Option Nat × Nat) :=
  (upTo l.reach.length).map (fun i => (nthD 0 l.reach i, some i, i)) ++ l.engines.map fun e => (e.1, none, e.2)
/-- The workers that it starts on a core, each with its first address (R311, R312). -/
def Launch.starts (l : Launch) (logical : Option Nat) : List (Nat × DWord) :=
  if l.emonef then [(1, l.entry + BitVec.ofNat 64 ((logical.getD 0) * 2 ^ 21))] else
  (if !l.mode && logical == some 0 then [(1, l.entry)] else []) ++
  (l.contexts.map fun c => (upFrom c.1 (c.2.1 + 1 - c.1)).map fun n => (n, c.2.2.getD l.entry)).flatten
/-- The same as a mask. -/
def Launch.workerMask (l : Launch) (logical : Option Nat) : Half :=
  (l.starts logical).foldl (fun m k => m ||| ((1 : Half) <<< k.1)) 0
/-- A core can take the launch beside what it carries (R307 step 2, R313, R314). -/
def State.coreTakes (s : State) (l : Launch) (p : Nat) (logical : Option Nat) : Bool :=
  let c := s.core p
  let cove := l.coves.contains p
  !(s.cores.any fun kc => kc.2.armed == some p) && !(cove && (s.cove (shoreKey p)).owner.isSome) &&
  match c.launches with
  | [] => true
  | [f] =>
    f.workers &&& l.workerMask logical == 0 && !(l.accs.any fun a => c.claims.any fun k => k.1 == a.2) &&
    f.own &&& (l.banks &&& ~~~l.handover) == 0 &&
    !((l.tide || cove) && (f.tidal || (match (s.cove (shoreKey p)).owner with | some (o, i) => o == p && i == f.id.toNat | none => false)))
  | _ => false
/-- The cores that a counted launch gets: free ordinary cores of its class, of the Lighthouse's own choice (R306; log 4), in ascending order. -/
def State.chooseReach (s : State) (l : Launch) : Option (List Nat) :=
  let free := ordinaryCores.filter fun p =>
    (s.core p).launches.isEmpty && l.classes.getLsbD (if (s.core p).degraded then 1 else 0) && !s.hub.parking (dieOf p) &&
    !(s.cores.any fun kc => kc.2.armed == some p)
  if free.length < l.count then none
  else some (sortBy id ((sortBy (fun p => s.anyBelow (9000 + p) 65536) free).take l.count))
/-- The launch with its reach, if its cores can be had now. -/
def State.placed (s : State) (l : Launch) : Option Launch :=
  (if l.reach.isEmpty then (s.chooseReach l).map fun r => { l with reach := r } else some l).bind fun l =>
    if l.parties.all fun p => s.coreTakes l p.1 p.2.1 then some l else none
/-- A ring's header and its one segment (R232). -/
def Core.buildRing (c : Core) (r : Nat × Nat × Nat) : Core :=
  let a := r.2.1
  { (c.putWords a [BitVec.ofNat 64 (a + 32), BitVec.ofNat 64 (a + 32), 0, 0, BitVec.ofNat 64 (a + 32), BitVec.ofNat 64 r.2.2, 0, 0]) with
    rings := put c.rings r.1 a }
/-- Step 2 on one core. -/
def Core.takeLaunch (c : Core) (l : Launch) (logical : Option Nat) : Core :=
  let sole := c.launches.isEmpty
  let k : CoreLaunch := ⟨l.id, l.mode, c.degraded, BitVec.ofNat 12 (l.count - 1),
    (match logical with | some n => BitVec.ofNat 16 n | none => 0xFFFF), l.banks &&& ~~~l.handover, l.banks, l.handover,
    l.workerMask logical, l.reach, l.tide, l.chans, l.accs.map fun a => (a.2, a.1), l.tenant,
    ((c.launches.getLast?.map (·.tenant)).getD c.lastTenant) != l.tenant, none⟩
  let c1 : Core := { c with
    launches := c.launches ++ [k]
    claims := c.claims ++ k.accs
    period := if sole then l.period else c.period
    logLaunch := if sole then some l.id.toNat else c.logLaunch
    forward := none
    emonef := if sole then l.emonef else c.emonef }
  l.rings.foldl Core.buildRing c1
/-- Bytes written at instruction addresses, page by page; what is not mapped is not written (R417). -/
def State.putCode (s : State) (root : Nat) : Nat → Nat → List Byte → State
  | 0, _, _ => s
  | fuel + 1, va, bs =>
    if bs.isEmpty then s else
    let m := 4096 - va % 4096
    let t := match s.hubLeaf true va 7 root with
      | some (e, lo) => s.putStack (leafAddr e + va % 2 ^ lo) (bs.take m)
      | none => s
    (t.oweBursts 0 (s.pageBursts true root 1 va (min m bs.length))).putCode root fuel (va + m) (bs.drop m)
/-- The records of a core's load list (R417). -/
def Launch.loadList (l : Launch) (p : Nat) (logical : Option Nat) : List DWord :=
  let mine := l.records.filter fun r => r.1.isNone || r.1 == logical
  let table : List DWord := match find l.tables p with | some a => [4, BitVec.ofNat 64 a, 0, 0] | none => []
  (mine.map (·.2)).flatten ++ table ++ [0, 0, 0, 0]
/-- Words written in the data space where it is mapped. -/
def State.putData (s : State) (root : DWord) (va : Nat) : List DWord → State
  | [] => s
  | v :: t => ((s.hubPut root (BitVec.ofNat 64 va) v).getD s).putData root (va + 8) t
/-- The address of a core's load list, which the Lighthouse chooses (R417; log 15). -/
def State.listAddr (s : State) (p : Nat) : Nat := 32 * s.anyBelow (30000 + p % 32768) (2 ^ 41)
/-- A checkpoint of a core (R338), for one of its launches. -/
def State.takeSnapshot (s : State) (p : Nat) (l : Option Launch) : State :=
  (s.onHub fun h => { h with snapshots := put h.snapshots p ⟨s.now, s.core p, s.cove (shoreKey p), l⟩ }).logReceive p 0x0A 0 hubId 0 0 0 0 []
/-- Step 2 and 3 of R307. -/
def State.grantLaunch (s : State) (l0 : Launch) : State :=
  let l : Launch := { l0 with
    stage := .granted, grantedCores := l0.parties.map (·.1), loads := l0.parties.map fun p => (p.1, s.listAddr p.1),
    tables := sortBy (·.1) l0.tables,
    deadline := if l0.allowed = 0 then none else some (s.now + l0.allowed) }
  -- The Lighthouse names the launch's replay buffer, at an address of its own choice (R337; log 15).
  let s1 := (s.onLaunch l.id fun _ => l).onHub fun h =>
    { h with replayAt := put h.replayAt l.id.toNat (32 * s.anyBelow (29000 + l.id.toNat % 1000) (2 ^ 33)) }
  -- What a core has logged since its last launch is drained before this one's log begins (R337).
  let s2 := l.parties.foldl (fun s p =>
    (if (s.core p.1).launches.isEmpty then s.drainLog p.1 else s).onCore p.1 fun c => c.takeLaunch l p.2.1) s1
  let s3 := l.coves.foldl (fun s p => s.onCove (shoreKey p) fun v => { v with owner := some (p, l.id.toNat) }) s2
  let s4 := l.code.foldl (fun s i => s.putCode l.iroot.toNat (i.2.2.length / 4096 + 2) i.2.1 i.2.2) s3
  let s5 : State := { s4 with emDecls := l.emChans.foldl (fun m e => put m (256 * l.id.toNat + e.1) (e.2.1, e.2.2.1, e.2.2.2)) s4.emDecls }
  l.parties.foldl (fun s p =>
    let s := s.putData l.droot ((find l.loads p.1).getD 0) (l.loadList p.1 p.2.1)
    let s := s.takeSnapshot p.1 (some l)
    s.giveDescriptor p.1 (s.descriptorFor 1 p.1 l (BitVec.ofNat 64 (l.deadline.getD 0)))) s5
/-- The cores that a launch names still have a class that its image accepts, and no die of its reach is being parked; where it counts its cores, enough of them are left (R306, R408, R431). -/
def State.stillSuits (s : State) (l : Launch) : Bool :=
  (!l.reach.isEmpty || decide (l.count ≤ (ordinaryCores.filter fun p =>
    l.classes.getLsbD (if (s.core p).degraded then 1 else 0) && !s.hub.parking (dieOf p)).length)) &&
  (l.parties.all fun p => l.classes.getLsbD (if (s.core p.1).degraded then 1 else 0)) && !(l.reach.any fun p => s.hub.parking (dieOf p))
/-- LAUNCH_RESOURCE_GRANT (R307 steps 2 and 3). -/
def execLaunchResourceGrant (launch : Nat) (s : State) : Out :=
  event (fun s =>
    match s.launchOf launch with
    | some l =>
      if l.stage ≠ .waiting then s
      else if !s.stillSuits l then s.refuseLaunch l else
      match s.placed l with
      | some k => s.grantLaunch k
      | none => s
    | none => s) s

/-! ## Notices (R289, R386) -/

/-- The core holds still for a checkpoint (R338): its workers are OUT, FREE or HALT, and no command, relaxed access or remote request of it is under way but the notice itself. -/
def State.still (s : State) (p cmd : Nat) : Bool :=
  let c := s.core p
  (c.ctxs.all fun kx => kx.1 == 0 || (match kx.2.st with | .out | .free | .halt => true | _ => false)) &&
  c.mq.isEmpty && c.mwait.isEmpty && c.mflight.isEmpty && c.eq.isEmpty && c.ewait.isEmpty && (c.eflight.all fun k => k.id == cmd) &&
  (c.ctxs.all fun kx => kx.2.relaxed.all (·.performed)) && (c.pool.all fun kq => kq.2.relaxed.all (·.performed)) &&
  !(s.packets.any fun k => if k.body.isReply then k.dst == p else k.src == p && k.cmd != cmd) &&
  !(s.cores.any fun kc => kc.2.watches.any fun w => w.pkt.src == p) && !(s.barriers.any fun kb => kb.2.waiters.any fun w => w.1.src == p)
/-- The launch that a core carries, the finishing one of two (R313). -/
def State.carried (s : State) (p : Nat) : Option Launch := ((s.core p).launches.head?).bind fun l => s.launchOf l.id.toNat
/-- HUB_SNAPSHOT (R338). -/
def execHubSnapshot (core : Nat) (s : State) : Out := event (fun s => s.takeSnapshot core (s.carried core)) s
/-- A ready notice of a core (R307 step 4): it is of the granted launch there that still waits for it. -/
def State.readyNotice (s : State) (k : Packet) : State :=
  let waits (l : Launch) : Bool := l.stage == .granted && l.grantedCores.contains k.src && !(l.notices.any fun n => n.1 == k.src)
  match firstOf waits s.hub.launches with
  | some l => s.onLaunch l.id fun l => { l with notices := l.notices ++ [(k.src, s.now)] }
  | none => s
/-- HNFY_NOTICE_ACCEPT (R289, R386, R407): a notice enters the ring, or goes to the firmware; a full ring refuses it, and a ready notice waits for an active watch. -/
def execHnfyNoticeAccept (pkt : Nat) (s : State) : Out :=
  event (fun s =>
    match s.packet pkt with
    | none => s
    | some k =>
      match k.body with
      | .notice a b =>
        if k.accepted.isNone then s else
        if a.extractLsb' 56 8 = 0xFF then
          if a.toNat % 2 ^ 56 = 1 then
            if s.active then (((s.onHub fun h => h.raise 1 0).readyNotice k).dropPacket pkt).remoteDone k else s
          else if a.toNat % 2 ^ 56 = 2 then
            let t := ((s.onHub fun h => h.raise 1 0).dropPacket pkt).remoteDone k
            if s.still k.src k.cmd then t.also (execHubSnapshot k.src) else t
          else ((s.onHub fun h => { h.raise 1 0 with otherNotices := h.otherNotices + 1 }).dropPacket pkt).remoteDone k
        else if (s.hub.notice.head - s.hub.notice.tail).toNat = 4096 then s.refuseForNow k
        else
          let id : DWord := match k.launch with | some l => BitVec.ofNat 64 l <<< 32 | none => 0
          let record : List DWord := [a, b, BitVec.ofNat 64 (k.src + 65536 * (k.sctx % 16)) ||| id, BitVec.ofNat 64 s.now]
          ((s.onHub fun h => { h with notice := h.notice.enter 4096 record }.raise 0 1).dropPacket pkt).remoteDone k
      | _ => s) s

/-! ## Steps 5 and 6: the latch and the launch instant (R307 to R312) -/

/-- Every ready notice of a launch has come. -/
def Launch.allReady (l : Launch) : Bool := l.grantedCores.all fun p => l.notices.any fun n => n.1 == p
/-- A launch instant for a launch whose notices have come (R309; log 4): none where the required one cannot be met. -/
def State.chooseInstant (s : State) (l : Launch) : Option Nat :=
  let last := l.notices.foldl (fun m n => max m n.2) 0
  let low := max (last + 1024) (s.now + 256)
  if l.required = 0 then some ((low + 15) / 16 * 16 + 16 * s.anyBelow 8600 64)
  else if low ≤ l.required && l.required % 16 = 0 then some l.required else none
/-- A clock step is due (R430). -/
def Hub.stepDue (h : Hub) : Bool := h.power.extractLsb' 0 2 != h.power.extractLsb' 2 2
/-- LAUNCH_LATCH_WRITE (R307 step 5, R309). -/
def execLaunchLatchWrite (launch : Nat) (s : State) : Out :=
  event (fun s =>
    match s.launchOf launch with
    | some l =>
      if l.stage ≠ .granted || !l.allReady || !s.active then s else
      match s.chooseInstant l with
      | none => s.refuseLaunch l
      | some t =>
        let s1 := s.onLaunch l.id fun l => { l with stage := .latched, instant := some t, step := s.hub.stepDue }
        l.grantedCores.foldl (fun s p =>
          (s.onCore p fun c => { c with latch := some t }).logReceive p 0x0A 0 hubId 0 (BitVec.ofNat 64 t) 0 8 [] (some (.latch t))) s1
    | none => s) s
/-- LAUNCH_DEADLINE_EXPIRY (R310): a ready notice has not come in time. -/
def execLaunchDeadlineExpiry (launch : Nat) (s : State) : Out :=
  event (fun s =>
    match s.launchOf launch with
    | some l =>
      match l.deadline with
      | some d => if l.stage = .granted && !l.allReady && d < s.now then s.refuseLaunch l else s
      | none => s
    | none => s) s
/-- A worker as a launch starts it (R38, R308). -/
def Launch.worker (l : Launch) (c n now : Nat) (entry : DWord) : Ctx :=
  { Ctx.reset with
    st := .run, turn := 1, ran := true, next := entry, base := now, launch := some l.id.toNat,
    xs := [(2, BitVec.ofNat 64 (0x78000 + 0x600 * (n + 1))), (3, l.x3), (4, l.x4), (5, l.x5), (6, l.x6), (7, l.x7)],
    seed := l.seed + BitVec.ofNat 64 (16 * c + n) * 0x9E3779B97F4A7C15 }
/-- The core's launch before launch l was another tenant's: as compared at the grant, and now (R428). -/
def Core.newTenant (c : Core) (l : Launch) : Bool :=
  c.lastTenant != l.tenant || c.launches.any fun k => k.id == l.id && k.wipe
/-- What another tenant's launch finds zeroed on a core (R38, R428). -/
def Core.forTenant (c : Core) (owner : BitVec 32) (wipe : Bool) : Core :=
  if !wipe then c
  else { c with ks := c.ks.filter (fun k => decide (k.1 < 8)), ws := [], accs := [], lastTenant := owner }
/-- C0's time base is the launch instant, as every context's is (R51), and its turn counter restarts with it; the core turn that begins there counts (R305). -/
def Ctx.rebase (x : Ctx) (now : Nat) : Ctx :=
  let runs := x.st = .run || x.st = .park
  { x with base := now, turn := if runs then 1 else 0, disp := if runs then 0 else 1, ran := runs }
/-- Step 6 on one core. -/
def Core.beginLaunch (c : Core) (l : Launch) (p : Nat × Option Nat × Nat) (now : Nat) : Core :=
  let c1 := c.forTenant l.tenant (c.newTenant l)
  let c2 := (l.starts p.2.1).foldl (fun c k => c.setCtx k.1 (l.worker p.2.2 k.1 now k.2)) c1
  let c3 : Core := if l.tide || c.launches.length = 1 then { c2 with routes := c2.shadow, tideBase := now, period := l.period } else c2
  -- A mark takes effect here (R432).
  let c4 : Core := { c3 with
    latch := none
    launches := c3.launches.map fun (k : CoreLaunch) => if k.id = l.id then { k with cls := c.degraded } else k }
  match l.c0entry with
  | none => c4.onCtx 0 fun x => x.rebase now
  | some e =>
    let start (x : Ctx) : Ctx := { x with st := .run, next := e, hold := none, levels := [], frozen := 0, capture := [] }
    { (c4.onCtx 0 fun x => (start x).rebase now) with handler := false }
/-- Cycles of the harts' 1.6 GHz clock in a device cycle at the step in force, in 63rds (R378, R429). -/
def Hub.hartRate (h : Hub) : Nat := match (h.power.extractLsb' 0 2).toNat with | 0 => 96 | 1 => 112 | _ => 144
/-- The harts' clock at a device cycle, in 63rds of a cycle of theirs. -/
def Hub.hartClock (h : Hub) (now : Nat) : Nat := h.clockBase.2 + (now - h.clockBase.1) * h.hartRate
/-- The step in force becomes the requested one, and the link table shows its latencies (R430). -/
def Hub.takeStep (h : Hub) (now : Nat) : Hub :=
  let n := (h.power.extractLsb' 2 2).toNat
  let lat (k : Nat) (v : DWord) : DWord := match find h.trained k with
    | some l => v.extractLsb' 12 52 ++ (nthD (v.setWidth 12) l n)
    | none => v
  { h with power := h.power.extractLsb' 2 62 ++ h.power.extractLsb' 2 2, launches := h.launches.map fun l => { l with step := false }, links := h.links.map fun kv => (kv.1, lat kv.1 kv.2),
           clockBase := (now, h.hartClock now) }
/-- LAUNCH_INSTANT (R307 step 6). -/
def execLaunchInstant (launch : Nat) (s : State) : Out :=
  event (fun s =>
    match s.launchOf launch with
    | some l =>
      if l.stage ≠ .latched || l.instant ≠ some s.now then s else
      let wiped (v : Cove) : Bool := match v.owner with
        | some (p, i) => i == l.id.toNat && (v.tenant != l.tenant || (s.core p).newTenant l)
        | none => false
      let wipe (v : Cove) : Cove := if wiped v then { Cove.reset with owner := v.owner, tenant := l.tenant } else v
      let s1 : State := { s with coves := s.coves.map fun kv => (kv.1, wipe kv.2) }
      let s2 := l.parties.foldl (fun s p => s.onCore p.1 fun c => c.beginLaunch l p s.now) s1
      let shores := l.reach.map shoreKey
      let clear (kb : Nat × Barrier) : Nat × Barrier := if shores.contains (kb.1 / 32) then (kb.1, { kb.2 with init := false }) else kb
      let s3 : State := { s2 with barriers := s2.barriers.map clear }
      (s3.onLaunch l.id fun l => { l with stage := .running }).onHub fun h => if l.step then h.takeStep s.now else h
    | none => s) s

/-! ## Slack water (R316 to R319) -/

/-- A core is quiescent for a launch (R316 to R318). -/
def State.quiescent (s : State) (p id : Nat) : Bool :=
  let c := s.core p
  let cmd (k : Cmd) : Bool := k.launch == some id
  let isRecord (r : Reply) : Bool := match r with | .record _ => true | _ => false
  (c.ctxs.all fun kx => kx.1 == 0 || kx.2.launch != some id || kx.2.st == .free || kx.2.st == .halt ||
    kx.2.seeking) &&
  !(c.pool.any fun kq => kq.2.launch == some id && !kq.2.seeking) && c.swapping.isEmpty && c.resuming.isEmpty && c.changes.isEmpty &&
  c.deque.isEmpty && c.chainEmpty &&
  !((c.mq ++ c.mwait ++ c.mflight ++ c.eq ++ c.ewait ++ c.eflight).any cmd) &&
  (c.ctxs.all fun kx => kx.2.launch != some id || kx.2.relaxed.all (·.performed)) && c.turnOps.isEmpty &&
  !(s.packets.any fun k => k.src == p && k.launch == some id && (match k.body with
    | .reply _ r => isRecord r
    | .steal | .cancel _ => false
    | _ => true)) &&
  (c.ctx 0).st == .stop && c.delivered.isNone && c.nextPending.isNone
/-- Step 1 of the end of a launch (R319): its workers are FREE, and the requests of a seeking STEAL are discarded. -/
def State.freeWorkers (s : State) (l : Launch) : State :=
  let t := l.grantedCores.foldl (fun s p => s.onCore p fun c => c.freeWorkers l.id.toNat) (s.dropTraffic l.id.toNat false)
  t.onLaunch l.id fun l => { l with stage := .flushing }
/-- Steps 3 and 4: what the launch holds is released, and its completion is signalled. -/
def State.endLaunch (s : State) (l : Launch) : State :=
  ((s.releaseLaunch l).finishPacket l.queue l.key (BitVec.ofNat 64 l.caddr) l.cval).tryReport l.queue
/-- SLACK_WATER_SAMPLE (R318, R319): the cores of every running launch are sampled at multiples of 64; a launch whose AND has been formed frees its workers, and ends once the stack holds every word that it staged. -/
def execSlackWaterSample (s : State) : Out :=
  event (fun s =>
    let sample (l : Launch) : Launch :=
      if s.now % 64 = 0 && l.stage == .running && l.slack.isNone && (l.grantedCores.all fun p => s.quiescent p l.id.toNat)
      then { l with slack := some (s.now, s.now + 1 + s.anyBelow (8700 + l.id.toNat % 256) 192), stage := .draining } else l
    let t := s.onHub fun h => { h with launches := h.launches.map sample }
    let due := t.hub.launches.filter fun l => l.stage == .draining && (match l.slack with | some (_, d) => decide (d ≤ s.now) | none => false)
    let u := due.foldl (fun s l => s.freeWorkers l) t
    let ended := u.hub.launches.filter fun l => l.stage == .flushing && !u.stagedFor l.id.toNat
    ended.foldl (fun s l => s.endLaunch l) u) s

/-! ## The Ebb wheel (R404) -/

/-- An entry of the wheel is released at a tick: MISSED is written and its packet is started for its owner; one whose packet cannot be started is a queue error, and the entry is freed or goes on all the same. -/
def State.releaseEntry (s : State) (e : Nat) (x : WheelEntry) : State :=
  let q := x.owner.toNat
  let k := if x.period = 0 then 1 else (s.now - x.due.toNat) / x.period.toNat + 1
  let root := (s.queue q).droot
  let done (busy : Option Nat) (s : State) : State := s.onHub fun h =>
    if x.period = 0 then { h with wheel := del h.wheel e }
    else { h with wheel := put h.wheel e { x with due := x.due + BitVec.ofNat 64 k * x.period, busy := busy.isSome, released := busy } }
  match s.hubPa root.toNat true x.rpkt.toNat with
  | none => done none (s.queueFail q 5)
  | some pa =>
    let s1 := (s.putStack (pa + 4) (bytesOf 4 (k - 1))).oweBursts 0 (s.hubBursts root x.rpkt.toNat 64)
    match s.hubRead root x.rpkt.toNat 64 with
    | .error _ => done none (s1.queueFail q 5)
    | .ok bs =>
      let p := dwords 8 bs
      if packetType p ≠ 1 && packetType p ≠ 3 then done none (s1.queueFail q 5)
      else if packetBad false p then done none (s1.queueFail q 3)
      else if packetType p = 3 then done none (s1.hubSignal q (none, none) p) else
      let s2 := s1.oweBursts 0 (s1.hubBursts root (nthD 0 p 1).toNat 256)
      match s1.hubRead root (nthD 0 p 1).toNat 256 with
      | .error e => done none (s2.queueFail q (BitVec.ofNat 8 e))
      | .ok b =>
        let (s3, id) := s2.startLaunch q none p (dwords 32 b)
        done id (s3.onQueue q fun c => match id with | some n => { c with open_ := c.open_ ++ [(none, some n)] } | none => c)
/-- EBB_WHEEL_TICK (R404). -/
def execEbbWheelTick (s : State) : Out :=
  event (fun s =>
    if s.now % 1024 ≠ 0 then s else
    s.hub.wheel.foldl (fun s ke =>
      let x := ke.2
      if x.armed && decide (x.due.toNat ≤ s.now) && !x.busy && (s.queue x.owner.toNat).state == 1 && s.active then s.releaseEntry ke.1 x
      else s) s) s

end Sys2Proof.Machine
end

