-- ==== Sys2Proof/Machine/Harts.lean ====
section
/-! DEFINITION. The hub control space, core control, shootdowns, and the harts' accesses, beats, takeover and boot (spec/17_lighthouse_and_harbour_queues.md R377 to R389, R405 to R407; spec/15_memories_and_translation.md R357). The places of the hub status block that R383 and R429 leave open are the model's: log 25. -/
namespace Sys2Proof.Machine

/-! ## Core control (R385) -/

/-- C0 of a core is stopped by a trap delivered to the mode of a command; the management port may act for either (R385, R428). -/
def State.mayRestart (s : State) (mode : HartMode) (p : Nat) : Bool :=
  match (s.core p).delivered, mode with
  | some toS, .machine => !toS
  | some toS, .supervisor => toS
  | some _, .port => s.hub.debug != 0
  | _, _ => false
/-- The outcome of a core-control command: REFUSED, or done. -/
def State.controlDone (s : State) (refused : Bool) : State := s.onHub fun h => { h with ctlStatus := if refused then 2 else 0 }
/-- C0 runs on at an address from the next core turn (R263, R385). Its open levels close unless it goes on at its EPC, which no rule states: log 18. -/
def State.restartC0 (s : State) (p : Nat) (at_ : DWord) (keep : Bool) : State :=
  s.onCore p fun c =>
    let c1 := c.onCtx 0 fun x =>
      { x with next := at_, hold := none, levels := if keep then x.levels else [], frozen := if keep then x.frozen else 0, capture := if keep then x.capture else [] }
    { c1 with changes := c1.changes ++ [.resume 0 .run] }
/-- CORE_CONTROL_RESTART_EPC (R385, action 1). -/
def execCoreControlRestartEpc (mode : HartMode) (core : Nat) (s : State) : Out :=
  event (fun s =>
    if s.mayRestart mode core then (s.restartC0 core (s.ctx core 0).epc true).controlDone false else s.controlDone true) s
/-- CORE_CONTROL_RESTART_DATA (R385, action 2). -/
def execCoreControlRestartData (mode : HartMode) (core : Nat) (s : State) : Out :=
  event (fun s =>
    if s.mayRestart mode core then (s.restartC0 core s.hub.ctlData false).controlDone false else s.controlDone true) s
/-- CORE_CONTROL_SET_DELEG (R385, action 3): bit 0x1D stays 0. -/
def execCoreControlSetDeleg (mode : HartMode) (core : Nat) (s : State) : Out :=
  event (fun s =>
    if mode = .machine then (s.onCore core fun c => { c with deleg := s.hub.ctlData &&& ~~~bitAt 0x1D }).controlDone false
    else s.controlDone true) s
/-- A migration request becomes pending in a C0 (R281, R326, R335). -/
def State.requestMigration (s : State) (p : Nat) (v : DWord) : State :=
  (s.onCore p fun c => { c with pending := { c.pending with migration := c.pending.migration ++ [v] } }).logReceive p 0x0A 0 hubId 0 v 0 8 [] (some (.migration v))
/-- CORE_CONTROL_MIGRATION (R385, action 4). -/
def execCoreControlMigration (mode : HartMode) (core : Nat) (s : State) : Out :=
  event (fun s =>
    match mode with
    | .machine | .supervisor => (s.requestMigration core s.hub.ctlData).controlDone false
    | _ => s.controlDone true) s
/-- The active watch's firmware writes a decision to the area that its gqstate names, if that is one, before it acts on it (R406): where in the page, and what, no rule states (log 71). -/
def State.persist (s : State) : State :=
  match firstOf (fun kw => kw.2.active) s.hub.watches with
  | some (_, w) =>
    let a := w.gqstate.toNat
    if a = 0 || cliffSize < a + 4096 then s else
    let pa := a + 8 * s.anyBelow 8960 512
    ((s.setStackWord pa (s.anyWord 8961)).charge pa 8).bump
  | none => s
/-- A write of CMD (R385): an unknown action or a reserved bit is refused. What the firmware does about a core's trap it first notes (R406). -/
def State.coreCommand (s : State) (mode : HartMode) (v : DWord) : State :=
  let s := if mode == .port then s else s.persist
  let p := (v.extractLsb' 0 16).toNat
  if v.extractLsb' 20 44 != 0 || !physValid p then s.controlDone true else
  match (v.extractLsb' 16 4).toNat with
  | 1 => s.also (execCoreControlRestartEpc mode p)
  | 2 => s.also (execCoreControlRestartData mode p)
  | 3 => s.also (execCoreControlSetDeleg mode p)
  | 4 => s.also (execCoreControlMigration mode p)
  | _ => s.controlDone true

/-! ## Shootdowns (R357, R384) -/

/-- A range of n bytes from `lo` of a space that a shootdown names. -/
def Hub.shoots (h : Hub) (space : Half) (instr : Bool) (lo n : Nat) : Bool :=
  h.sdSel.extractLsb' 0 16 == space && h.sdSel.getLsbD (if instr then 17 else 16) &&
  (h.sdSel.getLsbD 18 || decide (lo < h.sdVa.toNat + h.sdLen.toNat && h.sdVa.toNat < lo + n))
/-- A walk has read a table entry over a range that a shootdown names: the first that it reads covers 2^38 bytes (R352, R357). -/
def Hub.shotWalk (h : Hub) (w : Walk) : Bool :=
  decide (w.level < 6) && h.shoots w.space w.instr (w.va / 2 ^ 38 * 2 ^ 38) (2 ^ 38)
/-- A copy's translation used what a shootdown names: pages found, or a walk under way. -/
def State.shotCopy (s : State) (k : Copy) : Bool :=
  match s.launch k.launch with
  | none => false
  | some l =>
    k.stage != .ended && (k.pages.any fun g => s.hub.shoots l.space (k.instr g.1) (k.walkVa g.1) (2 ^ g.2.1)) ||
    (match k.walk with
     | some i => s.walks.any fun w => w.id == i && s.hub.shotWalk w
     | none => false)
/-- SHOOTDOWN_GO (R357, R384): matching buffer entries go, matching walks start again, and the copies that used them are waited for; while BUSY it only sets OVERRUN. -/
def execShootdownGo (s : State) : Out :=
  event (fun s =>
    if s.hub.sdStatus.getLsbD 0 then s.onHub fun h => { h with sdStatus := h.sdStatus ||| 4 } else
    let wait := (s.copies.filter s.shotCopy).map (·.id)
    let again (w : Walk) : Walk :=
      if s.hub.shotWalk w then { w with level := 6, table := w.root, since := s.now } else w
    let stays (t : Tlb) : Bool := !(s.hub.shoots t.space t.instr (t.va / 2 ^ t.sz * 2 ^ t.sz) (2 ^ t.sz))
    { s with walks := s.walks.map again,
             quays := s.quays.map fun kq => (kq.1, { kq.2 with tlb := kq.2.tlb.filter stays }),
             hub := { s.hub with sdStatus := 1, sdWait := wait } }) s
/-- SHOOTDOWN_COMPLETE (R357): the copies waited for have completed or faulted. -/
def execShootdownComplete (s : State) : Out :=
  event (fun s =>
    if s.hub.sdStatus.getLsbD 0 && !(s.copies.any fun k => k.id ∈ s.hub.sdWait)
    then s.onHub fun h => { h with sdStatus := (h.sdStatus &&& 4) ||| 2, sdWait := [] } else s) s

/-! ## Power requests (R429) -/

/-- DIE_PARK_REQUEST (R429): a write of PARK. -/
def execDieParkRequest (park : BitVec 4) (s : State) : Out :=
  event (fun s => s.onHub fun h =>
    { h with power := h.power.extractLsb' 12 52 ++ park ++ h.power.extractLsb' 0 8 }) s
/-- CLOCK_STEP_REQUEST (R429): a write of NEXT; 3 leaves it unchanged. -/
def execClockStepRequest (next : BitVec 2) (s : State) : Out :=
  event (fun s => s.onHub fun h =>
    if next = 3 then h else
    let g := { h with power := h.power.extractLsb' 4 60 ++ next ++ h.power.extractLsb' 0 2 }
    -- A step that is no longer due is none of those whose latches were written while it was (R430).
    if g.stepDue then g else { g with launches := g.launches.map fun l => { l with step := false } }) s

/-! ## The hub control space (R383 to R389) -/

/-- A block of the hub control space, by its offset: its name, and the modes that may read and write it (R383). -/
inductive Block | status | timers | core | shootdown | windows | links | queues | wheel | rings | mRing
  deriving DecidableEq, Repr
/-- The block of an offset. -/
def blockOf (off : Nat) : Option Block :=
  if off < 0x10000 then some .status
  else if off < 0x20000 then some .timers
  else if off < 0x30000 then some .core
  else if off < 0x40000 then some .shootdown
  else if 0x80000 ≤ off && off < 0xA0000 then some .windows
  else if 0xA0000 ≤ off && off < 0xB0000 then some .links
  else if 0x100000 ≤ off && off < 0x120000 then some .queues
  else if 0x200000 ≤ off && off < 0x220000 then some .wheel
  else if off = 0x400020 || off = 0x400028 || (0x480000 ≤ off && off < 0x4C0000) then some .mRing
  else if 0x400000 ≤ off && off < 0x480000 then some .rings
  else none
/-- A mode may read, or write, a block (R383). -/
def Block.admits (b : Block) (mode : HartMode) (write : Bool) : Bool :=
  match mode with
  | .machine => true
  | .supervisor =>
    match b with
    | .timers | .mRing => false
    | .status | .links | .wheel => !write
    | _ => true
  | _ => false
/-- The management port reaches core control in the debug states that admit it (R385, R428). -/
def State.admits (s : State) (b : Block) (mode : HartMode) (write : Bool) : Bool :=
  b.admits mode write || (mode == .port && b == .core && s.hub.debug != 0)
/-- CTL of a queue (R389). -/
def Queue.ctl (k : Queue) : DWord :=
  (0 : BitVec 32) ++ k.err ++ (0 : BitVec 3) ++ BitVec.ofBool k.local_ ++ k.ports ++ k.log2n ++ (0 : BitVec 2) ++ k.state
/-- A register of a queue (R389). -/
def Queue.load (k : Queue) (off : Nat) : DWord :=
  match off with
  | 0x00 => k.ctl
  | 0x08 => k.cmd.setWidth 64
  | 0x10 => k.ring
  | 0x18 => k.rdidx.setWidth 64
  | 0x20 => k.wridx.setWidth 64
  | 0x28 => k.lastseq
  | 0x30 => k.droot
  | 0x38 => k.iroot
  | 0x40 => k.space.setWidth 64
  | 0x68 => k.drops
  | 0x70 => k.discard.setWidth 64
  | 0x78 => k.tenant.setWidth 64
  | _ => 0
/-- A register of a queue written while STATE is 0 (R389); the others do not change. -/
def Queue.store (k : Queue) (mode : HartMode) (off : Nat) (v : DWord) : Queue :=
  if k.state ≠ 0 then k else
  match off with
  | 0x00 => { k with log2n := v.extractLsb' 4 4, ports := v.extractLsb' 8 12, local_ := v.getLsbD 20 }
  | 0x10 => { k with ring := v &&& ~~~0xFFF }
  | 0x30 => { k with droot := v &&& 0x7FFFFFE000 }
  | 0x38 => { k with iroot := v &&& 0x7FFFFFE000 }
  | 0x40 => { k with space := v.setWidth 16 }
  | 0x78 => if mode = .machine then { k with tenant := v.setWidth 32 } else k
  | _ => k
/-- A word of the temperatures of a die (R433). -/
def Hub.tempWord (h : Hub) (n : Nat) : DWord :=
  BitVec.ofNat 64 (natOf ((upTo 8).map fun i => look 0 h.temps (8 * n + i)))
/-- A word of an entry of the Ebb wheel (R403). -/
def WheelEntry.load (x : WheelEntry) (n : Nat) : DWord :=
  match n with
  | 0 => (0 : BitVec 46) ++ BitVec.ofBool x.busy ++ BitVec.ofBool x.armed ++ (0 : BitVec 6) ++ x.owner
  | 1 => x.due
  | 2 => x.period
  | _ => x.rpkt
/-- A word of an entry of the Ebb wheel as M-mode writes it. -/
def WheelEntry.store (x : WheelEntry) (n : Nat) (v : DWord) : WheelEntry :=
  match n with
  | 0 => { x with owner := v.extractLsb' 0 10, armed := v.getLsbD 16, busy := v.getLsbD 17 }
  | 1 => { x with due := v }
  | 2 => { x with period := v }
  | _ => { x with rpkt := v }
/-- A word of a ring's record. -/
def HubRing.word (r : HubRing) (n : Nat) : DWord := nthD 0 (look [] r.recs (n / 4)) (n % 4)
/-- The identity public key (R382). -/
def identityKey : List Byte := edPublic Config.identitySeed
/-- A register of the status block; none where it has none (log 25). -/
def State.statusLoad (s : State) (off : Nat) : Option DWord :=
  if off < 0x20 then some (wordAt identityKey off)
  else if 0x40 ≤ off && off < 0x80 then some (wordAt s.hub.supDigest (off - 0x40))
  else if 0x88 ≤ off && off < 0xA8 then some (match s.hub.nonces.head? with | some (n, _) => wordAt n (off - 0x88) | none => 0)
  else if off = 0xB0 then some (BitVec.ofNat 64 (if s.hub.capture then 1 else 0))
  else if 0x100 ≤ off && off < 0x160 then some (BitVec.ofNat 64 (look 0 s.hub.malformed ((off - 0x100) / 8)))
  else if off = 0x200 then some s.hub.power
  else if 0x400 ≤ off && off < 0x500 then some (s.hub.tempWord ((off - 0x400) / 8))
  else none
/-- A register of the hub control space read; none for an access fault (R379, R383). -/
def State.hubLoad (s : State) (mode : HartMode) (off : Nat) : Option DWord :=
  let h := s.hub
  match blockOf off with
  | none => none
  | some b =>
    if off % 8 ≠ 0 || !s.admits b mode false then none else
    match b with
    | .status => s.statusLoad off
    | .timers =>
      if off < 0x10040 then some (look Hart.reset h.harts ((off - 0x10000) / 8)).mtimecmp
      else if 0x10100 ≤ off && off < 0x10140 then some (look Hart.reset h.harts ((off - 0x10100) / 8)).msip
      else none
    | .core => match off with | 0x20000 => some 0 | 0x20008 => some h.ctlData | 0x20010 => some h.ctlStatus | _ => none
    | .shootdown => match off with
      | 0x30000 => some h.sdSel | 0x30008 => some h.sdVa | 0x30010 => some h.sdLen | 0x30018 => some 0 | 0x30020 => some h.sdStatus
      | _ => none
    | .windows =>
      if off < 0x83000 then
        let w := look PeerWindow.reset h.windows ((off - 0x80000) / 32)
        some (match off / 8 % 4 with | 0 => w.base | 1 => w.target | 2 => w.ctl | _ => 0)
      else if off < 0x83060 then some (look 0 h.notifyBase ((off - 0x83000) / 8)) else none
    | .links => if off < 0xA00A0 then some (h.link ((off - 0xA0000) / 8)) else none
    | .queues => some ((s.queue ((off - 0x100000) / 128)).load (off % 128))
    | .wheel => some ((look WheelEntry.reset h.wheel ((off - 0x200000) / 32)).load (off / 8 % 4))
    | .rings =>
      if 0x440000 ≤ off then some (h.sTrap.word ((off - 0x440000) / 8))
      else if 0x410000 ≤ off && off < 0x430000 then some (h.notice.word ((off - 0x410000) / 8))
      else match off with
        | 0x400000 => some (h.notice.head.setWidth 64) | 0x400008 => some (h.notice.tail.setWidth 64)
        | 0x400010 => some (h.sTrap.head.setWidth 64) | 0x400018 => some (h.sTrap.tail.setWidth 64)
        | _ => none
    | .mRing => match off with
      | 0x400020 => some (h.mTrap.head.setWidth 64) | 0x400028 => some (h.mTrap.tail.setWidth 64)
      | _ => some (h.mTrap.word ((off - 0x480000) / 8))
/-- A register of the status block written; those that are read-only do not change (log 25). A write of the nonce register issues a nonce (R427). -/
def State.statusStore (s : State) (off : Nat) (v : DWord) : State :=
  if off = 0x80 then
    s.onHub fun h => { h with nonces := ((upTo 4).map (fun i => bytesOf 8 (s.anyWord (8900 + i)).toNat) |>.flatten, h.hartClock s.now) :: h.nonces }
  else if off = 0xB0 then s.onHub fun h => { h with capture := v.getLsbD 0 }
  else if off = 0x200 then (s.also (execDieParkRequest (v.extractLsb' 8 4))).also (execClockStepRequest (v.extractLsb' 2 2))
  else s
/-- A register of a queue written (R389, R398, R400, R402). -/
def State.queueStore (s : State) (mode : HartMode) (q off : Nat) (v : DWord) : State :=
  if off = 0x08 then
    (if v = 1 then s.also (execQueueCreate q) else if v = 2 then s.also (execQueueReset q)
     else if v = 3 then s.also (execQueueDestroy q) else s)
  else if off = 0x20 then s.also (execWridxWrite q (v.setWidth 32))
  else if 0x48 ≤ off && off < 0x68 then s.also (execQueueKeyWrite q ((off - 0x48) / 8) v)
  else s.onQueue q fun k => k.store mode off v
/-- A register of the hub control space written; none for an access fault (R379, R383). Read-only registers do not change. -/
def State.hubStore (s : State) (mode : HartMode) (off : Nat) (v : DWord) : Option State :=
  match blockOf off with
  | none => none
  | some b =>
    if off % 8 ≠ 0 || !s.admits b mode true then none else
    match b with
    | .status => if (s.statusLoad off).isSome || off = 0x80 then some (s.statusStore off v) else none
    | .timers =>
      let hart (n : Nat) (f : Hart → Hart) : State := s.onHub fun h => { h with harts := put h.harts n (f (look Hart.reset h.harts n)) }
      if off < 0x10040 then some (hart ((off - 0x10000) / 8) fun h => { h with mtimecmp := v })
      else if 0x10100 ≤ off && off < 0x10140 then some (hart ((off - 0x10100) / 8) fun h => { h with msip := v &&& 1 })
      else none
    | .core => match off with
      | 0x20000 => some (s.coreCommand mode v)
      | 0x20008 => some (s.onHub fun h => { h with ctlData := v })
      | 0x20010 => some s
      | _ => none
    | .shootdown => match off with
      | 0x30000 => some (s.onHub fun h => { h with sdSel := v &&& 0x7FFFF })
      | 0x30008 => some (s.onHub fun h => { h with sdVa := v &&& ~~~0xFFF })
      | 0x30010 => some (s.onHub fun h => { h with sdLen := v &&& ~~~0xFFF })
      | 0x30018 => some (s.also execShootdownGo)
      | 0x30020 => some s
      | _ => none
    | .windows =>
      if off < 0x83000 then
        let n := (off - 0x80000) / 32
        some (s.onHub fun h =>
          let w := look PeerWindow.reset h.windows n
          let w' : PeerWindow := match off / 8 % 4 with | 0 => { w with base := v } | 1 => { w with target := v } | 2 => { w with ctl := v } | _ => w
          { h with windows := put h.windows n w' })
      else if off < 0x83060 then some (s.onHub fun h => { h with notifyBase := put h.notifyBase ((off - 0x83000) / 8) (v &&& ~~~0xFFF) })
      else none
    | .links =>
      if off < 0xA00A0 then some (s.onHub fun h => { h with links := put h.links ((off - 0xA0000) / 8) (v &&& 0xFFFF3FFF) }) else none
    | .queues => some (s.queueStore mode ((off - 0x100000) / 128) (off % 128) v)
    | .wheel =>
      let e := (off - 0x200000) / 32
      some (s.onHub fun h => { h with wheel := put h.wheel e ((look WheelEntry.reset h.wheel e).store (off / 8 % 4) v) })
    | .rings => match off with
      | 0x400008 => some (s.onHub fun h => { h with notice := { h.notice with tail := v.setWidth 32 } })
      | 0x400018 => some (s.onHub fun h => { h with sTrap := { h.sTrap with tail := v.setWidth 32 } })
      | _ => if (s.hubLoad mode off).isSome then some s else none
    | .mRing => match off with
      | 0x400028 => some (s.onHub fun h => { h with mTrap := { h.mTrap with tail := v.setWidth 32 } })
      | _ => some s
/-- A watch of a hart, and one changed. -/
def State.watchOf (s : State) (w : Nat) : HartWatch := look HartWatch.reset s.hub.watches w
/-- A watch changed. -/
def State.onWatch (s : State) (w : Nat) (f : HartWatch → HartWatch) : State :=
  s.onHub fun h => { h with watches := put h.watches w (f (s.watchOf w)) }
/-- HUB_REGISTER_WRITE (R383): a hart's write of a hub control register; an offset from 0x1000000 + 0x1000 × hart on names the hart's CSR gqstate, 0x7C1 (R380; log 25). -/
def execHubRegisterWrite (mode : HartMode) (off : Nat) (v : BitVec 64) (s : State) : Out :=
  event (fun s =>
    if 0x1000000 ≤ off then
      let hart := (off - 0x1000000) / 0x1000
      if mode = .machine && hart < 8 && off % 0x1000 = 0x7C1 then s.onWatch (hart / 4) fun w => { w with gqstate := v &&& ~~~0xFFF } else s
    else (s.hubStore mode off v).getD s) s

/-! ## A hart's registers, traps and memory protection (R378; log 47) -/

/-- A hart. -/
def State.hart (s : State) (n : Nat) : Hart := look Hart.reset s.hub.harts n
/-- A hart changed. -/
def State.onHart (s : State) (n : Nat) (f : Hart → Hart) : State :=
  s.onHub fun h => { h with harts := put h.harts n (f (look Hart.reset h.harts n)) }
/-- A CSR as it is kept; 0 after reset. -/
def Hart.csr (h : Hart) (k : Nat) : DWord := look 0 h.csrs k
/-- A CSR set. -/
def Hart.setCsr (h : Hart) (k : Nat) (v : DWord) : Hart := { h with csrs := put h.csrs k v }
/-- The code of a privilege mode: U 0, S 1, M 3. -/
def modeCode : HartMode → Nat
  | .user => 0 | .supervisor => 1 | .machine | .port => 3
/-- The mode of a code. -/
def hartMode : Nat → HartMode
  | 0 => .user | 1 => .supervisor | _ => .machine
/-- n bits of a number from bit `lo` on. -/
def natBits (v lo n : Nat) : Nat := v / 2 ^ lo % 2 ^ n
/-- Bits of a word from bit `lo` on replaced. -/
def setBits (w : DWord) (lo n v : Nat) : DWord :=
  (w &&& ~~~(BitVec.ofNat 64 ((2 ^ n - 1) * 2 ^ lo))) ||| BitVec.ofNat 64 (v % 2 ^ n * 2 ^ lo)
/-- The new mstatus of a trap to S-mode, and of one to M-mode: the enable goes to its saved place, and the mode is kept. -/
def trapStatus (toS : Bool) (from_ : HartMode) (m : DWord) : DWord :=
  if toS then setBits (setBits (setBits m 5 1 (natBits m.toNat 1 1)) 1 1 0) 8 1 (modeCode from_)
  else setBits (setBits (setBits m 7 1 (natBits m.toNat 3 1)) 3 1 0) 11 2 (modeCode from_)
/-- A hart takes a trap out of a mode: an interrupt or an exception of a code, to M-mode or, where it is delegated, to S-mode. -/
def Hart.trap (h : Hart) (from_ : HartMode) (intr : Bool) (code : Nat) (tval : DWord) : Hart :=
  let toS := decide (modeCode from_ < 3) && (h.csr (if intr then 0x303 else 0x302)).getLsbD code
  let base := if toS then 0x100 else 0x300
  let tvec := h.csr (base + 5)
  let cause := BitVec.ofNat 64 (code + if intr then 2 ^ 63 else 0)
  let h1 := (((h.setCsr (base + 0x41) (h.pc &&& ~~~1)).setCsr (base + 0x42) cause).setCsr (base + 0x43) tval).setCsr 0x300
    (trapStatus toS from_ (h.csr 0x300))
  { h1 with
    mode := if toS then .supervisor else .machine
    pc := (tvec &&& ~~~3) + (if intr && tvec.getLsbD 0 then BitVec.ofNat 64 (4 * code) else 0) }
/-- What an access of a hart is for. -/
inductive RvAccess | fetch | load | store
  deriving DecidableEq, Repr
/-- The exceptions of an access: fault, page fault, misaligned address. -/
def RvAccess.fault : RvAccess → Nat
  | .fetch => 1 | .load => 5 | .store => 7
/-- Page fault. -/
def RvAccess.pageFault : RvAccess → Nat
  | .fetch => 12 | .load => 13 | .store => 15
/-- Misaligned address. -/
def RvAccess.misaligned : RvAccess → Nat
  | .fetch => 0 | .load => 4 | .store => 6
/-- The configuration of a PMP entry. -/
def Hart.pmpByte (h : Hart) (i : Nat) : Nat := natBits (h.csr (0x3A0 + i / 8 * 2)).toNat (8 * (i % 8)) 8
/-- How many of the low bits of a number, of which fuel are looked at, are ones before the first zero. -/
def trailingOnes : Nat → Nat → Nat
  | 0, _ => 0
  | fuel + 1, v => if v % 2 = 1 then 1 + trailingOnes fuel (v / 2) else 0
/-- The addresses that a PMP entry matches, from a first up to a last one excluded, at a granularity of 4 KiB (R378). -/
def Hart.pmpRange (h : Hart) (i : Nat) : Nat × Nat :=
  let at_ (i : Nat) : Nat := (h.csr (0x3B0 + i)).toNat
  match natBits (h.pmpByte i) 3 2 with
  | 1 => (if i = 0 then 0 else at_ (i - 1) / 1024 * 4096, at_ i / 1024 * 4096)
  | 3 =>
    let size := 2 ^ (trailingOnes 54 (at_ i ||| 0x1FF) + 3)
    (4 * at_ i / size * size, 4 * at_ i / size * size + size)
  | _ => (0, 0)
/-- PMP admits an access of n bytes (R378): the lowest entry that holds a byte of it decides; without one only M-mode may. -/
def Hart.pmpOk (h : Hart) (mode : HartMode) (k : RvAccess) (a n : Nat) : Bool :=
  match firstOf (fun i => decide ((h.pmpRange i).1 < a + n) && decide (a < (h.pmpRange i).2)) (upTo 16) with
  | none => modeCode mode == 3
  | some i =>
    decide ((h.pmpRange i).1 ≤ a) && decide (a + n ≤ (h.pmpRange i).2) &&
    ((modeCode mode == 3 && decide (h.pmpByte i < 128)) || natBits (h.pmpByte i) (match k with | .load => 0 | .store => 1 | .fetch => 2) 1 == 1)

/-! ## Loads and stores of harts (R378, R379) -/

/-- First address of the hub control space. -/
def hubSpace : Nat := 0x8010000000
/-- First address of a watch's SRAM. -/
def sramBase : Nat := 0x8000000000
/-- First address of the boot ROM. -/
def romBase : Nat := 0x8001000000
/-- What an access of n bytes at an address meets. -/
inductive HartPlace | cliff | sram | rom | hub (off : Nat) | nothing
  deriving DecidableEq, Repr
/-- The place of a physical address (R379). -/
def placeOf (pa n : Nat) : HartPlace :=
  if pa + n ≤ cliffSize then .cliff
  else if sramBase ≤ pa && pa + n ≤ sramBase + 2 ^ 22 then .sram
  else if romBase ≤ pa && pa + n ≤ romBase + 2 ^ 18 then .rom
  else if hubSpace ≤ pa && pa + n ≤ hubSpace + 2 ^ 24 then .hub (pa - hubSpace)
  else .nothing
/-- Memory that a hart reads or fetches: n bytes; none for an access fault. -/
def State.hartRead (s : State) (hart : Nat) (mode : HartMode) (k : RvAccess) (pa n : Nat) : Option DWord :=
  if !(s.hart hart).pmpOk mode k pa n then none else
  match placeOf pa n with
  | .cliff => if s.badRange pa n then none else some (BitVec.ofNat 64 (memRead s.cliff pa n))
  | .sram => some (BitVec.ofNat 64 (memRead (s.watchOf (hart / 4)).sram (pa - sramBase) n))
  | .rom =>
    if mode = .machine then some (BitVec.ofNat 64 (natOf ((upTo n).map fun i => Config.bootRom (pa - romBase + i)))) else none
  | .hub off => if n = 8 then s.hubLoad mode off else none
  | .nothing => none
/-- Memory that a hart writes; none for an access fault. -/
def State.hartWrite (s : State) (hart : Nat) (mode : HartMode) (pa : Nat) (bs : List Byte) : Option State :=
  if !(s.hart hart).pmpOk mode .store pa bs.length then none else
  match placeOf pa bs.length with
  | .cliff => some (s.putStack pa bs)
  | .sram => some ((s.breakReservations pa bs.length).onWatch (hart / 4) fun w => { w with sram := memPutBytes w.sram (pa - sramBase) bs })
  | .rom => none
  | .hub off => if bs.length = 8 then s.hubStore mode off (BitVec.ofNat 64 (natOf bs)) else none
  | .nothing => none
/-- A hart's access of n bytes takes its bursts of the Lighthouse class where it is one to Cliffstack (R346, R348). -/
def State.hartBursts (s : State) (pa n : Nat) : State := if placeOf pa n = .cliff then s.charge pa n else s
/-- LR, SC and AMOs work on Cliffstack and on the watch's own SRAM (R378). -/
def atomicPlace (pa n : Nat) : Bool :=
  match placeOf pa n with
  | .cliff | .sram => true
  | _ => false
/-- A word as an atomic of 64 or 32 bits returns it. -/
def atomicWord (wide : Bool) (v : DWord) : DWord := if wide then v else (v.extractLsb' 0 32).signExtend 64
/-- The value that an AMO of the RV64A extension stores, by its funct5; none for a code that it does not have. -/
def amoVal (wide : Bool) (op : BitVec 5) (old v : DWord) : Option DWord :=
  let zx (x : DWord) : Nat := if wide then x.toNat else (x.extractLsb' 0 32).toNat
  let lt := decide ((atomicWord wide old).toInt < (atomicWord wide v).toInt)
  let ltu := decide (zx old < zx v)
  match op.toNat with
  | 0 => some (old + v)
  | 1 => some v
  | 4 => some (old ^^^ v)
  | 8 => some (old ||| v)
  | 12 => some (old &&& v)
  | 16 => some (if lt then old else v)
  | 20 => some (if lt then v else old)
  | 24 => some (if ltu then old else v)
  | 28 => some (if ltu then v else old)
  | _ => none
/-- Bytes of an access of a hart. -/
def opBytes : HartOp → Nat
  | .load n | .fetch n => n
  | .store bs => bs.length
  | .lr w | .sc w _ | .amo w _ _ => if w then 8 else 4
/-- What an access is for: LR is a load, SC and an AMO are stores. -/
def opKind : HartOp → RvAccess
  | .fetch _ => .fetch
  | .load _ | .lr _ => .load
  | .store _ | .sc _ _ | .amo _ _ _ => .store
/-- An access performed at a physical address (R378, R379): the value that it returns and the state after it, none for an access fault. -/
def State.hartPerform (s : State) (hart : Nat) (mode : HartMode) (pa : Nat) (op : HartOp) : Option (DWord × State) :=
  let n := opBytes op
  let done (v : DWord) (t : State) : Option (DWord × State) := some (v, t.hartBursts pa n)
  match op with
  | .load _ | .fetch _ => (s.hartRead hart mode (opKind op) pa n).bind fun v => done v s
  | .store bs => (s.hartWrite hart mode pa bs).bind fun t => done 0 t
  | .lr w =>
    if !atomicPlace pa n then none else
    (s.hartRead hart mode .load pa n).bind fun v => done (atomicWord w v) (s.onHart hart fun h => { h with reservation := some (pa, w) })
  | .sc w v =>
    let clear (t : State) : State := t.onHart hart fun h => { h with reservation := none }
    if !atomicPlace pa n || !(s.hart hart).pmpOk mode .store pa n then none
    else if (s.hart hart).reservation = some (pa, w) then (s.hartWrite hart mode pa (bytesOf n v.toNat)).bind fun t => done 0 (clear t)
    else some (1, clear s)
  | .amo w f v =>
    if !atomicPlace pa n || !(s.hart hart).pmpOk mode .store pa n then none else
    (s.hartRead hart mode .load pa n).bind fun old =>
      (amoVal w f old v).bind fun u => (s.hartWrite hart mode pa (bytesOf n u.toNat)).bind fun t => done (atomicWord w old) t
/-- An access of a hart at a physical address (R378, R379): it returns its value, or the hart takes the exception. -/
def State.hartAccess (s : State) (hart : Nat) (mode : HartMode) (pa : Nat) (op : HartOp) : State :=
  let va := BitVec.ofNat 64 pa
  if opKind op ≠ .fetch && pa % opBytes op ≠ 0 then
    s.onHart hart fun h => { h.trap mode false (opKind op).misaligned va with misaligned := true, fault := false }
  else match s.hartPerform hart mode pa op with
  | none => s.onHart hart fun h => { h.trap mode false (opKind op).fault va with fault := true, misaligned := false }
  | some (v, t) => t.onHart hart fun h =>
      { h with result := (match op with | .store _ => h.result | _ => v), fault := false, misaligned := false }
/-- LIGHTHOUSE_LOAD_STORE (R378, R379): a hart that is halted or held in reset does nothing. -/
def execLighthouseLoadStore (hart : Nat) (mode : HartMode) (pa : Nat) (op : HartOp) (s : State) : Out :=
  event (fun s =>
    if 8 ≤ hart || (s.hart hart).halted || (s.watchOf (hart / 4)).inReset then s else s.hartAccess hart mode pa op) s
/-- MTIMECMP_MATCH (R378): a hart's timer interrupt is pending while the tide counter is at or past its mtimecmp. -/
def execMtimecmpMatch (hart : Nat) (s : State) : Out :=
  event (fun s => s.onHart hart fun h => { h with timerPending := decide (h.mtimecmp.toNat ≤ s.now % 2 ^ 64) }) s

/-! ## Beats and takeover (R405 to R407) -/

/-- A microsecond of the harts' 1.6 GHz clock, in 63rds of a cycle of theirs (R378). -/
def hartMicro : Nat := 1600 * 63
/-- A watch is beating: booted, not in reset, and heard from within 500 µs (R380, R405). -/
def State.beating (s : State) (w : Nat) : Bool :=
  let k := s.watchOf w
  k.booted && !k.inReset && decide (s.hub.hartClock s.now < k.lastBeat + 500 * hartMicro)
/-- PEER of gqwatch: the other watch has beaten within 500 µs (R380). -/
def State.heard (s : State) (w : Nat) : Bool := s.beating w && (s.watchOf w).beats != 0
/-- HEARTBEAT (R380, R405): a write of gqbeat. -/
def execHeartbeat (hart : Nat) (_ : BitVec 64) (s : State) : Out :=
  event (fun s =>
    if (s.watchOf (hart / 4)).inReset then s
    else s.onWatch (hart / 4) fun w => { w with beats := w.beats + 1, lastBeat := s.hub.hartClock s.now }) s
/-- The supervisor and the queue agents of the watch that takes over restart, in S-mode, at the recovery entry that the supervisor registered (R406): no rule says how it is registered, so the entry is a free value (log 71). -/
def State.recover (s : State) (watch : Nat) : State :=
  let entry := s.anyWord 8940
  (upFrom 1 3).foldl (fun t i => t.onHart (4 * watch + i) fun h =>
    { h with pc := entry &&& ~~~1, xs := [], mode := .supervisor, csrs := [], reservation := none }) s
/-- WATCH_FAILURE (R405, R406): the watch is held in reset; where it was active and the other is beating, the other takes over. -/
def execWatchFailure (watch : Nat) (s : State) : Out :=
  event (fun s =>
    let k := s.watchOf watch
    if !k.booted then s else
    let other := 1 - watch
    let t := s.onWatch watch fun w => { w with inReset := true, active := false, booted := false }
    if k.active && s.beating other then (t.onWatch other fun w => { w with active := true, irq := w.irq ||| 16 }).recover other else t) s

/-! ## Boot (R381) -/

/-- ASCII "GQFWIMG1". -/
def firmwareMagic : List Byte := [0x47, 0x51, 0x46, 0x57, 0x49, 0x4D, 0x47, 0x31]
/-- A key is accepted in the owner role (R427). -/
def Hub.ownerKey (h : Hub) (key : List Byte) : Bool := h.ownerHash.length == 32 && h.ownerHash == keyHash key
/-- A key is accepted in the Gelquenal role (R427). -/
def Hub.gelquenalKey (h : Hub) (key : List Byte) : Bool :=
  (Config.gelquenalKeyHashes.any fun k => k == keyHash key) && !(h.revoked.any fun k => k == keyHash key)
/-- Length of an image's body. -/
def imageLength (img : List Byte) : Nat := (wordAt img 8).toNat % 2 ^ 32
/-- The digest D of an image. -/
def imageDigest (img : List Byte) : List Byte := sha512 (img.take 0xC0 ++ (img.drop 0x100).take (imageLength img))
/-- The reason for which an image is rejected under keys that are accepted, by the order of R381: 1 its format, 2 its key, 3 its SVN, 4 its signature; 0 where it is accepted. -/
def Hub.imageFaultBy (h : Hub) (accepted : List Byte → Bool) (img : List Byte) : Nat :=
  let n := imageLength img
  let svn := ((wordAt img 8).extractLsb' 32 16).toNat
  let key := (img.drop 0x80).take 32
  let zero (a n : Nat) : Bool := ((img.drop a).take n).all (· == 0)
  if img.take 8 != firmwareMagic || (wordAt img 8).extractLsb' 48 16 != 0 || n % 64 ≠ 0 || 3 * 2 ^ 20 < n || img.length < 0x100 + n ||
     !zero 0x18 104 || !zero 0xA0 32 then 1
  else if !accepted key then 2
  else if svn < h.svnMin.toNat then 3
  else if !edVerify key (imageDigest img) ((img.drop 0xC0).take 64) then 4
  else 0
/-- The same of a firmware image. -/
def Hub.imageFault (h : Hub) (img : List Byte) : Nat := h.imageFaultBy h.gelquenalKey img
/-- The same of a supervisor image, under the key that the lifecycle state names (R381, R426). -/
def Hub.supervisorFault (h : Hub) (img : List Byte) : Nat :=
  h.imageFaultBy (if h.lifecycle = 0 then h.gelquenalKey else h.ownerKey) img
/-- The supervisor image that stands behind a firmware image in its slot (log 25). -/
def supervisorImage (slot : List Byte) : List Byte := slot.drop (0x100 + imageLength slot)
/-- The firmware of the watch that becomes active verifies the supervisor image: its digest, or zeros where it is rejected, which stops bring-up and is reported (R381, R382, R434). -/
def Hub.verifySupervisor (h : Hub) (slot : List Byte) : Hub :=
  let img := supervisorImage slot
  let ok := decide (h.supervisorFault img = 0)
  { h with
    supDigest := if ok then imageDigest img else List.replicate 64 0
    supervised := ok
    portReports := if ok then h.portReports else h.portReports ++ [5] }
/-- A watch that has accepted an image. -/
def HartWatch.load (w : HartWatch) (img : List Byte) (now : Nat) : HartWatch :=
  { w with
    booted := true
    lastBeat := now
    beats := 0
    sram := memPutBytes [] 0 ((img.drop 0x100).take (imageLength img))
    svn := (wordAt img 8).extractLsb' 32 16
    digest := imageDigest img
    entry := BitVec.ofNat 64 sramBase + wordAt img 16
    irq := 0
    sirq := 0
    gqstate := 0
    inReset := false
    bootReason := 0 }
/-- The harts of a watch, which come out of reset, leave the boot ROM for its firmware, in M-mode (R381; log 47). -/
def State.startHarts (s : State) (watch : Nat) : State :=
  (upTo 4).foldl (fun s i => s.onHart (4 * watch + i) fun h =>
    { h with pc := (s.watchOf watch).entry, xs := [], mode := .machine, csrs := [], reservation := none }) s
/-- WATCH_BOOT (R377, R381, R405): slot 0, else slot 1; a rejected watch stays in its ROM with the reason. Watch 0 is active after its first boot, watch 1 if no watch is; a watch that failed rejoins as standby. -/
def execWatchBoot (watch : Nat) (slot0 slot1 : List (BitVec 8)) (s : State) : Out :=
  event (fun s =>
    let img := if s.hub.imageFault slot0 = 0 then slot0 else slot1
    let r := s.hub.imageFault img
    let before := s.watchOf watch
    if r ≠ 0 then (s.onWatch watch fun w => { w with booted := false, active := false, bootReason := r }).onHub fun h =>
      { h with portReports := h.portReports ++ [2] } else
    let t := (s.onWatch watch fun w => w.load img (s.hub.hartClock s.now)).startHarts watch
    if watch = 0 && !before.booted && !before.inReset then
      let u := (t.onWatch 0 fun w => { w with active := true }).onHub fun h => h.verifySupervisor img
      if (u.watchOf 1).booted then u.onWatch 1 fun w => { w with active := false } else u
    else if t.active then t else (t.onWatch watch fun w => { w with active := true }).onHub fun h => h.verifySupervisor img) s

end Sys2Proof.Machine
end

