-- ==== Sys2Proof/Machine/Power.lean ====
section
/-! DEFINITION. Reset, links, temperature, parked dies, degraded cores, identity, lifecycle and debug states, the management port, logs and replay (spec/19_security_power_and_degraded_modes.md R426 to R434; spec/17_lighthouse_and_harbour_queues.md R382; spec/16_tidal_eddy_and_swell_fabric.md R370, R373; spec/14_faults_preemption_and_replay.md R326, R337 to R339; spec/15_memories_and_translation.md R360). -/
namespace Sys2Proof.Machine

/-! ## Reset (R38, R434) -/

/-- PACKAGE_RESET (R38, R427, R434 step 1): every piece of state takes its reset value but the fuses; what is outside the package goes on. -/
def execPackageReset (s : State) : Out :=
  event (fun s =>
    let h := s.hub
    { State.reset with
      free := s.free
      ids := s.ids
      inputs := s.inputs
      happenings := s.happenings
      cores := (s.cores.filter fun kc => kc.2.degraded).map fun kc => (kc.1, { Core.reset with degraded := true })
      hub := { Hub.reset with lifecycle := h.lifecycle, ownerHash := h.ownerHash, revoked := h.revoked, svnMin := h.svnMin } }) s

/-! ## Links (R369, R370, R373) -/

/-- A latency that a link may lock (R370). -/
def latencyOk (k : Nat) (l : BitVec 12) : Bool := if k < 4 then decide (32 ≤ l.toNat) && decide (l.toNat ≤ 48) else decide (64 ≤ l.toNat)
/-- The tide counter moves forward to meet another package's, while no launch runs (R370; log 33). -/
def State.alignTide (s : State) : Option Nat → State
  | some t => if s.now < t && s.hub.launches.isEmpty then { s with now := t, hub := { s.hub with clockBase := (s.hub.clockBase.1 + (t - s.now), s.hub.clockBase.2) } } else s
  | none => s
/-- LINK_TRAINING (R370, R373, R388, R430): a link locks its latency at each clock step; one that is down comes back only at its previous latency, except when the pod is formed, which aligns the tide counters. -/
def execLinkTraining (k : Nat) (lats : List (BitVec 12)) (align : Option Nat) (s : State) : Out :=
  event (fun s =>
    -- Firmware trains links, and reports one that fails (R434).
    if 20 ≤ k || !(s.hub.watches.any fun kw => kw.2.booted) then s else
    let failed (s : State) : State := s.onHub fun h => { h with portReports := h.portReports ++ [3] }
    if lats.length ≠ 3 || !lats.all (latencyOk k) then failed s else
    let e := s.hub.link k
    let l := nthD 0 lats (s.hub.power.extractLsb' 0 2).toNat
    if e.getLsbD 12 && e.getLsbD 13 && look [] s.hub.trained k != lats && align.isNone then failed s else
    let count := (e.extractLsb' 16 16).toNat + (if e.getLsbD 12 then 1 else 0)
    (s.onHub fun h => { h with links := put h.links k (BitVec.ofNat 64 (l.toNat + 2 ^ 12 + 2 ^ 16 * (count % 65536))),
                               trained := put h.trained k lats }).alignTide align) s
/-- LINK_FAILURE (R373): the link is down, M-mode is told, and the started commands of its channels end. -/
def execLinkFailure (k : Nat) (s : State) : Out :=
  event (fun s =>
    if 20 ≤ k then s else
    let t := (s.onHub fun h => { h with links := put h.links k (h.link k ||| bitAt 13) }).noticeM 2 (BitVec.ofNat 64 k)
    let u := t.voidFlits k
    if 4 ≤ k then u.failLink (k - 4) else u) s
/-! ## Temperature, degraded cores, parked dies (R326, R431 to R433) -/

/-- A migration request from the Lighthouse, raised when a watch is active (R326, R407). -/
def State.proposeMigration (s : State) (p : Nat) (v : DWord) : State :=
  if s.active then s.requestMigration p v else s.onHub fun h => { h with migrations := h.migrations ++ [(p, v)] }
/-- Requests that waited for an active watch are raised (R407). -/
def State.raiseMigrations (s : State) : State :=
  if !s.active || s.hub.migrations.isEmpty then s else
  s.hub.migrations.foldl (fun s m => s.requestMigration m.1 m.2) (s.onHub fun h => { h with migrations := [] })
/-- The target that a migration request for core p proposes: a core in no launch of the Lighthouse's own choice, or none (R326; log 15). -/
def State.proposedTarget (s : State) (p : Nat) : Nat :=
  let free := ordinaryCores.filter fun q => q != p && s.spare (BitVec.ofNat 64 q) && !s.hub.parking (dieOf q)
  let i := s.anyBelow (9700 + p % 4096) (free.length + 1)
  match nth free i with
  | some q => q
  | none => 0xFFFF
/-- TVAL of a migration request of the Lighthouse for core p (R326). -/
def State.migrationTval (s : State) (p reason temp shore : Nat) : DWord :=
  BitVec.ofNat 64 (s.proposedTarget p + 2 ^ 16 * reason + 2 ^ 24 * temp + 2 ^ 32 * shore)
/-- A shore's reading (R433). -/
def State.sample (s : State) (k : Nat) (t : BitVec 8) : State :=
  let old := look 0 s.hub.temps k
  let hot := s.hub.hot.contains k
  let s1 := s.onHub fun h => { h with
    temps := put h.temps k t
    hot := if t.toNat < 90 then h.hot.filter (· != k) else if 95 ≤ t.toNat && !hot then k :: h.hot else h.hot
    powered := h.powered && decide (t.toNat < 110)
    portReports := if t.toNat < 110 then h.portReports else h.portReports ++ [7] }
  if old.toNat < 95 && 95 ≤ t.toNat && !hot then
    ((s.cores.filter fun kc => isOrdinary kc.1 && shoreKey kc.1 == k && !kc.2.launches.isEmpty).map (·.1)).foldl
      (fun s p => s.proposeMigration p (s.migrationTval p 1 t.toNat (k % 64))) s1
  else s1
/-- THERMAL_SAMPLE (R433): readings by 64 × die + shore. -/
def execThermalSample (temps : List (Nat × BitVec 8)) (s : State) : Out :=
  event (fun s => temps.foldl (fun s k => if k.1 < 256 then s.sample k.1 k.2 else s) s) s
/-- DEGRADED_CORE_DETECT (R432): the core is marked; during a launch its later tile products are spoilt, M-mode is told and C0 gets 0x1C. -/
def execDegradedCoreDetect (core : Nat) (s : State) : Out :=
  event (fun s =>
    if (s.core core).launches.isEmpty then s.onCore core fun c => { c with degraded := true } else
    let spoil (l : CoreLaunch) : CoreLaunch := { l with failure := some (l.failure.getD s.now) }
    let t := s.onCore core fun c => { c with degraded := true, launches := c.launches.map spoil }
    (t.noticeM 3 (BitVec.ofNat 64 core)).proposeMigration core (s.migrationTval core 3 0 (shoreOf core))) s
/-- Bit d of PARK, and of PARKED (R429). -/
def Hub.parkAsked (h : Hub) (d : Nat) : Bool := h.power.getLsbD (8 + d)
/-- Bit d of PARKED. -/
def Hub.parked (h : Hub) (d : Nat) : Bool := h.power.getLsbD (12 + d)
/-- DIE_PARK (R431): once no launch holds a core of the die; the coves lose their contents. -/
def execDiePark (die : Nat) (s : State) : Out :=
  event (fun s =>
    if die < 4 && s.hub.parkAsked die && !s.hub.parked die && !(s.hub.launches.any fun l => l.grantedCores.any fun p => dieOf p == die) then
      { s with hub := { s.hub with power := s.hub.power ||| bitAt (12 + die) },
               coves := s.coves.filter fun kv => kv.1 / 64 != die }
    else s) s
/-- DIE_UNPARK (R431). -/
def execDieUnpark (die : Nat) (s : State) : Out :=
  event (fun s =>
    if die < 4 && !s.hub.parkAsked die && s.hub.parked die then s.onHub fun h => { h with power := h.power &&& ~~~bitAt (12 + die) } else s) s

/-! ## Identity, lifecycle, debug (R382, R426 to R428) -/

/-- ASCII "GQATTST1". -/
def attestMagic : List Byte := [0x47, 0x51, 0x41, 0x54, 0x54, 0x53, 0x54, 0x31]
/-- The signed part of an attestation report (R382). -/
def State.attestBody (s : State) (w : HartWatch) (nonce : List Byte) : List Byte :=
  attestMagic ++ bytesOf 8 (s.hub.lifecycle.toNat + 4 * BitVec.toNat (Hub.debug s.hub) + 2 ^ 16 * w.svn.toNat) ++ identityKey ++ w.digest ++
    s.hub.supDigest ++ nonce ++ bytesOf 8 s.now ++ List.replicate 8 0
/-- ATTESTATION_REPORT (R382): the active watch's firmware has the hub sign a report. -/
def execAttestationReport (nonce : List (BitVec 8)) (s : State) : Out :=
  event (fun s =>
    match firstOf (fun kw => kw.2.active) s.hub.watches with
    | some (_, w) =>
      if nonce.length ≠ 32 then s else
      let b := s.attestBody w nonce
      s.onHub fun h => { h with report := b ++ edSign Config.identitySeed (sha512 b) }
    | none => s) s
/-- Cliffstack and every local store zeroed (R426, R428), with what copies have still to write there. -/
def State.zeroStores (s : State) : State :=
  { s.mapCores fun _ c => { c with ls := [], poison := [] } with
    cliff := [], cliffBad := [],
    quays := s.quays.map fun kq => (kq.1, { kq.2 with staging := [] }),
    copies := s.copies.map fun (k : Copy) => { k with moves := k.moves.map fun m => { m with val := 0 }, drains := [] } }
/-- OWNER_KEY_FUSE (R426). -/
def execOwnerKeyFuse (hash : List (BitVec 8)) (s : State) : Out :=
  event (fun s => s.onHub fun h => if h.lifecycle = 0 && hash.length = 32 then { h with lifecycle := 1, ownerHash := hash } else h) s
/-- TENANT_LOCK (R426). -/
def execTenantLock (s : State) : Out :=
  event (fun s => s.onHub fun h => if h.lifecycle = 1 then { h with lifecycle := 2 } else h) s
/-- TENANT_UNLOCK (R426): every store is zeroed first. -/
def execTenantUnlock (s : State) : Out :=
  event (fun s =>
    if s.hub.lifecycle ≠ 2 then s else
    let t := s.zeroStores.mapCores fun _ c => { c with ks := [], ws := [], accs := [] }
    let keep (v : Cove) : Cove := { Cove.reset with owner := v.owner, tenant := v.tenant }
    { t with coves := t.coves.map fun kv => (kv.1, keep kv.2), hub := { t.hub with lifecycle := 1 } }) s
/-- ASCII "GQDBGTK1". -/
def tokenMagic : List Byte := [0x47, 0x51, 0x44, 0x42, 0x47, 0x54, 0x4B, 0x31]
/-- A debug token that the hub accepts (R427, R428). -/
def State.tokenOk (s : State) (t : List Byte) : Bool :=
  let h := s.hub
  let f (a n : Nat) : List Byte := (t.drop a).take n
  let code := (wordAt t 8).toNat
  let digest := sha512 (f 0 0x90)
  let cosigned := h.lifecycle == 1 && code == 2
  let fresh := h.nonces.any fun n => n.1 == f 0x30 32 && decide (h.hartClock s.now ≤ n.2 + 60000000 * hartMicro)
  t.length == 272 && f 0 8 == tokenMagic && (code == 1 || code == 2) && f 0x10 32 == identityKey && fresh &&
  h.launches.isEmpty && !(h.queues.any fun kq => kq.2.state == 3) &&
  (if code = 1 then h.ownerKey (f 0x50 32) else h.gelquenalKey (f 0x50 32)) && edVerify (f 0x50 32) digest (f 0x90 64) &&
  (if cosigned then h.ownerKey (f 0x70 32) && edVerify (f 0x70 32) digest (f 0xD0 64)
   else (f 0x70 32).all (· == 0) && (f 0xD0 64).all (· == 0)) &&
  !(h.lifecycle == 2 && code == 2)
/-- DEBUG_TOKEN (R427, R428): a refused token changes nothing; a co-signed one zeroes the stores first. -/
def execDebugToken (token : List (BitVec 8)) (s : State) : Out :=
  event (fun s =>
    if !s.tokenOk token then s else
    let code := (wordAt token 8).setWidth 2
    (if s.hub.lifecycle = 1 && code = 2 then s.zeroStores else s).onHub fun h => { h with debug := code }) s
/-- The port may halt harts and reach Cliffstack (R428). -/
def Hub.wideOpen (h : Hub) : Bool := h.debug == 2 && h.lifecycle != 2
/-- A context that the port reads or writes is in STOP. -/
def State.stopped (s : State) (p n : Nat) : Bool := n < 16 && (s.ctx p n).st == .stop
/-- What the port reads. -/
def State.reply (s : State) (bs : List Byte) : State := s.onHub fun h => { h with portReply := bs }
/-- PORT_ACCESS (R428): refused without effect where the lifecycle and debug states do not admit it. -/
def execPortAccess (core : Nat) (op : PortOp) (s : State) : Out :=
  event (fun s =>
    let still := !((s.core core).ctxs.any fun kx => kx.2.st == .run || kx.2.st == .park)
    let regs (n : Nat) : Bool := s.hub.opened && s.stopped core n
    match op with
    | .readLs a n => if s.hub.opened && still && a + n ≤ 2 ^ 19 then s.reply (memBytes (s.core core).ls a n) else s
    | .writeLs a bs =>
      if s.hub.opened && still && a + bs.length ≤ 2 ^ 19 then s.onCore core fun c => c.storeBytes a bs.length (natOf bs) else s
    | .readX n r => if regs n then s.reply (bytesOf 8 ((s.core core).xVal n (r.setWidth 6)).toNat) else s
    | .writeX n r v => if regs n && r != 0 then s.onCtx core n fun x => { x with xs := put x.xs r.toNat v } else s
    | .readV n r => if regs n then s.reply (bytesOf 32 ((s.core core).vVal n (r.setWidth 6)).toNat) else s
    | .writeV n r v => if regs n then s.onCtx core n fun x => { x with vs := put x.vs r.toNat v } else s
    | .readQ n => if regs n then s.reply [(s.ctx core n).qs] else s
    | .writeQ n v => if regs n then s.onCtx core n fun x => { x with qs := v ||| 1 } else s
    | .readPc n => if regs n then s.reply (bytesOf 8 (s.ctx core n).next.toNat) else s
    | .writePc n v => if regs n then s.onCtx core n fun x => { x with next := v, nextWritten := true } else s
    | .readSpr n r => if regs n then s.reply (bytesOf 8 ((s.ctx core n).spr r.toNat).toNat) else s
    | .writeSpr n r v =>
      if regs n && r.toNat ∈ [0x08, 0x09, 0x0A, 0x10, 0x11, 0x12, 0x16] && !(r == 0x08 && fcrRefused v)
      then s.onCore core fun c => c.store (.spr n r (xvalMask r.toNat)) (.word v) else s
    | .readK r => if s.hub.opened && still then s.reply (bytesOf 8 (look 0 (s.core core).ks r.toNat).toNat) else s
    | .writeK r v => if s.hub.opened && still then s.onCore core fun c => { c with ks := put c.ks r.toNat v } else s
    | .readW r => if s.hub.opened && still then s.reply (bytesOf 32 (look 0 (s.core core).ws r.toNat).toNat) else s
    | .writeW r v => if s.hub.opened && still then s.onCore core fun c => { c with ws := put c.ws r.toNat v } else s
    | .haltHart n => if s.hub.wideOpen && n < 8 then s.onHart n fun h => { h with halted := true } else s
    | .readCliff pa n => if s.hub.wideOpen && pa + n ≤ cliffSize && !s.badRange pa n then s.reply (memBytes s.cliff pa n) else s
    | .writeCliff pa bs => if s.hub.wideOpen && pa + bs.length ≤ cliffSize then s.putStack pa bs else s) s

/-! ## Scrubbing, logs and replay (R337 to R339, R360) -/

/-- CLIFFSTACK_SCRUB (R360): a corrected codeword is written back, which changes no value. -/
def execCliffstackScrub (_ : Nat) (s : State) : Out := event (fun s => s) s
/-- LOG_DRAIN (R337): a core's entries and trace records go to the replay buffer of the launch whose log they are. -/
def execLogDrain (core : Nat) (s : State) : Out := event (fun s => s.drainLog core) s

/-! ## Replay (R339; log 32) -/

/-- A command whose times are later by d cycles. -/
def Cmd.later (k : Cmd) (d : Nat) : Cmd := { k with issue := k.issue + d, started := k.started.map (· + d), began := k.began.map (· + d), until_ := k.until_ + d }
/-- A wait whose times are later. -/
def Park.later (k : Park) (d : Nat) : Park := { k with issue := k.issue + d }
/-- A write whose times are later. -/
def Write.later (w : Write) (d : Nat) : Write := { w with issue := w.issue + d, due := w.due.map (· + d) }
/-- A checkpoint's core as of a time later by d cycles: every cycle number that it holds moves with it. -/
def Core.later (c : Core) (d : Nat) : Core :=
  let ctx (x : Ctx) : Ctx := { x with
    base := x.base + d, seedWrite := x.seedWrite.map (· + d), parks := x.parks.map fun k => k.later d
    relaxed := x.relaxed.map fun r => { r with issue := r.issue + d, due := r.due + d } }
  let copy (q : PoolCopy) : PoolCopy := { q with
    base := q.base + d, parks := q.parks.map fun k => k.later d, writes := q.writes.map fun w => w.later d
    cmds := q.cmds.map fun k => k.later d }
  let cmds (l : List Cmd) : List Cmd := l.map fun k => k.later d
  { c with
    ctxs := c.ctxs.map fun kx => (kx.1, ctx kx.2), pool := c.pool.map fun kq => (kq.1, copy kq.2)
    writes := c.writes.map fun w => w.later d, tideBase := c.tideBase + d, retide := c.retide.map (· + d), latch := c.latch.map (· + d)
    mq := cmds c.mq, mwait := cmds c.mwait, mflight := cmds c.mflight, eq := cmds c.eq, ewait := cmds c.ewait, eflight := cmds c.eflight
    munit := c.munit + d, mtaken := 0, mdone := c.mdone.map fun k => (k.1, k.2 + d)
    flits := c.flits.map fun f => { f with cycle := f.cycle + d } }
/-- A checkpoint is placed on a spare core: the one of the lowest core that has one, with its receives at their offsets, in a cycle of the same place in its core turn; its cove's state too, where its core owned the cove (R339). -/
def State.beginReplay (s : State) (p : Nat) : State :=
  match s.hub.snapshots with
  | [] => s
  | (q, k) :: _ =>
    let d := s.now - k.cycle
    let owned := match k.cove.owner with | some (o, _) => o == q | none => false
    if d % 16 ≠ 0 || (owned && (s.cove (shoreKey p)).owner.isSome) then s else
    let rs := (s.hub.drained.filter fun r => r.1 == q && decide (k.cycle ≤ r.2.tide)).map fun r => (r.2.tide + d, r.2)
    let t := s.setCore p { k.core.later d with
      replay := rs, replaying := true, replayShift := d, replayOf := q, recvs := [], degraded := (s.core p).degraded }
    if owned then t.onCove (shoreKey p) fun _ => { k.cove with owner := k.cove.owner.map fun o => (p, o.2) } else t
/-- Replay stops with a report (R339). -/
def State.stopReplay (s : State) (p : Nat) : State :=
  (s.onCore p fun c => { c with replay := [], replaying := false }).noticeM 4 (BitVec.ofNat 64 p)
/-- The launch that a checkpoint was taken for. -/
def State.replayLaunch (s : State) (p : Nat) : Option Launch := (find s.hub.snapshots (s.core p).replayOf).bind (·.launch)
/-- A request that the replayed core performed is performed again (R339, kinds 0x01 and 0x07). -/
def Core.replayServe (c : Core) (r : Receive) : Body → Core
  | .access i b data => match c.access i r.laddr.toNat b data 0 with | some (d, _) => d | none => c
  | .signal op v => c.storeBytes r.laddr.toNat 8 (signalVal op (c.word r.laddr.toNat) v).toNat
  | .ringPush n v => ((c.ring n).bind fun h => c.ringPush h v).getD c
  | .ringPop n => match (c.ring n).bind fun h => c.ringPop h with | some (d, _) => d | none => c
  | .join => match c.join r.laddr.toNat with | .ok d => d | .error _ => c
  | .steal => if r.kind = 0x07 then { c with deque := c.deque.drop 1 } else c
  | .spawn entry seed x3 x4 x5 x6 x7 =>
    let n := r.value.toNat
    { c with changes := c.changes ++
        [.start n entry x3 x4 x5 x6 x7 (spawnSeed seed c.replayOf n) true ((c.launches.head?).map (·.id.toNat))] }
  | .message mb wake data =>
    { c with msgs := c.msgs ++ [⟨mb, r.src, r.sctx, data⟩],
             pending := if wake then { c.pending with wakes := c.pending.wakes ++ [wakeTval mb r.src r.sctx.toNat] } else c.pending }
  | _ => c
/-- A response that the replayed core got is given to the wait, the relaxed access or the command of the same context and address (R339, kinds 0x02 and 0x08). -/
def State.replayAnswer (s : State) (p : Nat) (r : Receive) (a : Reply) : State :=
  let n := r.ctx.toNat
  let c := s.core p
  let here (k : Park) : Bool := laddrOf k.a == r.laddr.toNat
  let pick (l : List Park) : Option Park :=
    let ws := l.filter fun k => k.ended == .waiting && k.kind == .eddy
    match firstOf here ws with | some k => some k | none => ws.head?
  match firstOf (fun k => k.ended == .waiting && here k) (c.ctx n).parks with
  | some k => s.respond p n k a
  | none =>
    match firstOf (fun q => q.remote && q.sent && !q.performed && laddrOf q.a == r.laddr.toNat) (c.ctx n).relaxed with
    | some q => s.respondRelaxed p q.id a
    | none =>
      match pick (c.ctx n).parks with
      | some k => s.respond p n k a
      | none =>
        match firstOf (fun kq => kq.2.ctx == n) c.pool with
        | some (e, q) => match pick q.parks with | some k => s.respondPool p e k a | none => s
        | none => s
/-- A line of a launch's linked code. -/
def Launch.codeLine (l : Launch) (va : Nat) : Option (List Byte) :=
  (firstOf (fun (i : Nat × Nat × List Byte) => decide (i.2.1 ≤ va) && decide (va < i.2.1 + i.2.2.length)) l.code).map fun i =>
    (i.2.2.drop (va - i.2.1)).take 64
/-- The lines of a CODEL that ends in a replay: those of the checkpoint's launch (R338, R339). -/
def State.replayCode (s : State) (p : Nat) (k : Cmd) : State :=
  match k.op, s.replayLaunch p with
  | .codel _ _ _, some l => s.onCore p fun c => (upTo k.b.toNat).foldl (fun c i =>
      let va := k.a.toNat + 64 * i
      match l.codeLine va with
      | some bs => { c with code := put c.code (va / 64 % 2048) ⟨va / 131072 % 2 ^ 31, bs⟩ }
      | none => c) c
  | _, _ => s
/-- A completion outside the core comes again: that of the command of its context and tag, with the late fault that it ended with (R339, kind 0x05). -/
def State.replayEnd (s : State) (p : Nat) (r : Receive) (fault : Option (DWord × DWord)) : State :=
  let tag := r.value.toNat % 64
  let late (n : Nat) (t : State) : State := match fault with
    | some (cause, v) => t.lateFault p n ⟨.engine s.now tag, cause, v, s.now⟩
    | none => t
  match firstOf (fun k => s.realCtx p k.ctx == r.ctx.toNat && tagOf k.op == some tag) (s.core p).eflight with
  | some k => late k.ctx ((s.replayCode p k).engineDone p k)
  | none => late r.ctx.toNat (s.onCtx p r.ctx.toNat fun x => { x with tags := x.tags ||| bitAt tag, tagOut := lessOne x.tagOut tag })
/-- A receive of words whose bytes were not captured. -/
def Receive.bare (r : Receive) : Bool := r.kind ∈ [(0x03 : BitVec 8), 0x04, 0x06] && r.bytes.isEmpty && r.len != 0
/-- A logged receive is written into a replaying core (R339): none where replay stops. A read of TIDE needs nothing, the core's time being the checkpoint's. -/
def State.replayOne (s : State) (p : Nat) (r : Receive) : Option State :=
  if r.gap || r.bare || r.kind = 0x0B then none else
  match r.what with
  -- What was sent again was discarded when it was sent first.
  | some (.packet (.reply _ .retry)) | some .noted => some s
  | some (.packet (.reply _ a)) => some (s.replayAnswer p r a)
  | some (.ended fault) => some (s.replayEnd p r fault)
  | some (.packet b) => some (s.onCore p fun c => c.replayServe r b)
  | some (.latch t) => some (s.onCore p fun c => { c with latch := some (t + c.replayShift) })
  | some (.migration v) => some (s.onCore p fun c => { c with pending := { c.pending with migration := c.pending.migration ++ [v] } })
  | some .descriptor => some (s.onCore p fun c => c.takeDescriptor r.bytes)
  | none =>
    match r.kind.toNat with
    | 0x04 | 0x06 => some (s.onCore p fun c => c.storeBytes r.laddr.toNat r.bytes.length (natOf r.bytes))
    | 0x05 => some (s.replayEnd p r none)
    | _ => some s
/-- The launch instant comes on a replaying core: the workers start (R307). -/
def State.replayInstant (s : State) (p : Nat) : State :=
  let c := s.core p
  if c.latch ≠ some s.now then s else
  match s.replayLaunch p with
  | none => s
  | some l =>
    match firstOf (fun k => k.1 == c.replayOf) l.parties with
    | some k => s.onCore p fun c => c.beginLaunch l k s.now
    | none => s
/-- REPLAY_RECEIVE (R339): on a replaying core the next receive of this cycle takes effect, and replay stops at one that cannot be replayed; on a spare core that holds nothing, replay begins. -/
def execReplayReceive (core : Nat) (s : State) : Out :=
  event (fun s =>
    let c := s.core core
    if !c.replaying then (if c.launches.isEmpty && isOrdinary core then s.beginReplay core else s) else
    let s := s.replayInstant core
    match c.replay with
    | [] => s
    | (t, r) :: rest =>
      if s.now < t then s
      else if t < s.now then s.stopReplay core else
      match s.replayOne core r with
      | some u => u.onCore core fun c => { c with replay := rest }
      | none => s.stopReplay core) s
/-- An outgoing request of a replaying core that the other core's log names in a cycle which the replay has passed (R339). -/
def State.outrun (s : State) (k : Packet) : Bool :=
  let c := s.core k.src
  let seen := s.hub.drained.filter fun r =>
    r.1 == k.dst && r.2.kind ∈ [(0x01 : BitVec 8), 0x03, 0x07] && r.2.src == s.logSender k && r.2.sctx.toNat == k.sctx % 16 &&
    r.2.laddr.toNat == k.laddr && (match find s.hub.snapshots c.replayOf with | some q => decide (q.cycle ≤ r.2.tide) | none => false)
  !k.body.isReply && !seen.isEmpty && seen.all fun r => decide (r.2.tide + c.replayShift < s.now)
/-- Packets and copies that replaying cores send are discarded, and a replay that is late with one stops (R339). -/
def State.dropReplayed (s : State) : State :=
  if !(s.cores.any fun kc => kc.2.replaying) then s else
  let away (p : Nat) : Bool := (s.core p).replaying
  let sent := s.packets.filter fun k => away k.src
  let t := { s with packets := s.packets.filter fun k => !away k.src, copies := s.copies.filter fun k => !away k.core }
  ((sent.filter s.outrun).map (·.src)).eraseDups.foldl (fun s p => s.stopReplay p) t

end Sys2Proof.Machine
end

