-- ==== Sys2Proof/Machine/Kernel.lean ====
section
/-! DEFINITION. What the Gelquenal micro-kernel of a core does on a descriptor (spec/13_execution_and_scheduling.md R307 step 4; spec/18_compatibility_and_code_loading.md R417; spec/14_faults_preemption_and_replay.md R334; spec/20_programs_number_and_text.md, spec/21_programs_kernel_and_migration.md R440). Its own code is not given, so each described action is performed as a whole, at once (log 30). -/
namespace Sys2Proof.Machine

/-- Physical addresses of words of the data space that a load list names, of which there are n; none where one is not mapped for reading. -/
def State.kernelAddrs (s : State) (root va : Nat) : Nat → Option (List Nat)
  | 0 => some []
  | n + 1 =>
    match s.hubPa root false va with
    | some pa => (s.kernelAddrs root (va + 8) n).map fun t => pa :: t
    | none => none
/-- Code lines from an instruction address on, of which there are n, each with its slot, its tag and the physical addresses of its words (R34, R286); none where one is not mapped, or its leaf has R = 0 (R353, R354). -/
def State.kernelLines (s : State) (root va : Nat) : Nat → Option (List (Nat × Nat × List Nat))
  | 0 => some []
  | n + 1 =>
    match s.hubLeaf true va 7 root with
    | some (e, lo) =>
      if !e.getLsbD 2 then none else
      let pa := leafAddr e + va % 2 ^ lo
      (s.kernelLines root (va + 64) n).map fun t => (va / 64 % 2048, va / 131072 % 2 ^ 31, (upTo 8).map fun i => pa + 8 * i) :: t
    | none => none
/-- M-mode is told of every word with an uncorrectable error that the micro-kernel's copies read on core p (R359). -/
def State.kernelNotices (s : State) (p : Nat) (l : Launch) (pas : List Nat) : State :=
  (pas.filter fun pa => s.badPiece pa).foldl (fun s pa => s.badNotice p 0 l.id.toNat 0 pa) s
/-- A code line is written; one with an uncorrectable error leaves its slot invalid (R286). -/
def State.kernelLine (s : State) (p : Nat) (l : Launch) (k : Nat × Nat × List Nat) : State :=
  let bytes := (k.2.2.map fun pa => bytesOf 8 (s.pieceWord pa).toNat).flatten
  (s.kernelNotices p l k.2.2).onCore p fun c =>
    { c with code := if k.2.2.any fun pa => s.badPiece pa then del c.code k.1 else put c.code k.1 ⟨k.2.1, bytes⟩ }
/-- A region of core p lies in banks that its C0 owns (R31, R216). -/
def State.kernelOwns (s : State) (p lo n : Nat) : Bool := (firstUnowned ((s.core p).banksOf 0) ⟨lo, n, true⟩).isNone
/-- One record of a load list is performed on core p (R417); none for a fault. -/
def State.kernelRecord (s : State) (p : Nat) (l : Launch) (r : List DWord) : Option State :=
  let g (i : Nat) : Nat := (nthD 0 r i).toNat
  match g 0 with
  | 1 => (s.kernelLines l.iroot.toNat (g 1) (g 2)).map fun ls => ls.foldl (fun s k => s.kernelLine p l k) s
  | 2 => if !s.kernelOwns p (g 2) (g 3) then none else
      (s.kernelAddrs l.droot.toNat (g 1) (g 3 / 8)).map fun pas =>
        (s.kernelNotices p l pas).onCore p fun c =>
          (c.putWords (g 2) (pas.map s.pieceWord)).noteWriter ((upTo (g 3 / 8)).map fun i => g 2 + 8 * i) p 256
  | 3 => if !s.kernelOwns p (g 2) (8 * g 3) then none else
      some (s.onCore p fun c => (upTo (g 3)).foldl (fun c i => c.setFull (g 2 + 8 * i) false) c)
  | 4 => (s.kernelAddrs l.droot.toNat (g 1) 256).bind fun pas =>
      let table := pas.map s.pieceWord
      if (upTo 256).any (routeBad p l.period table) then none else
      some ((s.kernelNotices p l pas).onCore p fun c =>
        { c with shadow := ((upTo 256).map fun n => (n, nthD 0 table n)).filter fun kv => kv.2 != 0 })
  | _ => some s
/-- The words of a load list in records of four. -/
def quads : List DWord → List (List DWord)
  | a :: b :: c :: d :: t => [a, b, c, d] :: quads t
  | _ => []
/-- The logical number of a launch's reach core (R11); none for an engine core. -/
def Core.logicalIn (c : Core) (l : Launch) : Option Nat :=
  match firstOf (fun (k : CoreLaunch) => k.id == l.id) c.launches with
  | some k => if k.logical = 0xFFFF then none else some k.logical.toNat
  | none => none
/-- Records of a load list are performed in order on core p; false at one that faults, what came before it staying done (R310). -/
def State.kernelRecords (s : State) (p : Nat) (l : Launch) : List (List DWord) → State × Bool
  | [] => (s, true)
  | r :: t =>
    match s.kernelRecord p l r with
    | some u => u.kernelRecords p l t
    | none => (s, false)
/-- A load list as it stands in Cliffstack (R417): its records up to END, of which fuel are looked at; none where it is not mapped for reading. -/
def State.readList (s : State) (root va : Nat) : Nat → Option (List (List DWord))
  | 0 => some []
  | fuel + 1 =>
    (s.kernelAddrs root va 4).bind fun pas =>
      let r := pas.map s.pieceWord
      if (nthD 0 r 0).toNat % 256 = 0 then some [] else (s.readList root (va + 32) fuel).map fun t => r :: t
/-- The load list of a launch is performed on core p: as Cliffstack holds it at the address that the descriptor names; where the model's free address is not mapped, the list that the Lighthouse made (log 15). -/
def State.kernelLoads (s : State) (p : Nat) (l : Launch) : State × Bool :=
  let made := quads (l.loadList p ((s.core p).logicalIn l))
  s.kernelRecords p l ((s.readList l.droot.toNat ((find l.loads p).getD 0) (made.length + 1)).getD made)
/-- C0 has taken the wake of its descriptor and returned from it, the message received: its registers show the trap (R22, R281). -/
def Core.kernelWake (c : Core) : Core :=
  { (c.onCtx 0 fun x => { x with epc := x.next, cause := causeOf 0x1B, tval := hubWake }) with
    pending := { c.pending with wakes := c.pending.wakes.erase hubWake }
    msgs := match firstOf (fun m : Msg => m.mb == 127) c.msgs with | some m => c.msgs.erase m | none => c.msgs }
/-- The ready notice of a core (R307 step 4, R386). -/
def readyWord : DWord := 0xFF00000000000001
/-- The micro-kernel answers a launch descriptor: the load list, then the ready notice; a fault is one of step 4 (R310). -/
def State.kernelLaunch (s : State) (p : Nat) (l : Launch) : State :=
  let (t, done) := s.kernelLoads p l
  if done then (t.send p 0 hubId 0 (.notice readyWord 0) 0 (some l.id.toNat)).2
  else t.onLaunch l.id fun l => { l with loadFault := true }
/-- The micro-kernel answers a migration descriptor: the load list, a RESUME of every valid entry in ascending order, and the image's code in C0 (R440). -/
def State.kernelMigration (s : State) (p : Nat) (l : Launch) : State :=
  let t := (s.kernelLoads p l).1
  let u := (t.core p).pool.foldl (fun s kq => s.resumeIn p kq.1 0 kq.2) t
  match l.c0entry with
  | none => u
  | some e => u.onCore p fun c =>
      let c1 := c.onCtx 0 fun x => { x with next := e, hold := none, levels := [], frozen := 0, capture := [] }
      { c1 with handler := false, changes := c1.changes ++ [.resume 0 .run] }
/-- C0 leaves the code of an image whose launch is cancelled: it is in STOP, and what it waited for is given up (R400, R401, R440; log 29). -/
def Core.leaveImage (c : Core) : Core :=
  let d := c.onCtx 0 fun x =>
    { x with st := .stop, hold := none, parks := [], relaxed := [], late := [], foot := [], levels := [], frozen := 0, capture := [] }
  { d with
    handler := false, delivered := none
    writes := d.writes.filter fun w => !(w.dst.ofCtx == some 0) && !(w.due.isNone && w.byCtx == 0)
    turnOps := d.turnOps.filter fun o => o.ctx != 0
    swapping := d.swapping.map fun (j : SwapJob) => { j with wait := none }
    changes := d.changes.filter fun g => match g with | .resume n _ => n != 0 | _ => true }
/-- The micro-kernel, and not image code, holds C0 of a core for a descriptor of a launch: no other launch there has c0entry; the cancellation of a launch whose image C0 runs takes C0 from it (R440; log 30). -/
def State.kernelHolds (s : State) (p : Nat) (l : Launch) (kind : Nat) : Bool :=
  let c := s.core p
  let other := c.launches.any fun k => k.id != l.id && (match s.launch (some k.id.toNat) with | some m => m.c0entry.isSome | none => false)
  (kind == 3 && l.c0entry.isSome) || (c.delivered.isNone && !c.handler && !(c.ctx 0).mmode && !other)
/-- A descriptor that waits in a core is answered by the micro-kernel. -/
def State.kernelServe (s : State) (p : Nat) : State :=
  let w := wordAt (s.core p).descriptor 0
  let kind := (w.extractLsb' 0 8).toNat
  let found := if (s.core p).replaying then s.replayLaunch p else s.launch (some (w.extractLsb' 32 32).toNat)
  match found with
  | none => s
  | some l =>
    if !s.kernelHolds p l kind then s else
    let t := s.onCore p Core.kernelWake
    match kind with
    | 1 => t.kernelLaunch p l
    | 2 => t.kernelMigration p l
    | 3 => if l.c0entry.isSome then t.onCore p Core.leaveImage else t
    | _ => t
/-- Every core whose C0 has the wake of a descriptor. -/
def State.kernelCycle (s : State) : State :=
  ((s.cores.filter fun kc => kc.2.pending.wakes.contains hubWake).map (·.1)).foldl (fun s p => s.kernelServe p) s

end Sys2Proof.Machine
end

