-- ==== Sys2Proof/Machine/Rv64.lean ====
section
/-! DEFINITION. The Lighthouse's harts as processors: RV64IMAC with Zicsr, Zifencei, Zba and Zbb, with M, S and U modes, Sv39 and Sv48, 16 PMP entries and the Gelquenal CSRs (spec/17_lighthouse_and_harbour_queues.md R377 to R381). The spec names these RISC-V standards and gives the options; what they fix is taken from the standards: log 47. -/
namespace Sys2Proof.Machine

/-! ## Translation (R378: Bare, Sv39, Sv48) -/

/-- A leaf entry admits an access of a mode: its R, W, X, U, A and D bits, under SUM and MXR of mstatus. -/
def leafAdmits (mstatus : DWord) (mode : HartMode) (k : RvAccess) (e : DWord) : Bool :=
  let u := e.getLsbD 4
  (match k with
   | .fetch => e.getLsbD 3
   | .load => e.getLsbD 1 || (mstatus.getLsbD 19 && e.getLsbD 3)
   | .store => e.getLsbD 2 && e.getLsbD 7) &&
  (if modeCode mode = 0 then u else !u || (k != .fetch && mstatus.getLsbD 18)) && e.getLsbD 6
/-- The physical address of a page-table leaf's page at a level, with the low bits of a virtual address; none where its page is misaligned. -/
def leafPa (e : DWord) (level va : Nat) : Option Nat :=
  let ppn := natBits e.toNat 10 44
  if ppn % 2 ^ (9 * level) ≠ 0 then none else some (4096 * ppn + va % 2 ^ (12 + 9 * level))
/-- A walk of a hart's page table from a level down: the physical address and the entries read, or an exception. -/
def State.hartWalk (s : State) (n : Nat) (mode : HartMode) (k : RvAccess) (va : Nat) : Nat → Nat → Except Nat (Nat × List Nat)
  | 0, _ => .error k.pageFault
  | level + 1, table =>
    let a := table + 8 * natBits va (12 + 9 * level) 9
    if !atomicPlace a 8 then .error k.fault else
    match s.hartRead n .supervisor .load a 8 with
    | none => .error k.fault
    | some e =>
      if !e.getLsbD 0 || (!e.getLsbD 1 && e.getLsbD 2) || e.extractLsb' 54 10 != 0 then .error k.pageFault
      else if e.getLsbD 1 || e.getLsbD 3 then
        match leafPa e level va with
        | some pa => if leafAdmits ((s.hart n).csr 0x300) mode k e then .ok (pa, [a]) else .error k.pageFault
        | none => .error k.pageFault
      else if e.getLsbD 4 || e.getLsbD 6 || e.getLsbD 7 then .error k.pageFault
      else match s.hartWalk n mode k va level (4096 * natBits e.toNat 10 44) with
        | .ok (pa, used) => .ok (pa, a :: used)
        | .error c => .error c
/-- The physical address of a virtual one, with the table entries read, or an exception. -/
def State.hartTranslate (s : State) (n : Nat) (mode : HartMode) (k : RvAccess) (va : DWord) : Except Nat (Nat × List Nat) :=
  let satp := ((s.hart n).csr 0x180).toNat
  let m := natBits satp 60 4
  if modeCode mode = 3 || m = 0 then .ok (va.toNat, []) else
  let levels := if m = 9 then 4 else 3
  let half : Int := 2 ^ (11 + 9 * levels)
  if va.toInt < -half || half ≤ va.toInt then .error k.pageFault
  else s.hartWalk n mode k va.toNat levels (4096 * natBits satp 0 44)
/-- The mode in which a hart's loads and stores are made: MPP in M-mode with MPRV. -/
def Hart.dataMode (h : Hart) : HartMode :=
  let m := h.csr 0x300
  if modeCode h.mode = 3 && m.getLsbD 17 then hartMode (natBits m.toNat 11 2) else h.mode
/-- An exception: its code and its tval. -/
abbrev RvTrap := Nat × DWord
/-- The state with the bursts of the table entries that a walk has read. -/
def State.walkBursts (s : State) (used : List Nat) : State := used.foldl (fun s a => s.hartBursts a 8) s
/-- A hart's access at a virtual address: its value and the state after it, or an exception (R378, R379). -/
def State.hartData (s : State) (n : Nat) (va : DWord) (op : HartOp) : Except RvTrap (DWord × State) :=
  let k := opKind op
  let mode := (s.hart n).dataMode
  if va.toNat % opBytes op ≠ 0 then .error (k.misaligned, va) else
  match s.hartTranslate n mode k va with
  | .error c => .error (c, va)
  | .ok (pa, used) =>
    match (s.walkBursts used).hartPerform n mode pa op with
    | some r => .ok r
    | none => .error (k.fault, va)
/-- Two bytes of code. -/
def State.hartParcel (s : State) (n : Nat) (va : DWord) : Except RvTrap (Nat × State) :=
  let mode := (s.hart n).mode
  match s.hartTranslate n mode .fetch va with
  | .error c => .error (c, va)
  | .ok (pa, used) =>
    match (s.walkBursts used).hartPerform n mode pa (.fetch 2) with
    | some (v, t) => .ok (v.toNat, t)
    | none => .error (RvAccess.fault .fetch, va)
/-- The instruction at a hart's pc: its bits, its length, and the state after the fetch. -/
def State.hartFetch (s : State) (n : Nat) : Except RvTrap (Nat × Nat × State) :=
  let pc := (s.hart n).pc
  match s.hartParcel n pc with
  | .error e => .error e
  | .ok (lo, t) =>
    if lo % 4 ≠ 3 then .ok (lo, 2, t) else
    match t.hartParcel n (pc + 2) with
    | .error e => .error e
    | .ok (hi, u) => .ok (lo + 65536 * hi, 4, u)

/-! ## CSRs (R378, R380) -/

/-- mip: what of it shows other state, and its software bits. -/
def State.hartIp (s : State) (n : Nat) : DWord :=
  let h := s.hart n
  let w := s.watchOf (n / 4)
  let bit (i : Nat) (b : Bool) : DWord := if b then bitAt i else 0
  (h.csr 0x344 &&& 0x222) ||| bit 3 (h.msip.getLsbD 0) ||| bit 7 h.timerPending ||| bit 11 (w.irq != 0) ||| bit 9 (w.sirq != 0)
/-- A counter's bits of mcountinhibit stop it: 0 cycle, 2 instret. -/
def Hart.inhibited (h : Hart) (i : Nat) : Bool := (h.csr 0x320).getLsbD i
/-- cycle: the harts' clock since it was last set (R378). -/
def State.hartCycle (s : State) (n : Nat) : DWord :=
  let h := s.hart n
  h.csr 0xB00 + (if h.inhibited 0 then 0 else BitVec.ofNat 64 (s.hub.hartClock s.now / 63))
/-- The bits of mstatus that sstatus shows, and that its writes change. -/
def sstatusMask : DWord := 0xC0122
/-- The value of a CSR; none where there is none of that number. -/
def State.csrRead (s : State) (n k : Nat) : Option DWord :=
  let h := s.hart n
  let w := s.watchOf (n / 4)
  match k with
  | 0x100 => some ((h.csr 0x300 &&& sstatusMask) ||| 0x200000000)
  | 0x104 => some (h.csr 0x304 &&& h.csr 0x303)
  | 0x144 => some (s.hartIp n &&& h.csr 0x303)
  | 0x105 | 0x106 | 0x10A | 0x140 | 0x141 | 0x142 | 0x143 | 0x180 | 0x302 | 0x303 | 0x304 | 0x305 | 0x306 | 0x30A | 0x320
  | 0x340 | 0x341 | 0x342 | 0x343 | 0x3A0 | 0x3A2 => some (h.csr k)
  | 0x300 => some (h.csr 0x300 ||| 0xA00000000)
  | 0x301 => some 0x8000000000141105
  | 0x344 => some (s.hartIp n)
  | 0xF11 | 0xF12 | 0xF13 | 0xF15 => some 0
  | 0xF14 => some (BitVec.ofNat 64 n)
  | 0xB00 | 0xC00 => some (s.hartCycle n)
  | 0xC01 => some (BitVec.ofNat 64 s.now)
  | 0xB02 | 0xC02 => some (h.csr 0xB02)
  | 0xFC0 => some (BitVec.ofNat 64 (n / 4) ||| (if w.active then 2 else 0) ||| if s.heard (1 - n / 4) then 4 else 0)
  | 0xFC1 => some w.irq
  | 0xDC1 => some w.sirq
  | 0x7C0 => some w.beats
  | 0x7C1 => some w.gqstate
  | _ =>
    if 0x3B0 ≤ k && k < 0x3C0 then
      some (if natBits (h.pmpByte (k - 0x3B0)) 4 1 = 1 then h.csr k ||| 0x1FF else h.csr k &&& ~~~0x3FF)
    else if (0xC03 ≤ k && k < 0xC20) || (0xB03 ≤ k && k < 0xB20) || (0x323 ≤ k && k < 0x340) then some 0
    else none
/-- A hart may make an access to a CSR in its mode (R380): the mode and the read-only range of its number, the counter enables, and TVM for satp. -/
def Hart.csrAdmits (h : Hart) (k : Nat) (write : Bool) : Bool :=
  let m := modeCode h.mode
  let counted (c : Nat) : Bool := natBits (h.csr c).toNat (k % 32) 1 == 1
  decide (natBits k 8 2 ≤ m) && !(write && natBits k 10 2 == 3) &&
  (if 0xC00 ≤ k && k < 0xC20 then m == 3 || (counted 0x306 && (m == 1 || counted 0x106)) else true) &&
  !(k == 0x180 && m == 1 && (h.csr 0x300).getLsbD 20)
/-- mstatus written: MPP keeps its value where none of a mode is written. -/
def mstatusVal (old v : DWord) : DWord :=
  let w := v &&& 0x7E19AA
  if natBits v.toNat 11 2 = 2 then setBits w 11 2 (natBits old.toNat 11 2) else w
/-- A byte of pmpcfg written: a locked entry keeps its value; W goes with R, and NA4, which the granularity excludes, leaves A as it is. -/
def pmpByteVal (old v : Nat) : Nat :=
  if 128 ≤ old then old else
  let a := natBits v 3 2
  natBits v 7 1 * 128 + (if a = 2 then natBits old 3 2 else a) * 8 + natBits v 2 1 * 4 + natBits v 1 1 * natBits v 0 1 * 2 + natBits v 0 1
/-- pmpcfg written, 8 entries at once. -/
def pmpWordVal (old v : DWord) : DWord :=
  BitVec.ofNat 64 (natOf ((upTo 8).map fun i => (BitVec.ofNat 8 (pmpByteVal (natBits old.toNat (8 * i) 8) (natBits v.toNat (8 * i) 8)) : Byte)))
/-- pmpaddr i is locked: by its own entry, or by the next one's as its lower bound. -/
def Hart.pmpLocked (h : Hart) (i : Nat) : Bool :=
  decide (128 ≤ h.pmpByte i) || (decide (i < 15) && decide (128 ≤ h.pmpByte (i + 1)) && natBits (h.pmpByte (i + 1)) 3 2 == 1)
/-- A CSR of a hart's own written, with the values that its fields may take. -/
def Hart.csrSet (h : Hart) (k : Nat) (v : DWord) : Hart :=
  let part (base : Nat) (mask : DWord) : Hart := h.setCsr base ((h.csr base &&& ~~~mask) ||| (v &&& mask))
  match k with
  | 0x100 => part 0x300 sstatusMask
  | 0x300 => h.setCsr 0x300 (mstatusVal (h.csr 0x300) v)
  | 0x104 => part 0x304 (h.csr 0x303)
  | 0x304 => h.setCsr 0x304 (v &&& 0xAAA)
  | 0x144 => part 0x344 (h.csr 0x303 &&& 2)
  | 0x344 => h.setCsr 0x344 (v &&& 0x222)
  | 0x105 | 0x305 => h.setCsr k (v &&& ~~~2)
  | 0x106 | 0x306 => h.setCsr k (v &&& 0xFFFFFFFF)
  | 0x10A | 0x30A => h.setCsr k (v &&& 1)
  | 0x140 | 0x142 | 0x143 | 0x340 | 0x342 | 0x343 => h.setCsr k v
  | 0x141 | 0x341 => h.setCsr k (v &&& ~~~1)
  | 0x180 => if natBits v.toNat 60 4 ∈ [0, 8, 9] then h.setCsr k v else h
  | 0x302 => h.setCsr k (v &&& 0xB3FF)
  | 0x303 => h.setCsr k (v &&& 0x222)
  | 0x3A0 | 0x3A2 => h.setCsr k (pmpWordVal (h.csr k) v)
  | 0xB02 => h.setCsr k v
  | _ => if 0x3B0 ≤ k && k < 0x3C0 && !h.pmpLocked (k - 0x3B0) then h.setCsr k (v &&& 0x3FFFFFFFFFFFFF) else h
/-- A CSR written: mcycle and mcountinhibit against the harts' clock, gqbeat as a heartbeat, gqstate for the watch (R380). -/
def State.csrWrite (s : State) (n k : Nat) (v : DWord) : State :=
  let h := s.hart n
  let clock := BitVec.ofNat 64 (s.hub.hartClock s.now / 63)
  match k with
  | 0xB00 => s.onHart n fun h => h.setCsr 0xB00 (v - if h.inhibited 0 then 0 else clock)
  | 0x320 =>
    let total := s.hartCycle n
    s.onHart n fun _ => (h.setCsr 0xB00 (total - if v.getLsbD 0 then 0 else clock)).setCsr 0x320 (v &&& 5)
  | 0x7C0 => s.also (execHeartbeat n v)
  | 0x7C1 => s.onWatch (n / 4) fun w => { w with gqstate := v &&& ~~~0xFFF }
  | _ => s.onHart n fun h => h.csrSet k v
/-- A read of gqirq or sgqirq may clear causes that it returns: which, the spec leaves open (R380; log 47). -/
def State.irqSeen (s : State) (n k : Nat) : State :=
  match k with
  | 0xFC1 => s.onWatch (n / 4) fun w => { w with irq := w.irq &&& s.anyWord 7970 }
  | 0xDC1 => s.onWatch (n / 4) fun w => { w with sirq := w.sirq &&& s.anyWord 7971 }
  | _ => s

/-! ## Arithmetic (RV64I, M, Zba, Zbb) -/

/-- The low 32 bits of a word, sign-extended. -/
def signWord (v : DWord) : DWord := (v.extractLsb' 0 32).signExtend 64
/-- The low 32 bits, zero-extended. -/
def zeroWord (v : DWord) : DWord := v &&& 0xFFFFFFFF
/-- One or zero. -/
def boolWord (b : Bool) : DWord := if b then 1 else 0
/-- Signed less than. -/
def sLess (a b : DWord) : Bool := decide (a.toInt < b.toInt)
/-- Signed division, with its corners. -/
def rvDiv (a b : Int) (w : Nat) : Int := if b = 0 then -1 else if a = -(2 ^ (w - 1)) && b = -1 then a else a.tdiv b
/-- The remainder of signed division, with its corners. -/
def rvRem (a b : Int) : Int := if b = 0 then a else a.tmod b
/-- Multiplication and division, by funct3, of 64 bits. -/
def rvMul (f3 : Nat) (a b : DWord) : DWord :=
  match f3 with
  | 0 => a * b
  | 1 => BitVec.ofInt 64 (a.toInt * b.toInt / 2 ^ 64)
  | 2 => BitVec.ofInt 64 (a.toInt * b.toNat / 2 ^ 64)
  | 3 => BitVec.ofNat 64 (a.toNat * b.toNat / 2 ^ 64)
  | 4 => BitVec.ofInt 64 (rvDiv a.toInt b.toInt 64)
  | 5 => if b = 0 then ~~~0 else BitVec.ofNat 64 (a.toNat / b.toNat)
  | 6 => BitVec.ofInt 64 (rvRem a.toInt b.toInt)
  | _ => BitVec.ofNat 64 (a.toNat % b.toNat)
/-- The same of 32 bits, which has no high products. -/
def rvMulW (f3 : Nat) (a b : DWord) : Option DWord :=
  let x := (signWord a).toInt
  let y := (signWord b).toInt
  let ux := (zeroWord a).toNat
  let uy := (zeroWord b).toNat
  match f3 with
  | 0 => some (signWord (a * b))
  | 4 => some (signWord (BitVec.ofInt 64 (rvDiv x y 32)))
  | 5 => some (if uy = 0 then ~~~0 else signWord (BitVec.ofNat 64 (ux / uy)))
  | 6 => some (signWord (BitVec.ofInt 64 (rvRem x y)))
  | 7 => some (signWord (BitVec.ofNat 64 (ux % uy)))
  | _ => none
/-- A 32-bit word rotated right. -/
def ror32 (a : DWord) (n : Nat) : DWord := ((a.extractLsb' 0 32).rotateRight (n % 32)).signExtend 64
/-- A register operation of 64 bits, by funct7 and funct3. -/
def rvOp (f7 f3 : Nat) (a b : DWord) : Option DWord :=
  let n := b.toNat % 64
  match f7, f3 with
  | 0, 0 => some (a + b)
  | 0x20, 0 => some (a - b)
  | 0, 1 => some (a <<< n)
  | 0, 2 => some (boolWord (sLess a b))
  | 0, 3 => some (boolWord (decide (a.toNat < b.toNat)))
  | 0, 4 => some (a ^^^ b)
  | 0, 5 => some (a >>> n)
  | 0x20, 5 => some (a.sshiftRight n)
  | 0, 6 => some (a ||| b)
  | 0, 7 => some (a &&& b)
  | 1, k => some (rvMul k a b)
  | 0x20, 7 => some (a &&& ~~~b)
  | 0x20, 6 => some (a ||| ~~~b)
  | 0x20, 4 => some (~~~(a ^^^ b))
  | 0x10, 2 => some ((a <<< 1) + b)
  | 0x10, 4 => some ((a <<< 2) + b)
  | 0x10, 6 => some ((a <<< 3) + b)
  | 5, 4 => some (if sLess a b then a else b)
  | 5, 5 => some (if a.toNat < b.toNat then a else b)
  | 5, 6 => some (if sLess a b then b else a)
  | 5, 7 => some (if a.toNat < b.toNat then b else a)
  | 0x30, 1 => some (a.rotateLeft n)
  | 0x30, 5 => some (a.rotateRight n)
  | _, _ => none
/-- A register operation of 32 bits; `rs2` is its register's number. -/
def rvOpW (f7 f3 rs2 : Nat) (a b : DWord) : Option DWord :=
  let n := b.toNat % 32
  match f7, f3 with
  | 0, 0 => some (signWord (a + b))
  | 0x20, 0 => some (signWord (a - b))
  | 0, 1 => some (signWord (a <<< n))
  | 0, 5 => some (signWord (zeroWord a >>> n))
  | 0x20, 5 => some (signWord ((signWord a).sshiftRight n))
  | 1, k => rvMulW k a b
  | 4, 0 => some (zeroWord a + b)
  | 4, 4 => if rs2 = 0 then some (a &&& 0xFFFF) else none
  | 0x10, 2 => some ((zeroWord a <<< 1) + b)
  | 0x10, 4 => some ((zeroWord a <<< 2) + b)
  | 0x10, 6 => some ((zeroWord a <<< 3) + b)
  | 0x30, 1 => some (ror32 a (32 - n))
  | 0x30, 5 => some (ror32 a n)
  | _, _ => none
/-- Leading zeros of a number of w bits, trailing zeros, and ones, counted bit by bit. -/
def bitsAbove : Nat → Nat → Nat
  | 0, _ => 0
  | w + 1, v => if v / 2 ^ w % 2 = 1 then 0 else 1 + bitsAbove w v
/-- Trailing zeros of a number of w bits. -/
def bitsBelow : Nat → Nat → Nat
  | 0, _ => 0
  | w + 1, v => if v % 2 = 1 then 0 else 1 + bitsBelow w (v / 2)
/-- Ones of a number of w bits. -/
def countOnes : Nat → Nat → Nat
  | 0, _ => 0
  | w + 1, v => v % 2 + countOnes w (v / 2)
/-- CLZ, CTZ and CPOP of w bits, by the number in the place of rs2. -/
def rvCount (w k v : Nat) : Option DWord :=
  match k with
  | 0 => some (BitVec.ofNat 64 (bitsAbove w v))
  | 1 => some (BitVec.ofNat 64 (bitsBelow w v))
  | 2 => some (BitVec.ofNat 64 (countOnes w v))
  | _ => none
/-- An operation with a 12-bit immediate, of 64 bits; `imm` sign-extended, `k` its 12 bits. -/
def rvOpImm (f3 k : Nat) (a imm : DWord) : Option DWord :=
  let n := k % 64
  let bytes := (upTo 8).map fun i => natBits a.toNat (8 * i) 8
  match f3 with
  | 0 => some (a + imm)
  | 2 => some (boolWord (sLess a imm))
  | 3 => some (boolWord (decide (a.toNat < imm.toNat)))
  | 4 => some (a ^^^ imm)
  | 6 => some (a ||| imm)
  | 7 => some (a &&& imm)
  | 1 =>
    if k / 64 = 0 then some (a <<< n)
    else if k = 0x604 then some ((a.extractLsb' 0 8).signExtend 64)
    else if k = 0x605 then some ((a.extractLsb' 0 16).signExtend 64)
    else if k / 32 = 0x30 then rvCount 64 (k % 32) a.toNat
    else none
  | _ =>
    if k / 64 = 0 then some (a >>> n)
    else if k / 64 = 0x10 then some (a.sshiftRight n)
    else if k / 64 = 0x18 then some (a.rotateRight n)
    else if k = 0x287 then some (BitVec.ofNat 64 (natOf (bytes.map fun b => (if b = 0 then 0 else 0xFF : Byte))))
    else if k = 0x6B8 then some (BitVec.ofNat 64 (natOf (bytes.reverse.map fun b => (BitVec.ofNat 8 b : Byte))))
    else none
/-- The same of 32 bits. -/
def rvOpImmW (f3 k : Nat) (a imm : DWord) : Option DWord :=
  let n := k % 32
  match f3 with
  | 0 => some (signWord (a + imm))
  | 1 =>
    if k / 32 = 0 then some (signWord (a <<< n))
    else if k / 64 = 2 then some (zeroWord a <<< (k % 64))
    else if k / 32 = 0x30 then rvCount 32 n (zeroWord a).toNat
    else none
  | 5 =>
    if k / 32 = 0 then some (signWord (zeroWord a >>> n))
    else if k / 32 = 0x20 then some (signWord ((signWord a).sshiftRight n))
    else if k / 32 = 0x30 then some (ror32 a n)
    else none
  | _ => none
/-- A branch is taken; none for a funct3 without one. -/
def rvTaken (f3 : Nat) (a b : DWord) : Option Bool :=
  match f3 with
  | 0 => some (a == b)
  | 1 => some (a != b)
  | 4 => some (sLess a b)
  | 5 => some (!sLess a b)
  | 6 => some (decide (a.toNat < b.toNat))
  | 7 => some (decide (b.toNat ≤ a.toNat))
  | _ => none

/-! ## Compressed instructions (C) -/

/-- A number of n bits, sign-extended, modulo 2^m. -/
def sextNat (n m v : Nat) : Nat := if v < 2 ^ (n - 1) then v else v + 2 ^ m - 2 ^ n
/-- An I-type word. -/
def rvI (op rd f3 rs1 imm : Nat) : Nat := op + 2 ^ 7 * rd + 2 ^ 12 * f3 + 2 ^ 15 * rs1 + 2 ^ 20 * (imm % 4096)
/-- An R-type word. -/
def rvR (op rd f3 rs1 rs2 f7 : Nat) : Nat := op + 2 ^ 7 * rd + 2 ^ 12 * f3 + 2 ^ 15 * rs1 + 2 ^ 20 * rs2 + 2 ^ 25 * f7
/-- An S-type word. -/
def rvS (f3 rs1 rs2 imm : Nat) : Nat :=
  0x23 + 2 ^ 7 * (imm % 32) + 2 ^ 12 * f3 + 2 ^ 15 * rs1 + 2 ^ 20 * rs2 + 2 ^ 25 * natBits imm 5 7
/-- A branch word, of a 13-bit offset. -/
def rvB (f3 rs1 imm : Nat) : Nat :=
  0x63 + 2 ^ 7 * natBits imm 11 1 + 2 ^ 8 * natBits imm 1 4 + 2 ^ 12 * f3 + 2 ^ 15 * rs1 + 2 ^ 25 * natBits imm 5 6 + 2 ^ 31 * natBits imm 12 1
/-- A JAL word, of a 21-bit offset. -/
def rvJ (rd imm : Nat) : Nat :=
  0x6F + 2 ^ 7 * rd + 2 ^ 12 * natBits imm 12 8 + 2 ^ 20 * natBits imm 11 1 + 2 ^ 21 * natBits imm 1 10 + 2 ^ 31 * natBits imm 20 1
/-- The instruction of 32 bits that a compressed one stands for; none for one that is reserved or of F or D. -/
def rvExpand (h : Nat) : Option Nat :=
  let b (lo n : Nat) : Nat := natBits h lo n
  let rd := b 7 5
  let rs2 := b 2 5
  let rdc := 8 + b 2 3
  let rsc := 8 + b 7 3
  let imm6 := sextNat 6 12 (b 2 5 + 32 * b 12 1)
  let sh := b 2 5 + 32 * b 12 1
  let lw := b 10 3 * 8 + b 6 1 * 4 + b 5 1 * 64
  let ld := b 10 3 * 8 + b 5 2 * 64
  match h % 4, h / 2 ^ 13 with
  | 0, 0 =>
    let n := b 11 2 * 16 + b 7 4 * 64 + b 6 1 * 4 + b 5 1 * 8
    if n = 0 then none else some (rvI 0x13 rdc 0 2 n)
  | 0, 2 => some (rvI 0x03 rdc 2 rsc lw)
  | 0, 3 => some (rvI 0x03 rdc 3 rsc ld)
  | 0, 6 => some (rvS 2 rsc rdc lw)
  | 0, 7 => some (rvS 3 rsc rdc ld)
  | 1, 0 => some (rvI 0x13 rd 0 rd imm6)
  | 1, 1 => if rd = 0 then none else some (rvI 0x1B rd 0 rd imm6)
  | 1, 2 => some (rvI 0x13 rd 0 0 imm6)
  | 1, 3 =>
    if sh = 0 then none
    else if rd = 2 then some (rvI 0x13 2 0 2 (sextNat 10 12 (b 12 1 * 512 + b 6 1 * 16 + b 5 1 * 64 + b 3 2 * 128 + b 2 1 * 32)))
    else some (0x37 + 2 ^ 7 * rd + 2 ^ 12 * sextNat 6 20 sh)
  | 1, 4 =>
    match b 10 2 with
    | 0 => some (rvI 0x13 rsc 5 rsc sh)
    | 1 => some (rvI 0x13 rsc 5 rsc (sh + 0x400))
    | 2 => some (rvI 0x13 rsc 7 rsc imm6)
    | _ =>
      match b 12 1, b 5 2 with
      | 0, 0 => some (rvR 0x33 rsc 0 rsc rdc 0x20)
      | 0, 1 => some (rvR 0x33 rsc 4 rsc rdc 0)
      | 0, 2 => some (rvR 0x33 rsc 6 rsc rdc 0)
      | 0, _ => some (rvR 0x33 rsc 7 rsc rdc 0)
      | _, 0 => some (rvR 0x3B rsc 0 rsc rdc 0x20)
      | _, 1 => some (rvR 0x3B rsc 0 rsc rdc 0)
      | _, _ => none
  | 1, 5 =>
    some (rvJ 0 (sextNat 12 21 (b 12 1 * 2048 + b 11 1 * 16 + b 9 2 * 256 + b 8 1 * 1024 + b 7 1 * 64 + b 6 1 * 128 + b 3 3 * 2 + b 2 1 * 32)))
  | 1, 6 => some (rvB 0 rsc (sextNat 9 13 (b 12 1 * 256 + b 10 2 * 8 + b 5 2 * 64 + b 3 2 * 2 + b 2 1 * 32)))
  | 1, _ => some (rvB 1 rsc (sextNat 9 13 (b 12 1 * 256 + b 10 2 * 8 + b 5 2 * 64 + b 3 2 * 2 + b 2 1 * 32)))
  | 2, 0 => some (rvI 0x13 rd 1 rd sh)
  | 2, 2 => if rd = 0 then none else some (rvI 0x03 rd 2 2 (b 12 1 * 32 + b 4 3 * 4 + b 2 2 * 64))
  | 2, 3 => if rd = 0 then none else some (rvI 0x03 rd 3 2 (b 12 1 * 32 + b 5 2 * 8 + b 2 3 * 64))
  | 2, 4 =>
    if b 12 1 = 0 then (if rs2 ≠ 0 then some (rvR 0x33 rd 0 0 rs2 0) else if rd = 0 then none else some (rvI 0x67 0 0 rd 0))
    else if rs2 ≠ 0 then some (rvR 0x33 rd 0 rd rs2 0)
    else if rd = 0 then some 0x00100073
    else some (rvI 0x67 1 0 rd 0)
  | 2, 6 => some (rvS 2 2 rs2 (b 9 4 * 4 + b 7 2 * 64))
  | 2, 7 => some (rvS 3 2 rs2 (b 10 3 * 8 + b 7 3 * 64))
  | _, _ => none

/-! ## Execution -/

/-- An integer register. -/
def Hart.x (h : Hart) (r : Nat) : DWord := if r = 0 then 0 else look 0 h.xs r
/-- An integer register written; x0 stays 0. -/
def Hart.setX (h : Hart) (r : Nat) (v : DWord) : Hart := if r = 0 then h else { h with xs := put h.xs r v }
/-- An instruction ends with a value for rd, and the next one follows it. -/
def State.rvDone (s : State) (n len rd : Nat) (v : DWord) : State :=
  s.onHart n fun h => { h.setX rd v with pc := h.pc + BitVec.ofNat 64 len }
/-- MRET and SRET: back to the saved mode and pc. -/
def Hart.rett (h : Hart) (fromM : Bool) : Hart :=
  let m := h.csr 0x300
  let dest := hartMode (if fromM then natBits m.toNat 11 2 else natBits m.toNat 8 1)
  let m1 := if fromM then setBits (setBits (setBits m 3 1 (natBits m.toNat 7 1)) 7 1 1) 11 2 0
    else setBits (setBits (setBits m 1 1 (natBits m.toNat 5 1)) 5 1 1) 8 1 0
  { (h.setCsr 0x300 (if modeCode dest = 3 then m1 else setBits m1 17 1 0)) with mode := dest, pc := h.csr (if fromM then 0x341 else 0x141) }
/-- A CSR instruction (R378, R380). -/
def State.rvCsr (s : State) (n len w : Nat) : Except RvTrap State :=
  let h := s.hart n
  let k := natBits w 20 12
  let f3 := natBits w 12 3
  let rd := natBits w 7 5
  let rs1 := natBits w 15 5
  let v := if 4 ≤ f3 then BitVec.ofNat 64 rs1 else h.x rs1
  let writes := f3 % 4 == 1 || rs1 != 0
  match s.csrRead n k with
  | none => .error (2, 0)
  | some old =>
    if !h.csrAdmits k writes then .error (2, 0) else
    let new := match f3 % 4 with | 1 => v | 2 => old ||| v | _ => old &&& ~~~v
    -- A read-modify-write of mip leaves out what hub events add to its SEIP bit.
    let new := if k = 0x344 && f3 % 4 ≠ 1 && !v.getLsbD 9 then setBits new 9 1 (natBits (h.csr 0x344).toNat 9 1) else new
    let t := s.irqSeen n k
    .ok ((if writes then t.csrWrite n k new else t).rvDone n len rd old)
/-- ECALL, EBREAK, MRET, SRET, WFI and SFENCE.VMA. -/
def State.rvSystem (s : State) (n len w : Nat) : Except RvTrap State :=
  let h := s.hart n
  let m := modeCode h.mode
  let status := h.csr 0x300
  if w = 0x00000073 then .error (8 + m, 0)
  else if w = 0x00100073 then .error (3, h.pc)
  else if w = 0x30200073 && m = 3 then .ok (s.onHart n fun h => h.rett true)
  else if w = 0x10200073 && (m = 3 || (m = 1 && !status.getLsbD 22)) then .ok (s.onHart n fun h => h.rett false)
  else if w = 0x10500073 && (m = 3 || !status.getLsbD 21) then .ok (s.rvDone n len 0 0)
  else if natBits w 25 7 = 9 && natBits w 7 5 = 0 && (m = 3 || (m = 1 && !status.getLsbD 20)) then .ok (s.rvDone n len 0 0)
  else .error (2, 0)
/-- LR, SC and AMOs. -/
def rvAtomic (w : Nat) (v : DWord) : Option HartOp :=
  let f5 := natBits w 27 5
  let wide := natBits w 12 3 == 3
  if natBits w 12 3 ≠ 2 && !wide then none
  else if f5 = 2 then (if natBits w 20 5 = 0 then some (.lr wide) else none)
  else if f5 = 3 then some (.sc wide v)
  else if (amoVal wide (BitVec.ofNat 5 f5) 0 0).isSome then some (.amo wide (BitVec.ofNat 5 f5) v)
  else none
/-- A loaded value, extended as funct3 says. -/
def rvLoaded (f3 : Nat) (v : DWord) : DWord :=
  match f3 with
  | 0 => (v.extractLsb' 0 8).signExtend 64
  | 1 => (v.extractLsb' 0 16).signExtend 64
  | 2 => signWord v
  | _ => v
/-- One instruction of 32 bits, which stands in memory in `len` bytes, is executed; an exception 2 is an illegal instruction. -/
def State.rvExec (s : State) (n w len : Nat) : Except RvTrap State :=
  let h := s.hart n
  let rd := natBits w 7 5
  let f3 := natBits w 12 3
  let f7 := natBits w 25 7
  let a := h.x (natBits w 15 5)
  let rs2 := natBits w 20 5
  let b := h.x rs2
  let imm := BitVec.ofNat 64 (sextNat 12 64 (natBits w 20 12))
  let upper := BitVec.ofNat 64 (sextNat 32 64 (w / 4096 * 4096))
  let val (r : Option DWord) : Except RvTrap State := match r with | some v => .ok (s.rvDone n len rd v) | none => .error (2, 0)
  let jump (dest : DWord) : State := s.onHart n fun h => { h.setX rd (h.pc + BitVec.ofNat 64 len) with pc := dest }
  match natBits w 0 7 with
  | 0x37 => val (some upper)
  | 0x17 => val (some (h.pc + upper))
  | 0x6F => .ok (jump (h.pc + BitVec.ofNat 64
      (sextNat 21 64 (natBits w 31 1 * 2 ^ 20 + natBits w 12 8 * 2 ^ 12 + natBits w 20 1 * 2 ^ 11 + natBits w 21 10 * 2))))
  | 0x67 => if f3 = 0 then .ok (jump ((a + imm) &&& ~~~1)) else .error (2, 0)
  | 0x63 =>
    match rvTaken f3 a b with
    | none => .error (2, 0)
    | some false => .ok (s.rvDone n len 0 0)
    | some true =>
      let off := natBits w 31 1 * 2 ^ 12 + natBits w 7 1 * 2 ^ 11 + natBits w 25 6 * 2 ^ 5 + natBits w 8 4 * 2
      .ok (s.onHart n fun h => { h with pc := h.pc + BitVec.ofNat 64 (sextNat 13 64 off) })
  | 0x03 =>
    if f3 = 7 then .error (2, 0) else
    match s.hartData n (a + imm) (.load (2 ^ (f3 % 4))) with
    | .ok (v, t) => .ok (t.rvDone n len rd (rvLoaded f3 v))
    | .error e => .error e
  | 0x23 =>
    if 4 ≤ f3 then .error (2, 0) else
    match s.hartData n (a + BitVec.ofNat 64 (sextNat 12 64 (rd + 32 * f7))) (.store (bytesOf (2 ^ f3) b.toNat)) with
    | .ok (_, t) => .ok (t.rvDone n len 0 0)
    | .error e => .error e
  | 0x13 => val (rvOpImm f3 (natBits w 20 12) a imm)
  | 0x1B => val (rvOpImmW f3 (natBits w 20 12) a imm)
  | 0x33 => val (rvOp f7 f3 a b)
  | 0x3B => val (rvOpW f7 f3 rs2 a b)
  | 0x0F => if f3 ≤ 1 then .ok (s.rvDone n len 0 0) else .error (2, 0)
  | 0x2F =>
    match rvAtomic w b with
    | none => .error (2, 0)
    | some op =>
      match s.hartData n a op with
      | .ok (v, t) => .ok (t.rvDone n len rd v)
      | .error e => .error e
  | 0x73 => if f3 = 0 then s.rvSystem n len w else if f3 = 4 then .error (2, 0) else s.rvCsr n len w
  | _ => .error (2, 0)
/-- The instruction sets minstret itself. -/
def setsInstret (w : Nat) : Bool :=
  natBits w 0 7 == 0x73 && natBits w 20 12 == 0xB02 && natBits w 12 2 != 0 && (natBits w 12 2 == 1 || natBits w 15 5 != 0)
/-- An instruction has retired. -/
def State.rvRetire (s : State) (n w : Nat) : State :=
  if setsInstret w || (s.hart n).inhibited 2 then s else s.onHart n fun h => h.setCsr 0xB02 (h.csr 0xB02 + 1)
/-- The interrupt that a hart takes now: those for M-mode before those that are delegated, each in the order MEI, MSI, MTI, SEI, SSI, STI. -/
def State.hartIrq (s : State) (n : Nat) : Option Nat :=
  let h := s.hart n
  let m := modeCode h.mode
  let e := s.hartIp n &&& h.csr 0x304
  let deleg := h.csr 0x303
  let first (v : DWord) : Option Nat := firstOf (fun i => v.getLsbD i) [11, 3, 7, 9, 1, 5]
  match (if m < 3 || (h.csr 0x300).getLsbD 3 then first (e &&& ~~~deleg) else none) with
  | some i => some i
  | none => if m = 0 || (m = 1 && (h.csr 0x300).getLsbD 1) then first (e &&& deleg) else none
/-- A hart runs: it is neither halted nor held in reset nor in the boot ROM (R381, R405, R428). -/
def State.hartRuns (s : State) (n : Nat) : Bool :=
  decide (n < 8) && !(s.hart n).halted && (s.watchOf (n / 4)).booted && !(s.watchOf (n / 4)).inReset
/-- A hart takes an interrupt, or executes the instruction at its pc or takes its exception (R378). -/
def State.hartStep (s : State) (n : Nat) : State :=
  if !s.hartRuns n then s else
  let trap (t : State) (e : RvTrap) : State := t.onHart n fun h => h.trap h.mode false e.1 e.2
  match s.hartIrq n with
  | some i => s.onHart n fun h => h.trap h.mode true i 0
  | none =>
    match s.hartFetch n with
    | .error e => trap s e
    | .ok (raw, len, t) =>
      let illegal : RvTrap := (2, BitVec.ofNat 64 raw)
      match (if len = 2 then rvExpand raw else some raw) with
      | none => trap t illegal
      | some w =>
        match t.rvExec n w len with
        | .ok u => u.rvRetire n w
        | .error e => trap t (if e.1 = 2 then illegal else e)

/-! ## What happens to the package besides its events (log 68) -/

/-- One such happening. -/
def State.happen (s : State) (k : Happening) : State :=
  match k with
  | .peerAtomic port => (s.peerError port).bump
  | .hartStep n => (s.hartStep n).bump
  | _ => s.strike k
/-- Those of this cycle. -/
def State.happens (s : State) : State :=
  let t := { s with happenings := s.happenings.filter fun u => decide (s.now < u.1) }
  (s.happenings.filter fun u => decide (u.1 ≤ s.now)).foldl (fun s u => s.happen u.2) t

end Sys2Proof.Machine
end

