-- ==== Sys2Proof/Machine/Cycle.lean ====
section
/-! DEFINITION. The parts of a device cycle in order: which events fall due in each, by the rules of spec/13_execution_and_scheduling.md (R304, R320) and of each event. An event's own meaning has its effect; this file only says when it comes (log 5). -/
namespace Sys2Proof.Machine

/-- The next device cycle begins (R5). -/
def State.tick (s : State) : State :=
  { s with now := s.now + 1
           todo := [.phase .land, .phase .boundary, .phase .instants, .phase .issue, .phase .turnEnd, .phase .network,
             .phase .units, .phase .portA, .phase .copies, .phase .hub, .phase .close] }
/-- Accesses from outside to Cliffstack are of the Lighthouse class, which pauses without an active watch; a write into a notify window is none (R346, R396, R407). -/
def State.paused (s : State) (i : Instr) : Bool :=
  !s.active && match i with
  | .peerWrite port addr _ =>
    let base := (look 0 s.hub.notifyBase port).toNat / 4096 * 4096
    !(decide (base ≤ addr.toNat) && decide (addr.toNat < base + 4096))
  | .peerRead _ _ _ => true
  | .lighthouseLoadStore _ _ pa op => placeOf pa (opBytes op) == .cliff
  | _ => false
/-- An event from outside that is due and not paused, and the state without it (log 5). -/
def State.dueInput (s : State) : Option (Instr × State) :=
  match firstOf (fun p => decide (p.1 ≤ s.now) && !s.paused p.2) s.inputs with
  | some p => some (p.2, { s with inputs := s.inputs.erase p })
  | none => none
/-- Events one after another. -/
def State.alsoEach {α : Type} (s : State) (l : List α) (f : α → State → Out) : State := l.foldl (fun s a => s.also (f a)) s
/-- A core that issues nothing, its die being parked (R431). -/
def State.asleep (s : State) (p : Nat) : Bool := isOrdinary p && s.hub.parked (dieOf p)
/-- The listed cores that run, in ascending order of number. -/
def State.awake (s : State) : List Nat := (keys s.cores).filter fun p => !s.asleep p

/-! ## Landing (R17, R249) -/

/-- A cycle begins at a core: writes whose windows have ended land, its ports are free, and words written in the last cycle are to be re-tested (R147). -/
def Core.openCycle (c : Core) (now free : Nat) : Core :=
  let d := c.land now free
  { d with used := [], wrote := [], mdone := d.mdone.filter fun k => decide (now ≤ k.2),
           watches := d.watches.map fun w => if w.retest = 0 then w else { w with retest := 2 } }
/-- Landing at every core, and what else happens in this cycle (log 68). -/
def State.landPhase (s : State) : State := (((s.mapCores fun _ c => c.openCycle s.now s.free).commitPhases).bump).happens

/-! ## The start of a core turn (R12, R263 to R267, R305) -/

/-- Writes of a context's earlier work that have not landed are dropped where new work begins on it. -/
def Core.dropWrites (c : Core) (n : Nat) : Core :=
  { c with writes := c.writes.filter fun w => !(w.dst.ofCtx == some n) && !(w.due.isNone && w.byCtx == n) }
/-- START of a context that holds no work (R38, R264). -/
def Core.startFresh (c : Core) (n now : Nat) (addr x3 x4 x5 x6 x7 seed : DWord) (launch : Option Nat) : Core :=
  (c.dropWrites n).setCtx n
    { Ctx.reset with
      st := .run, next := addr, base := now, launch := launch, seed := seed,
      xs := [(2, BitVec.ofNat 64 (0x78000 + 0x600 * (n + 1))), (3, x3), (4, x4), (5, x5), (6, x6), (7, x7)] }
/-- A context that leaves PARK, known at a cycle: traps of its waits are its first candidates, and a stepped bundle retires (R12, R283, R329). -/
def State.leavePark (s : State) (p n known : Nat) : State :=
  let t := s.onCtx p n fun x => { (x.exitWaits known) with st := .run }
  t.retireStep p n known
/-- A stopped context runs again (R126, R264, R265, R282): it waits on where a wait is not over. -/
def State.restart (s : State) (p n : Nat) : State :=
  if (s.ctx p n).st ≠ .stop then s else
  let t := s.onCtx p n fun x =>
    let y := if x.nextWritten then { x with levels := [], frozen := 0, capture := [], nextWritten := false } else x
    { y with st := .park }
  if (t.ctx p n).waitsOver then t.leavePark p n (s.now - 1) else t
/-- A change of a context's state takes effect. -/
def State.applyChange (s : State) (p : Nat) : Change → State
  | .start n addr x3 x4 x5 x6 x7 seed fresh launch =>
    if fresh then s.onCore p fun c => c.startFresh n s.now addr x3 x4 x5 x6 x7 seed launch else s.restart p n
  | .stop n => s.onCtx p n fun x => if x.st = .run || x.st = .park then { x with st := .stop, nextWritten := false } else x
  | .rett n => s.restart p n
  | .resume n st =>
    if n = 0 then
      s.onCore p fun c => { (c.onCtx 0 fun x => { x with st := st, mmode := false }) with delivered := none }
    else
      let t := s.onCtx p n fun x => { x with st := st }
      if st = .run then t.leavePark p n (s.now - 1) else t
/-- The changes of the last core turn take effect at a core. -/
def State.applyChanges (s : State) (p : Nat) : State :=
  let gs := (s.core p).changes
  gs.foldl (fun s g => s.applyChange p g) (s.onCore p fun c => { c with changes := [] })
/-- Workers of a cancelled launch issue nothing more (R400). -/
def Ctx.haltCancelled (n : Nat) (x : Ctx) : Ctx :=
  if n ≠ 0 && x.cancelled && (x.st == .run || x.st == .park) then { x with st := .stop } else x
/-- Contexts that a SWAP takes issue no more (R266). -/
def Core.freezeSwaps (c : Core) : Core := (c.swapping.filter fun j => j.was.isNone).foldl Core.freeze c
/-- A core turn begins for a context (R5, R12, R51, R146): RUN and PARK count it, STOP and OUT add to its displacement. -/
def Ctx.countTurn (x : Ctx) : Ctx :=
  match x.st with
  | .run => { x with turn := x.turn + 1, ran := true }
  | .park =>
    { x with turn := x.turn + 1, ran := true, parks := x.parks.map fun k => if k.ended = .waiting then { k with turns := k.turns + 1 } else k }
  | .stop | .out => { x with disp := x.disp + 1, ran := false }
  | .free | .halt => { x with ran := false }
/-- A core turn begins at a core. -/
def State.openTurn (s : State) (p : Nat) : State :=
  (s.applyChanges p).onCore p fun c =>
    let d := (c.mapCtxs Ctx.haltCancelled).freezeSwaps
    { (d.mapCtxs fun _ x => x.countTurn) with pool := d.pool.map fun kq => (kq.1, { kq.2 with disp := kq.2.disp + 1 }) }
/-- The start of a core turn. -/
def State.boundaryPhase (s : State) : State :=
  if s.now % 16 = 0 then s.awake.foldl (fun s p => s.openTurn p) s else s

/-! ## Instants (R288, R307) -/

/-- Launch instants and re-tide instants of this cycle. -/
def State.instantsPhase (s : State) : State :=
  let ls := s.hub.launches.filter fun l => l.stage == .latched && l.instant == some s.now
  let t := s.alsoEach ls fun l => execLaunchInstant l.id.toNat
  t.alsoEach ((keys t.cores).filter fun p => (t.core p).retide == some t.now) execRetideInstant

/-! ## Issue (R12, R280, R281, R304) -/

/-- What comes before a context's bundle in its issue cycle: local retries, late faults of a stopped context, and a trap that it takes. -/
def State.beforeIssue (s : State) (p n : Nat) : State :=
  let t := match (s.ctx p n).st with
    | .park => s.also (execLocalRetry p n)
    | .run => s.also (if n = 0 then execC0TrapToLighthouse p else execWorkerTrapTaken p n)
    | .stop => s.onCtx p n fun x => x.holdDue s.now
    | _ => s
  if n ≠ 0 then t else
  let u := t.also (execC0TrapEntry p)
  -- C0 is in RUN in the whole of the turn in which it leaves STOP for a trap.
  if (t.ctx p 0).st = .stop && (u.ctx p 0).st = .run then
    u.onCtx p 0 fun x => { x with turn := x.turn + 1, disp := x.disp - 1, ran := true }
  else u
/-- Steps of MSEQs whose start in this cycle will be refused: their commands end before the cycle's bundles issue, so that the flags stand as from the last performed step's completion (R204; log 19). -/
def State.refuseSteps (s : State) : State :=
  s.awake.foldl (fun s p => s.alsoEach (((s.core p).mflight.filter fun k => (s.core p).stepRefused s.now k).map (·.id)) (execMseqStepStart p)) s
/-- What falls due for the contexts OUT in a core's Rockpool entries at their issue turns (R329). -/
def Core.holdOut (c : Core) (n now : Nat) : Core :=
  (c.pool.filter fun kq => kq.2.ctx == n && !kq.2.late.isEmpty).foldl (fun c kq => c.holdEntry kq.1 now) c
/-- The issue cycle of one context of every core. -/
def State.issuePhase (s : State) : State :=
  let n := s.now % 16
  let s := (s.awake.filter fun p => (s.core p).pool.any fun kq => kq.2.ctx == n && !kq.2.late.isEmpty).foldl
    (fun s p => s.onCore p fun c => c.holdOut n s.now) s
  let ps := s.awake.filter fun p => (find (s.core p).ctxs n).isSome
  let t := ps.foldl (fun s p => s.beforeIssue p n) s.refuseSteps
  { t with todo := ((ps.filter fun p => (t.ctx p n).st == .run).map fun p => .issue p n) ++ t.todo }

/-! ## The last cycle of a core turn (R23, R132, R146, R233, R272) -/

/-- The last cycle of a core turn at a core. -/
def State.closeTurn (s : State) (p : Nat) : State :=
  let t := s.endTurn p
  let parked := (keys (t.core p).ctxs).filter fun n => (t.ctx p n).st == .park
  let u := parked.foldl (fun s n => (s.also (execFelimExpiry p n)).also (execRpopLimitExpiry p n)) t
  if (u.core p).timerEnds then u.also (execC0TimerExpiry p) else u.onCore p Core.tickTimer
/-- The last cycle of a core turn. -/
def State.turnEndPhase (s : State) : State :=
  if s.now % 16 = 15 then s.awake.foldl (fun s p => s.closeTurn p) s else s

/-! ## The eddy plane (R132, R134, R231, R272) -/

/-- A packet's response is for a STEAL. -/
def State.answersSteal (s : State) (k : Packet) : Bool :=
  match k.body with
  | .reply _ (.record _) => true
  | .reply id _ => (s.core k.dst).ctxs.any fun kx => kx.2.parks.any fun q => q.id == id && (match q.op with | .steal _ _ => true | _ => false)
  | _ => false
/-- A response that has arrived. -/
def State.takeReply (s : State) (k : Packet) : State :=
  s.also (if s.answersSteal k then execStealResponse k.id else execRemoteResponseArrival k.id)
/-- An accepted request that needs no port A is performed. -/
def State.serve (s : State) (k : Packet) : State :=
  match k.body with
  | .steal => s.also (execStealRequest k.id)
  | .spawn _ _ _ _ _ _ _ => s.also (execSpawnRequest k.id)
  | .barrier _ _ => s.also (execBarrierRequest k.id)
  | .message _ _ _ => s.also (execEsndMessageArrival k.id)
  | .notice _ _ => s.also (execHnfyNoticeAccept k.id)
  | _ => s
/-- Packets that arrive, are sent again or are served in this cycle. -/
def State.networkPhase (s : State) : State :=
  let s1 := s.dropReplayed.eddyCycle.takeRetries
  let again := s1.packets.filter fun k => match k.resend with | some t => decide (t ≤ s1.now) | none => false
  let s2 := s1.alsoEach (again.map (·.id)) execRetryResend
  let ends := ((s2.packets.filter fun k => !k.body.isReply && k.arrived s2.now).map (·.dst)).eraseDups
  let s3 := ends.foldl (fun s d => s.accept d) s2
  let s4 := (s3.packets.filter fun k => k.accepted.isSome).foldl (fun s k => s.serve k) s3
  (s4.packets.filter fun k => k.body.isReply && k.arrived s4.now).foldl (fun s k => s.takeReply k) s4

/-! ## Units (R195 to R216, R227 to R249, R266, R285) -/

/-- The matrix unit of a core: completions, steps of MSEQs, the tide-locked start, refusals, and the start of a command without a start cycle. -/
def State.matrixCycle (s : State) (p : Nat) : State :=
  let ids (l : List Cmd) : List Nat := l.map (·.id)
  let s1 := s.alsoEach (ids (s.core p).mflight) (execMatrixCommandComplete p)
  let s2 := s1.alsoEach (ids ((s1.core p).mflight.filter fun k => k.started.isNone)) (execMseqStepStart p)
  let s3 := match (s2.core p).timedWinner s2.now with | some k => s2.also (execMatrixCommandStart p k.id) | none => s2
  let late := (sortBy (·.ctx) ((s3.core p).mq ++ (s3.core p).mwait ++ (s3.core p).mflight)).filter Cmd.timed
  let s4 := s3.alsoEach (ids late) (execMatrixStartRefused p)
  match (s4.core p).freeWinner s4.now with
  | some k => s4.also (execMatrixCommandStart p k.id)
  | none => s4
/-- The engine port of a core (R216). -/
def State.engineCycle (s : State) (p : Nat) : State :=
  let s1 := match s.engineTimed p with | some k => s.also (execEngineCommandStart p k.id) | none => s
  let late := (sortBy (·.ctx) ((s1.core p).eq ++ (s1.core p).ewait)).filter Cmd.timed
  let s2 := s1.alsoEach (late.map (·.id)) (execEngineStartRefused p)
  match s2.engineFree p with
  | some k => s2.also (execEngineCommandStart p k.id)
  | none => s2
/-- Commands that wait outside their queues enter them, the earliest-issued first (R195, R216, R332). -/
def State.enterQueues (s : State) (p : Nat) : State :=
  let waits := sortBy (·.id) ((s.core p).mwait ++ (s.core p).ewait)
  waits.foldl (fun s k => s.also (if k.matrix then execMatrixQueueEnter p k.ctx else execEngineQueueEnter p k.ctx)) s
/-- A core's relaxed local accesses whose time has come are performed, and remote ones that these held back are sent (R137); those of Emonef code are retired (R418). -/
def State.relaxedCycle (s : State) (p : Nat) : State :=
  let held (c : Core) : List Nat := (c.ctxs.filter fun kx => kx.2.relaxed.any (·.held)).map (·.1) ++
    (c.pool.filter fun kq => kq.2.relaxed.any (·.held)).map fun kq => 16 + kq.1
  let t := (s.core p).ctxs.foldl (fun s kx => s.alsoEach ((kx.2.relaxed.filter fun r => !r.remote && !r.performed && decide (r.due ≤ s.now)).map (·.id))
    (execRelaxedAccessPerform p kx.1)) s
  let u := (held (t.core p)).foldl (fun s n => s.sendHeld p n) t
  if !(u.core p).emonef then u else
  (((u.core p).ctxs.filter fun kx => !kx.2.relaxed.isEmpty).map (·.1)).foldl (fun s n => s.settleRelaxed p n) u
/-- Restores, moved entries and migrations of a core that are complete. -/
def State.moveCycle (s : State) (p : Nat) : State :=
  let c := s.core p
  let s2 := s.alsoEach (c.resuming.map (·.1)) (execResumeComplete p)
  let movs := c.eflight.filter fun k => match k.op with | .movc _ _ _ _ => true | _ => false
  let s3 := s2.alsoEach (movs.map (·.id)) (execMovcComplete p)
  let s4 := if c.migration.isSome then s3.also (execMigrationStateCopy p) else s3
  if !(s4.core p).replaying then s4 else
  let now := ((s4.core p).replay.filter fun r => decide (r.1 ≤ s4.now)).length
  s4.alsoEach (upTo (max 1 now)) fun _ => execReplayReceive p
/-- A tidal router has something to do in this cycle. -/
def Core.tidalBusy (c : Core) (now : Nat) : Bool :=
  (c.flits.any fun f => decide (f.cycle ≤ now)) || c.eflight.any fun k => isTidal k.op
/-- A tidal router in this cycle: delivery, strays, hops (R362, R365). -/
def State.tidalCycle (s : State) (p : Nat) : State :=
  let s1 := s.also (execTidalFlitDelivery p)
  (s1.alsoEach routeOuts (execStrayFlitDiscard p)).also (execTidalFlitHop p)
/-- Spindrift commands of a cove that complete at a cycle of their own (R249). -/
def State.coveEnds (s : State) (key : Nat) : List Nat :=
  match (s.cove key).owner with
  | some (p, _) => ((s.core p).eflight.filter fun k => isSd k.op && decide (k.until_ ≤ s.now)).map (·.id)
  | none => []
/-- A cove in this cycle. -/
def State.coveCycle (s : State) (key : Nat) : State :=
  let t := s.also (execSpindriftSweep key)
  t.alsoEach (t.coveEnds key) (execSpindriftCommandComplete key)
/-- All units in this cycle. -/
def State.unitsPhase (s : State) : State :=
  let ps := keys s.cores
  let s0 := ps.foldl (fun s p => if (s.core p).eflight.isEmpty then s else (s.endSends p).endPosts p) s
  let s1 := ps.foldl (fun s p => ((((s.matrixCycle p).engineCycle p).enterQueues p).also (execBankHandover p)).relaxedCycle p) s0
  let s2 := (keys s1.coves).foldl (fun s k => s.coveCycle k) s1
  let s3 := (ps.filter fun p => (s2.core p).tidalBusy s2.now).foldl (fun s p => s.tidalCycle p) s2
  ps.foldl (fun s p => s.moveCycle p) s3

/-! ## Port A (R131, R132, R320) -/

/-- A request that waits for port A of a core: of eddy rank (a packet, a watched request, a word of a message), of Spindrift, or of quay and strand cores (a word of a copy to be written or read, a local signal, a TRCV's flit, a part of a TIDE's table, a link flit to be taken, the sends of a port). -/
inductive PortReq
  | packet (id : Nat) | watch (slot : Nat) | message (ctx : Nat)
  | spindrift (cmd : Nat)
  | copyWrite (copy move : Nat) | copyRead (copy read : Nat) | signal (cmd : Nat) | flit (cmd : Nat)
  | tide (cmd : Nat)
  | linkTake (port ch : Nat) | linkSend (port : Nat)
  deriving DecidableEq, Repr
/-- A request in its place: cycle of arrival, free cycles waited, and words. -/
structure Waiter where
  since : Nat
  waited : Nat
  req : PortReq
  words : List Nat
  deriving DecidableEq, Repr
/-- An accepted request that needs port A. -/
def Body.needsPort : Body → Bool
  | .access _ _ _ | .signal _ _ | .join | .ringPush _ _ | .ringPop _ => true
  | _ => false
/-- A packet's request may be offered: not behind an earlier one of the same context that overlaps it (R134, R137), and no deque operation out of its place (R272). -/
def State.offered (s : State) (c : Core) (ks : List Packet) (k : Packet) : Bool :=
  !(ks.any fun q => q.src == k.src && q.sctx == k.sctx && decide (q.accepted.getD 0 < k.accepted.getD 0) &&
    (q.words c).any fun w => w ∈ k.words c) &&
  (k.body != .join || s.joinRipe k)
/-- The requests of eddy rank at a core. A word of a message ranks by the cycle in which its ERCV issued (log 24). -/
def State.eddyReqs (s : State) (p : Nat) : List Waiter :=
  let c := s.core p
  let all := s.packets.filter fun k => k.dst == p && k.accepted.isSome && k.body.needsPort
  let ks := (all.filter fun k => s.offered c all k).map fun k => ⟨k.accepted.getD 0, k.waited, .packet k.id, k.words c⟩
  let ws := (c.watches.filter fun w => w.retest == 2).map fun w =>
    ⟨w.pkt.accepted.getD 0, w.pkt.waited, .watch w.slot, w.pkt.words c⟩
  let ms := (keys c.ctxs).filterMap fun n => if (c.ctx n).st ≠ .park then none else
    (c.ercvWait n).map fun k => ⟨k.1.issue, k.1.waited, .message n, [ercvAddr k.1]⟩
  sortBy (·.since) (ks ++ ws ++ ms)
/-- The Spindrift commands of a core that wait for port A, in the order of their starts (R249). -/
def State.sdReqs (s : State) (p : Nat) : List Waiter :=
  if s.coveOwner p ≠ some p then [] else
  sortBy (·.since) (((s.core p).eflight.filter fun k => isSd k.op).filterMap fun k =>
    k.sdNext.map fun a => ⟨k.started.getD 0, k.waited, .spindrift k.id, [a]⟩)
/-- A word that a copy reads may be offered: a frozen core's is held, but for its own C0's (R284). -/
def State.mayRead (s : State) (k : Copy) (m : WordRead) : Bool :=
  decide (m.due ≤ s.now) && k.stage != .ended && !((s.core m.core).frozen && !(k.core == m.core && k.ctx == 0))
/-- The words of copies that wait at a core. -/
def State.copyReqs (s : State) (p : Nat) : List Waiter :=
  (s.copies.map fun k =>
    ((k.moves.filter fun m => m.core == p && k.toLocal && s.mayWrite k m).map fun m => ⟨m.due, 0, PortReq.copyWrite k.id m.id, [m.laddr]⟩) ++
    ((k.reads.filter fun m => m.core == p && s.mayRead k m).map fun m => ⟨m.due, 0, PortReq.copyRead k.id m.id, [m.laddr]⟩)).flatten
/-- The channels declared on a strand core, with their ports. -/
def Core.linkPorts (c : Core) : List (Nat × Nat) := (c.launches.map fun l => l.chans.map fun d => (declPort d, d.1)).flatten.eraseDups
/-- The link flits that wait at a strand core: to be taken by its commands, and the slots of the ports at which one of its commands sends (R371). -/
def State.linkReqs (s : State) (p : Nat) : List Waiter :=
  if kindOf p ≠ 2 then [] else
  let c := s.core p
  let takes := c.linkPorts.filterMap fun d => (s.nextTake d.1 d.2).bind fun t =>
    if t.1 = p then some ⟨max t.2.2.1 (t.2.1.started.getD 0), 0, PortReq.linkTake d.1 d.2, t.2.1.flitWords⟩ else none
  let heads (port : Nat) : List Cmd := (c.linkPorts.filter (·.1 == port)).filterMap fun d => (s.link d.1 d.2).senders.head?.bind c.flight
  let sends := (c.linkPorts.map (·.1)).eraseDups.filterMap fun port =>
    match heads port with
    | [] => none
    | k :: t => some ⟨t.foldl (fun m q => min m (q.started.getD 0)) (k.started.getD 0), 0, PortReq.linkSend port, []⟩
  takes ++ sends
/-- The requests of quay and strand cores at a core, a TRCV's flit (R228) and a TIDE's table (R288) among them, in the order of their arrivals (R320). -/
def State.quayReqs (s : State) (p : Nat) : List Waiter :=
  let c := s.core p
  let sigs := (c.eflight.filter fun k => match k.op with | .sigs _ _ _ _ => !isRemote k.a | _ => false).map fun k =>
    ⟨k.started.getD 0, 0, PortReq.signal k.id, [laddrOf k.a / 8 * 8]⟩
  let flits := (c.eflight.filter fun k => match k.op with | .trcv _ _ _ _ => !k.data.isEmpty | _ => false).map fun k =>
    ⟨k.started.getD 0, 0, PortReq.flit k.id, k.data.map (·.1)⟩
  let tides := (c.eflight.filter fun k => match k.op with | .tide _ _ => true | _ => false).map fun k =>
    ⟨k.started.getD 0, 0, PortReq.tide k.id, k.tideWords⟩
  sortBy (·.since) (s.copyReqs p ++ sigs ++ flits ++ tides ++ s.linkReqs p)
/-- A request is granted. -/
def State.grant (s : State) (p : Nat) : PortReq → State
  | .packet id =>
    match s.packet id with
    | some k => match k.body with
      | .ringPush _ _ | .ringPop _ => s.also (execRingRemoteOp id)
      | .join => s.also (execRemoteJoin id)
      | _ => s.also (execRemoteAccessPerform id)
    | none => s
  | .watch slot => s.also (execWatchSlotRetest p slot)
  | .message n => s.also (execErcvDelivery p n)
  | .spindrift id =>
    match (s.core p).flight id with
    | some k => match k.op with
      | .sdldCell _ _ _ _ | .sdldCoup _ _ _ | .sdldBridge _ _ _ => s.also (execSdldRecordApply (shoreKey p))
      | _ => s.also (execSpindriftCommandComplete (shoreKey p) id)
    | none => s
  | .copyWrite k _ => s.also (execCopyWordWrite k)
  | .copyRead k m => (s.readWord k m).bump
  | .signal id => s.also (execSignalWordPerform p id)
  | .flit id => match (s.core p).flight id with | some k => s.writeFlit p k | none => s
  | .tide id => match (s.core p).flight id with | some k => (s.tideRead p k).bump | none => s
  | .linkTake port ch => s.also (execLinkFlitArrival port ch [])
  | .linkSend port => s.also (execLinkFlitSend port)
/-- A waiting request counts a free cycle (R320). -/
def State.countWait (s : State) (p : Nat) : PortReq → State
  | .packet id => s.onPacket id fun k => { k with waited := k.waited + 1 }
  | .watch slot => s.onCore p fun c => { c with watches := c.watches.map fun w =>
      if w.slot = slot then { w with pkt := { w.pkt with waited := w.pkt.waited + 1 } } else w }
  | .message n => s.onCtx p n fun x => { x with parks := x.parks.map fun k =>
      if k.kind = .ercv && k.ended = .waiting then { k with waited := k.waited + 1 } else k }
  | .spindrift id => s.onCore p fun c => c.onFlight id fun k => { k with waited := k.waited + 1 }
  | _ => s
/-- The waiting requests of a core for which this is a free cycle count it. -/
def State.countWaits (s : State) (p : Nat) : State :=
  ((s.eddyReqs p ++ s.sdReqs p).filter fun r => (s.core p).portFree r.words).foldl (fun s r => s.countWait p r.req) s
/-- A request that has waited through three free cycles before this one (R320). -/
def aged (waited : Nat) : Bool := decide (3 < waited)
/-- A TRCV's flit is due: it is written in this cycle whatever its banks do (R228). -/
def State.pressing (s : State) (p : Nat) : PortReq → Bool
  | .flit id => match (s.core p).flight id with | some k => decide (k.started.getD 0 + 31 ≤ s.now) | none => false
  | _ => false
/-- The requests of one rank in order: each is granted whose banks are free, and one that waits keeps its free banks from those behind it (R131, R132). `held` lists these banks, which stand as used. -/
def State.serveRank (p : Nat) : List Waiter → List Nat → State → State
  | [], held, s => s.onCore p fun c => { c with used := c.used.filter fun b => !(b ∈ held) }
  | r :: t, held, s =>
    let c := s.core p
    if c.portFree r.words || s.pressing p r.req then State.serveRank p t held (s.grant p r.req)
    else
      let keep := ((r.words.map bankOf).filter fun b => !(b ∈ c.used)).eraseDups
      State.serveRank p t (held ++ keep) (s.onCore p fun c => { c with used := c.used ++ keep })
/-- The words that MRDs write through port B in this cycle stand after every port-A write of it (R211). Model's choice: a command writes all its words in the one cycle in which it completes (log 19). -/
def State.applyReads (s : State) (p : Nat) : State :=
  let ws := (s.core p).mwrites
  if ws.isEmpty then s else
  s.onCore p fun c =>
    let d := ws.foldl (fun c w => c.storeBytes w.1 8 w.2.toNat) { c with mwrites := [] }
    d.noteWriter (ws.map (·.1)) p 256
/-- Port A of a core in this cycle, in the order of R320. -/
def State.portCycle (s : State) (p : Nat) : State :=
  let s0 := s.countWaits p
  let s1 := State.serveRank p ((s0.eddyReqs p).filter fun r => aged r.waited) [] s0
  let s2 := State.serveRank p ((s1.sdReqs p).filter fun r => aged r.waited) [] s1
  let s3 := State.serveRank p (s2.quayReqs p) [] s2
  let s4 := State.serveRank p ((s3.eddyReqs p).filter fun r => !aged r.waited) [] s3
  let s5 := (State.serveRank p ((s4.sdReqs p).filter fun r => !aged r.waited && r.waited ≠ 0) [] s4).applyReads p
  -- A swap writes its entry through port B, after every use of port A (R333).
  s5.alsoEach ((s5.core p).swapping.map (·.ctx)) (execSwapComplete p)
/-- Port A of every core. -/
def State.portPhase (s : State) : State := (keys s.cores).foldl (fun s p => s.portCycle p) s

/-! ## Copies (R323, R343 to R348, R358) -/

/-- The channel pairs that have bursts waiting. -/
def State.busyPairs (s : State) : List Nat :=
  let qs := sortBy id (keys s.quays ++ s.activeWalks.map fun w => servingQuay w.entryAddr).eraseDups
  qs.filter fun q => kindOf q == 1 && [0, 1, 2].any (s.waiting q)
/-- A pair that had nothing waiting in the last cycle has gone through its rounds without a grant: a round starts, with the weights that QARB then holds (R348, R349). -/
def State.freshRound (s : State) (q : Nat) : State :=
  let u := s.quay q
  let w := (s.core q).qarb
  s.onQuay q fun v => if u.busyAt + 1 < s.now then
      { (s.newStrandRound v) with turn := 0, left := (w.extractLsb' 0 8).toNat, granted := false, weights := w, busyAt := s.now }
    else { v with busyAt := s.now }
/-- A channel pair in this cycle: 4 bursts while some wait (R348). -/
def State.pairCycle (s : State) (q : Nat) : State :=
  (upTo 4).foldl (fun s _ => if [0, 1, 2].any (s.waiting q) then s.also (execChannelPairRound q) else s) (s.freshRound q)
/-- A strand core that serves its own copies between local stores: 4 bursts in a cycle (R222, R350; log 4). -/
def State.strandCycle (s : State) (q : Nat) : State :=
  (upTo 4).foldl (fun s _ =>
    if (s.quay q).pieces.isEmpty then s else (s.onQuay q fun u => { u with grants := (1, 0, 0) }).also (execPieceServe q)) s
/-- Copies in this cycle. -/
def State.copiesPhase (s : State) : State :=
  let ids (s : State) : List Nat := s.copies.map (·.id)
  let s1 := s.alsoEach (ids s) execCopyServiceRequest
  let s2 := s1.alsoEach ((s1.quays.filter fun kq => !kq.2.service.isEmpty).map (·.1)) execCopyTranslate
  let s4 := s2.busyPairs.foldl (fun s q => s.pairCycle q) s2
  let s5 := ((s4.quays.filter fun kq => kindOf kq.1 == 2 && !kq.2.pieces.isEmpty).map (·.1)).foldl (fun s q => s.strandCycle q) s4
  let codes := s5.copies.filter fun k => match k.op with | .codel _ _ _ => true | _ => false
  let s6 := s5.alsoEach (codes.map (·.id)) execCodelLineWrite
  (s6.alsoEach (ids s6) execCopyFault).alsoEach (ids s6) execCopyComplete

/-! ## The hub (R307 to R319, R377 to R407, R429 to R431) -/

/-- What a queue does next, done. -/
def State.queueStep (s : State) (q : Nat) : State :=
  match s.queueAct q with
  | none => s
  | some .launch => s.also (execLaunchPacket q)
  | some .barrierAnd => s.also (execBarrierAnd q)
  | some .signal => s.also (execSignalPacket q)
  | some .arm => s.also (execArmPacket q)
  | some .disarm => s.also (execDisarmPacket q)
  | some .resetq => s.also (execResetqPacket q)
  | some (.error e) => s.also (execQueueError q e)
/-- The bursts of reading a code object and those that its LIBS names (R412). -/
def State.objectBursts (s : State) (root : DWord) (va : Nat) : List Nat :=
  let one (va : Nat) (o : Obj) : List Nat :=
    s.hubBursts root va 64 ++ (o.secs.map fun k => s.hubBursts root (va + k.off) k.bytes.length).flatten
  match s.readObj root va with
  | none => s.hubBursts root va 64
  | some o => one va o ++ (o.libs.map fun a => match s.readObj root a with | some l => one a l | none => []).flatten
/-- The bursts of the reads that a queue's next act makes (R346, R348): the packet, and the block and the object of a launch or the words of a barrier or a signal. -/
def State.queueBursts (s : State) (q : Nat) : List Nat :=
  let k := s.queue q
  s.hubBursts k.droot (k.ring.toNat + 64 * (k.rdidx.toNat % k.slots)) 64 ++
  match s.nextPacket q, s.queueAct q with
  | .ok w, some .launch =>
    let block := (nthD 0 w 1).toNat
    s.hubBursts k.droot block 256 ++ (match s.hubRead k.droot block 256 with
      | .ok bs => s.objectBursts k.droot (wordAt bs 0).toNat
      | .error _ => [])
  | .ok w, some .barrierAnd => (((w.drop 1).take 5).filter (· != 0)).map (fun a => s.hubBursts k.droot a.toNat 8) |>.flatten
  | .ok w, some .signal => s.hubBursts k.droot (nthD 0 w 1).toNat 8
  | _, _ => []
/-- A queue does what it does next, once its reads are granted and the decision is noted (R348, R406). -/
def State.queueCycle (s : State) (q : Nat) : State :=
  s.gate (.queue q) (fun s => (s.queueAct q).isSome) (fun s => s.queueBursts q) fun s => s.persist.queueStep q
/-- The BARRIER-AND packets that wait are tested again, over and over, each time that their reads are granted (R348, R392). -/
def State.barrierCycle (s : State) : State :=
  s.gate .barriers (fun s => s.active && !s.hub.barAnds.isEmpty)
    (fun s => (s.hub.barAnds.map fun b => (b.words.map fun a => s.hubBursts (s.queue b.queue).droot a 8).flatten).flatten)
    fun s => s.also execBarrierAndRecheck
/-- Without an active watch the deadlines of granted launches move on (R407). -/
def State.holdDeadlines (s : State) : State :=
  if s.active then s else
  let later (l : Launch) : Launch := if l.stage = .granted then { l with deadline := l.deadline.map (· + 1) } else l
  s.onHub fun h => { h with launches := h.launches.map later }
/-- Launches in this cycle: those whose loading has failed are refused (R310), and the rest go on. -/
def State.launchCycle (s : State) : State :=
  let at_ (s : State) (g : Stage) : List Launch := s.hub.launches.filter fun l => l.stage == g
  let s1 := ((at_ s .granted).filter fun l => l.loadFault).foldl (fun s l => s.refuseLaunch l) s
  -- Resources are granted by an active watch (R407).
  let s2 := if s1.active then s1.alsoEach ((at_ s1 .waiting).map fun l => l.id.toNat) execLaunchResourceGrant else s1
  let s3 := s2.alsoEach ((at_ s2 .granted).map fun l => l.id.toNat) execLaunchLatchWrite
  let s4 := s3.alsoEach ((at_ s3 .granted).map fun l => l.id.toNat) execLaunchDeadlineExpiry
  let due := s4.hub.launches.any fun l => l.stage == .flushing || (match l.slack with | some (_, d) => decide (d ≤ s4.now) | none => false)
  if s4.now % 64 = 0 || due then s4.also execSlackWaterSample else s4
/-- Acknowledgements of resets that are ready. -/
def State.ackCycle (s : State) (q : Nat) : State :=
  s.alsoEach ((s.queue q).acks.filter fun p => s.ackReady q p) (execResetAcknowledge q)
/-- Timers, watches, dies and shootdowns. -/
def State.watchCycle (s : State) : State :=
  let late := s.hub.harts.filter fun kh => kh.2.timerPending != decide (kh.2.mtimecmp.toNat ≤ s.now % 2 ^ 64)
  let s1 := s.alsoEach (late.map (·.1)) execMtimecmpMatch
  let dead := s1.hub.watches.filter fun kw => kw.2.booted && !kw.2.inReset && !s1.beating kw.1
  let s2 := s1.alsoEach (dead.map (·.1)) execWatchFailure
  let s3 := (s2.alsoEach (upTo 4) execDiePark).alsoEach (upTo 4) execDieUnpark
  s3.also execShootdownComplete
/-- The hub in this cycle. -/
def State.hubPhase (s : State) : State :=
  let qs := keys s.hub.queues
  let s1 := s.holdDeadlines.raiseMigrations
  let s2 := qs.foldl (fun s q => s.queueCycle q) s1
  let s3 := s2.barrierCycle
  let s4 := s3.launchCycle
  let s5 := if s4.now % 1024 = 0 then
      let due := s4.hub.wheel.filter fun ke => ke.2.armed && decide (ke.2.due.toNat ≤ s4.now) && !ke.2.busy
      (due.foldl (fun s _ => s.persist) s4).also execEbbWheelTick
    else s4
  (qs.foldl (fun s q => s.ackCycle q) s5).watchCycle.kernelCycle

/-! ## The end of a core turn (R12, R134, R210, R215, R226, R269, R283) -/

/-- A FOOT that waited has room: its region attaches to the matrix command of its bundle, or to the next command (R226). -/
def State.lateFoot (s : State) (p n : Nat) (k : Park) (wr : Bool) : State :=
  let r := footRegion k.a k.b wr
  let c := s.core p
  match firstOf (fun q => q.ctx == n && q.issue == k.issue && !q.foot.isEmpty) (c.mq ++ c.mwait ++ c.mflight) with
  | some q => s.onCore p fun c => c.attach q.id r
  | none => s.onCtx p n fun x => { x with foot := x.foot ++ [(r, 0)] }
/-- A wait whose condition holds at the end of a core turn is over. -/
def State.pollWait (s : State) (p n : Nat) (k : Park) : State :=
  let c := s.core p
  let x := c.ctx n
  if k.ended ≠ .waiting then s else
  match k.kind, k.op with
  | .tags, .twait _ => if x.tags &&& k.a = k.a then s.endWait p n k.id none else s
  | .tags, .tany _ _ =>
    let v := x.tags &&& k.a
    if v ≠ 0 then s.endWait p n k.id (some (.word (BitVec.ofNat 64 (lowestBit v)))) else s
  | .msync, _ => if c.msyncWaits n k.id s.now then s else s.endWait p n k.id none
  | .fence, i =>
    if !s.fenceClear p n i k.counts then s else
    let (d, t) := c.retireRelaxed n (turnLast s.now)
    let u := s.setCore p d
    match t with
    | none => u.endWait p n k.id none
    | some (cause, tval) => u.trapWait p n k.id cause tval
  | .drain, _ => s.also (execHaltDrainComplete p n)
  | .stepDrain, _ =>
    (match x.stepped with
     | some (_, cmds) => if c.anyPending cmds then s else s.endWait p n k.id none
     | none => s.endWait p n k.id none)
  | .queueFull, .foot _ _ wr => if c.hazardRoom 1 then (s.lateFoot p n k wr).endWait p n k.id none else s
  | .emonef, .send _ ch =>
    let key := s.emKey p n ch.toNat
    if s.emRoom key then (s.emSend c p n key k.a).endWait p n k.id none else s
  | .emonef, .recv _ ch =>
    let key := s.emKey p n ch.toNat
    if (s.emNext p key).isNone then s else (s.emRecv p n key k.a).endWait p n k.id none
  | _, _ => s
/-- A parked context at the end of a core turn: it leaves PARK if its waits are over, with the late faults that a tag wait's exit takes (R223). -/
def State.closeParked (s : State) (p n : Nat) : State :=
  let t := (s.ctx p n).parks.foldl (fun s k => s.pollWait p n k) s
  if (t.ctx p n).st = .park && (t.ctx p n).waitsOver then
    (t.leavePark p n t.now).exitTrap p n ((t.ctx p n).parks.any fun k => k.kind == .tags)
  else t
/-- The end of a core turn. -/
def State.closePhase (s : State) : State :=
  if s.now % 16 ≠ 15 then s else
  s.awake.foldl (fun s p =>
    ((keys (s.core p).ctxs).filter fun n => (s.ctx p n).st == .park).foldl (fun s n => s.closeParked p n) s) s

/-- One part of a cycle. -/
def State.expand (s : State) : Phase → State
  | .land => s.landPhase
  | .boundary => s.boundaryPhase
  | .instants => s.instantsPhase
  | .issue => s.issuePhase
  | .turnEnd => s.turnEndPhase
  | .network => s.networkPhase
  | .units => s.unitsPhase
  | .portA => s.portPhase
  | .copies => s.copiesPhase
  | .hub => s.hubPhase
  | .close => s.closePhase

end Sys2Proof.Machine
end

