-- ==== Sys2Proof/Machine/Dispatch.lean ====
section
/-! DEFINITION. Which meaning each constructor of Instr has. -/
namespace Sys2Proof.Machine

/-- An operation of the bundle being issued, or an event of the machine. -/
def exec (i : Instr) (s : State) : Host.Outcome State Fault Refusal :=
  match i with
  | .pureWaitBundle w g n => Sys2Proof.Machine.execPureWaitBundle w g n s
  | .add d a b w => Sys2Proof.Machine.execAdd d a b w s
  | .sub d a b w => Sys2Proof.Machine.execSub d a b w s
  | .and d a b => Sys2Proof.Machine.execAnd d a b s
  | .or d a b => Sys2Proof.Machine.execOr d a b s
  | .xor d a b => Sys2Proof.Machine.execXor d a b s
  | .sll d a b w => Sys2Proof.Machine.execSll d a b w s
  | .srl d a b w => Sys2Proof.Machine.execSrl d a b w s
  | .sra d a b w => Sys2Proof.Machine.execSra d a b w s
  | .mul d a b w => Sys2Proof.Machine.execMul d a b w s
  | .mulh d a b sg => Sys2Proof.Machine.execMulh d a b sg s
  | .div d a b w u => Sys2Proof.Machine.execDiv d a b w u s
  | .rem d a b w u => Sys2Proof.Machine.execRem d a b w u s
  | .minmax d a b max u => Sys2Proof.Machine.execMinmax d a b max u s
  | .cmp q a b c => Sys2Proof.Machine.execCmp q a b c s
  | .sel d a b q inv => Sys2Proof.Machine.execSel d a b q inv s
  | .addi d a imm => Sys2Proof.Machine.execAddi d a imm s
  | .andi d a imm => Sys2Proof.Machine.execAndi d a imm s
  | .ori d a imm => Sys2Proof.Machine.execOri d a imm s
  | .xori d a imm => Sys2Proof.Machine.execXori d a imm s
  | .shi d a kind w amt => Sys2Proof.Machine.execShi d a kind w amt s
  | .lui d imm => Sys2Proof.Machine.execLui d imm s
  | .cmpi q a imm => Sys2Proof.Machine.execCmpi q a imm s
  | .bfx d a sx wm1 pos => Sys2Proof.Machine.execBfx d a sx wm1 pos s
  | .bfi d a wm1 pos => Sys2Proof.Machine.execBfi d a wm1 pos s
  | .bitc d a kind => Sys2Proof.Machine.execBitc d a kind s
  | .adda d a b st_ => Sys2Proof.Machine.execAdda d a b st_ s
  | .br imm => Sys2Proof.Machine.execBr imm s
  | .jal d imm => Sys2Proof.Machine.execJal d imm s
  | .jalr d a imm => Sys2Proof.Machine.execJalr d a imm s
  | .loop d a stride lo fo len => Sys2Proof.Machine.execLoop d a stride lo fo len s
  | .loopx d a b lo fo len => Sys2Proof.Machine.execLoopx d a b lo fo len s
  | .mfs d spr => Sys2Proof.Machine.execMfs d spr s
  | .mts spr a => Sys2Proof.Machine.execMts spr a s
  | .timerWrite a => Sys2Proof.Machine.execTimerWrite a s
  | .xvalWrite a => Sys2Proof.Machine.execXvalWrite a s
  | .fop op t d a b => Sys2Proof.Machine.execFop op t d a b s
  | .ffma form t d a b => Sys2Proof.Machine.execFfma form t d a b s
  | .fcmp c t q a b => Sys2Proof.Machine.execFcmp c t q a b s
  | .fcvt src dst m d a => Sys2Proof.Machine.execFcvt src dst m d a s
  | .trap imm => Sys2Proof.Machine.execTrap imm s
  | .brk imm => Sys2Proof.Machine.execBrk imm s
  | .rett => Sys2Proof.Machine.execRett s
  | .rettW a => Sys2Proof.Machine.execRettW a s
  | .halt => Sys2Proof.Machine.execHalt s
  | .phase => Sys2Proof.Machine.execPhase s
  | .start a b => Sys2Proof.Machine.execStart a b s
  | .stop a => Sys2Proof.Machine.execStop a s
  | .swap d a b ph => Sys2Proof.Machine.execSwap d a b ph s
  | .resume a => Sys2Proof.Machine.execResume a s
  | .migrArm d a => Sys2Proof.Machine.execMigrArm d a s
  | .migrFreeze => Sys2Proof.Machine.execMigrFreeze s
  | .migrCommit d a => Sys2Proof.Machine.execMigrCommit d a s
  | .migrAbort => Sys2Proof.Machine.execMigrAbort s
  | .ld8 d a imm => Sys2Proof.Machine.execLd8 d a imm s
  | .ld8z d a imm => Sys2Proof.Machine.execLd8z d a imm s
  | .ld16 d a imm => Sys2Proof.Machine.execLd16 d a imm s
  | .ld16z d a imm => Sys2Proof.Machine.execLd16z d a imm s
  | .ld32 d a imm => Sys2Proof.Machine.execLd32 d a imm s
  | .ld32z d a imm => Sys2Proof.Machine.execLd32z d a imm s
  | .ld64 d a imm => Sys2Proof.Machine.execLd64 d a imm s
  | .st8 d a imm => Sys2Proof.Machine.execSt8 d a imm s
  | .st16 d a imm => Sys2Proof.Machine.execSt16 d a imm s
  | .st32 d a imm => Sys2Proof.Machine.execSt32 d a imm s
  | .st64 d a imm => Sys2Proof.Machine.execSt64 d a imm s
  | .ldv d a imm => Sys2Proof.Machine.execLdv d a imm s
  | .stv d a imm => Sys2Proof.Machine.execStv d a imm s
  | .ldbit d a b sx wm1 => Sys2Proof.Machine.execLdbit d a b sx wm1 s
  | .stbit d a b wm1 => Sys2Proof.Machine.execStbit d a b wm1 s
  | .ldf d a imm => Sys2Proof.Machine.execLdf d a imm s
  | .ldff d a imm => Sys2Proof.Machine.execLdff d a imm s
  | .ste d a imm => Sys2Proof.Machine.execSte d a imm s
  | .stf d a imm => Sys2Proof.Machine.execStf d a imm s
  | .aswp d a b w => Sys2Proof.Machine.execAswp d a b w s
  | .acas d a b w => Sys2Proof.Machine.execAcas d a b w s
  | .aadd d a b w => Sys2Proof.Machine.execAadd d a b w s
  | .alog op d a b w => Sys2Proof.Machine.execAlog op d a b w s
  | .aminmax d a b max u w => Sys2Proof.Machine.execAminmax d a b max u w s
  | .afadd d a b bf16 => Sys2Proof.Machine.execAfadd d a b bf16 s
  | .fence st_ => Sys2Proof.Machine.execFence st_ s
  | .waitm => Sys2Proof.Machine.execWaitm s
  | .ldgv d a b sz sh => Sys2Proof.Machine.execLdgv d a b sz sh s
  | .stsv d a b sz sh => Sys2Proof.Machine.execStsv d a b sz sh s
  | .febit a b full => Sys2Proof.Machine.execFebit a b full s
  | .sigw d a b c => Sys2Proof.Machine.execSigw d a b c s
  | .vadd t d a b m => Sys2Proof.Machine.execVadd t d a b m s
  | .vsub t d a b m => Sys2Proof.Machine.execVsub t d a b m s
  | .vmul t d a b m => Sys2Proof.Machine.execVmul t d a b m s
  | .vfma t d a b c => Sys2Proof.Machine.execVfma t d a b c s
  | .vfms t d a b c => Sys2Proof.Machine.execVfms t d a b c s
  | .vmin t d a b => Sys2Proof.Machine.execVmin t d a b s
  | .vmax t d a b => Sys2Proof.Machine.execVmax t d a b s
  | .vabsn op t d a => Sys2Proof.Machine.execVabsn op t d a s
  | .viadd t st_ d a b => Sys2Proof.Machine.execViadd t st_ d a b s
  | .visub t st_ d a b => Sys2Proof.Machine.execVisub t st_ d a b s
  | .vimul t h d a b => Sys2Proof.Machine.execVimul t h d a b s
  | .vimad t d a b c => Sys2Proof.Machine.execVimad t d a b c s
  | .vand d a b inv => Sys2Proof.Machine.execVand d a b inv s
  | .vor d a b inv => Sys2Proof.Machine.execVor d a b inv s
  | .vxor d a b inv => Sys2Proof.Machine.execVxor d a b inv s
  | .vshl t d a n => Sys2Proof.Machine.execVshl t d a n s
  | .vshr t d a n => Sys2Proof.Machine.execVshr t d a n s
  | .vsar t d a n => Sys2Proof.Machine.execVsar t d a n s
  | .vcmp c t d a b => Sys2Proof.Machine.execVcmp c t d a b s
  | .vicmp c t d a b => Sys2Proof.Machine.execVicmp c t d a b s
  | .vsel d a b c => Sys2Proof.Machine.execVsel d a b c s
  | .vpermb d a b upper hi => Sys2Proof.Machine.execVpermb d a b upper hi s
  | .vshuf d a b c => Sys2Proof.Machine.execVshuf d a b c s
  | .vslide t d a b n => Sys2Proof.Machine.execVslide t d a b n s
  | .vbcast t d src => Sys2Proof.Machine.execVbcast t d src s
  | .vext t d a lane => Sys2Proof.Machine.execVext t d a lane s
  | .vins t d a lane => Sys2Proof.Machine.execVins t d a lane s
  | .vred op t d a => Sys2Proof.Machine.execVred op t d a s
  | .vsfu fn t d a => Sys2Proof.Machine.execVsfu fn t d a s
  | .vcvt t other into pos sat m d a => Sys2Proof.Machine.execVcvt t other into pos sat m d a s
  | .vcvti t toFp u m d a => Sys2Proof.Machine.execVcvti t toFp u m d a s
  | .vqmx f sf r d a c => Sys2Proof.Machine.execVqmx f sf r d a c s
  | .vdqmx t f sf pos d a c => Sys2Proof.Machine.execVdqmx t f sf pos d a c s
  | .vcmpr k pos d a c => Sys2Proof.Machine.execVcmpr k pos d a c s
  | .vpack w4 d a => Sys2Proof.Machine.execVpack w4 d a s
  | .vunpk w4 d a => Sys2Proof.Machine.execVunpk w4 d a s
  | .vrng unif d => Sys2Proof.Machine.execVrng unif d s
  | .vdot f d a b c => Sys2Proof.Machine.execVdot f d a b c s
  | .vbitc k t d a => Sys2Proof.Machine.execVbitc k t d a s
  | .vsatn t m d a b => Sys2Proof.Machine.execVsatn t m d a b s
  | .vmaskq t d a => Sys2Proof.Machine.execVmaskq t d a s
  | .viota t d a b => Sys2Proof.Machine.execViota t d a b s
  | .vscl t sf pair m d a c => Sys2Proof.Machine.execVscl t sf pair m d a c s
  | .mma m t st => Sys2Proof.Machine.execMma m t st s
  | .mmas m t st => Sys2Proof.Machine.execMmas m t st s
  | .mmaz m t st => Sys2Proof.Machine.execMmaz m t st s
  | .mclr m st => Sys2Proof.Machine.execMclr m st s
  | .mrd m a b q clr out st => Sys2Proof.Machine.execMrd m a b q clr out st s
  | .mwr m a b q addTo inp st => Sys2Proof.Machine.execMwr m a b q addTo inp st s
  | .mrdv m a v st => Sys2Proof.Machine.execMrdv m a v st s
  | .mscl m a row st => Sys2Proof.Machine.execMscl m a row st s
  | .mtrn m st => Sys2Proof.Machine.execMtrn m st s
  | .mseq m t z n st => Sys2Proof.Machine.execMseq m t z n st s
  | .msync => Sys2Proof.Machine.execMsync s
  | .cpyi a b c p e => Sys2Proof.Machine.execCpyi a b c p e s
  | .cpyo a b c p e => Sys2Proof.Machine.execCpyo a b c p e s
  | .cpyl a b c e => Sys2Proof.Machine.execCpyl a b c e s
  | .foot a b wr => Sys2Proof.Machine.execFoot a b wr s
  | .twait a => Sys2Proof.Machine.execTwait a s
  | .tany a b => Sys2Proof.Machine.execTany a b s
  | .tffr a b => Sys2Proof.Machine.execTffr a b s
  | .tclr a => Sys2Proof.Machine.execTclr a s
  | .tsnd a ch st => Sys2Proof.Machine.execTsnd a ch st s
  | .trcv a ch tag st => Sys2Proof.Machine.execTrcv a ch tag st s
  | .esnd a b c mb wake tag st => Sys2Proof.Machine.execEsnd a b c mb wake tag st s
  | .ercv a b mb => Sys2Proof.Machine.execErcv a b mb s
  | .bari a bar => Sys2Proof.Machine.execBari a bar s
  | .barw a bar => Sys2Proof.Machine.execBarw a bar s
  | .bara b bar wait => Sys2Proof.Machine.execBara b bar wait s
  | .spawn a b c => Sys2Proof.Machine.execSpawn a b c s
  | .quit => Sys2Proof.Machine.execQuit s
  | .fork a => Sys2Proof.Machine.execFork a s
  | .join a => Sys2Proof.Machine.execJoin a s
  | .popd q => Sys2Proof.Machine.execPopd q s
  | .steal a q => Sys2Proof.Machine.execSteal a q s
  | .rpsh a c ring => Sys2Proof.Machine.execRpsh a c ring s
  | .rpop a b c ring => Sys2Proof.Machine.execRpop a b c ring s
  | .sdldCell a b c e => Sys2Proof.Machine.execSdldCell a b c e s
  | .sdldCoup a b e => Sys2Proof.Machine.execSdldCoup a b e s
  | .sdldBridge a b e => Sys2Proof.Machine.execSdldBridge a b e s
  | .sdldClear e => Sys2Proof.Machine.execSdldClear e s
  | .sdclpClamp a b c e => Sys2Proof.Machine.execSdclpClamp a b c e s
  | .sdclpRelease a b c e => Sys2Proof.Machine.execSdclpRelease a b c e s
  | .sdclpSet a b c e => Sys2Proof.Machine.execSdclpSet a b c e s
  | .sdswp a b ent br e => Sys2Proof.Machine.execSdswp a b ent br e s
  | .sdrd a b c clp e => Sys2Proof.Machine.execSdrd a b c clp e s
  | .sdcnt a b c clr e => Sys2Proof.Machine.execSdcnt a b c clr e s
  | .sdseed a e => Sys2Proof.Machine.execSdseed a e s
  | .sdseedStore a e => Sys2Proof.Machine.execSdseedStore a e s
  | .sdtbl a e => Sys2Proof.Machine.execSdtbl a e s
  | .sdbeta a b e => Sys2Proof.Machine.execSdbeta a b e s
  | .sigs a b op e => Sys2Proof.Machine.execSigs a b op e s
  | .swait a b c cond => Sys2Proof.Machine.execSwait a b c cond s
  | .codel a b e => Sys2Proof.Machine.execCodel a b e s
  | .codei a b => Sys2Proof.Machine.execCodei a b s
  | .bankr a => Sys2Proof.Machine.execBankr a s
  | .bankw a => Sys2Proof.Machine.execBankw a s
  | .lsnd a c e => Sys2Proof.Machine.execLsnd a c e s
  | .lrcv a c e => Sys2Proof.Machine.execLrcv a c e s
  | .lred a c e => Sys2Proof.Machine.execLred a c e s
  | .hnfy a b e => Sys2Proof.Machine.execHnfy a b e s
  | .movc a b c e => Sys2Proof.Machine.execMovc a b c e s
  | .tide a e => Sys2Proof.Machine.execTide a e s
  | .tideRetide a => Sys2Proof.Machine.execTideRetide a s
  | .rdyqPush a c p => Sys2Proof.Machine.execRdyqPush a c p s
  | .rdyqPushh a c p => Sys2Proof.Machine.execRdyqPushh a c p s
  | .rdyqPop b c => Sys2Proof.Machine.execRdyqPop b c s
  | .rdyqCount b => Sys2Proof.Machine.execRdyqCount b s
  | .rdyqSpill a c => Sys2Proof.Machine.execRdyqSpill a c s
  | .rdyqRefill b => Sys2Proof.Machine.execRdyqRefill b s
  | .rdyqFlush c p => Sys2Proof.Machine.execRdyqFlush c p s
  | .rdyqRpst b => Sys2Proof.Machine.execRdyqRpst b s
  | .send a ch => Sys2Proof.Machine.execSend a ch s
  | .recv a ch => Sys2Proof.Machine.execRecv a ch s
  | .relaxedAccessPerform core ctx id => Sys2Proof.Machine.execRelaxedAccessPerform core ctx id s
  | .remoteAccessPerform pkt => Sys2Proof.Machine.execRemoteAccessPerform pkt s
  | .remoteResponseArrival pkt => Sys2Proof.Machine.execRemoteResponseArrival pkt s
  | .retryResend pkt => Sys2Proof.Machine.execRetryResend pkt s
  | .watchSlotRetest core slot => Sys2Proof.Machine.execWatchSlotRetest core slot s
  | .localRetry core ctx => Sys2Proof.Machine.execLocalRetry core ctx s
  | .felimExpiry core ctx => Sys2Proof.Machine.execFelimExpiry core ctx s
  | .rpopLimitExpiry core ctx => Sys2Proof.Machine.execRpopLimitExpiry core ctx s
  | .matrixQueueEnter core ctx => Sys2Proof.Machine.execMatrixQueueEnter core ctx s
  | .matrixCommandStart core cmd => Sys2Proof.Machine.execMatrixCommandStart core cmd s
  | .matrixStartRefused core cmd => Sys2Proof.Machine.execMatrixStartRefused core cmd s
  | .mseqStepStart core cmd => Sys2Proof.Machine.execMseqStepStart core cmd s
  | .matrixCommandComplete core cmd => Sys2Proof.Machine.execMatrixCommandComplete core cmd s
  | .engineQueueEnter core ctx => Sys2Proof.Machine.execEngineQueueEnter core ctx s
  | .engineCommandStart core cmd => Sys2Proof.Machine.execEngineCommandStart core cmd s
  | .engineStartRefused core cmd => Sys2Proof.Machine.execEngineStartRefused core cmd s
  | .copyServiceRequest copy => Sys2Proof.Machine.execCopyServiceRequest copy s
  | .copyTranslate quay => Sys2Proof.Machine.execCopyTranslate quay s
  | .translationWalk id => Sys2Proof.Machine.execTranslationWalk id s
  | .pieceServe quay => Sys2Proof.Machine.execPieceServe quay s
  | .stagingWriteback quay => Sys2Proof.Machine.execStagingWriteback quay s
  | .channelPairRound quay => Sys2Proof.Machine.execChannelPairRound quay s
  | .copyWordWrite copy => Sys2Proof.Machine.execCopyWordWrite copy s
  | .copyComplete copy => Sys2Proof.Machine.execCopyComplete copy s
  | .copyFault copy => Sys2Proof.Machine.execCopyFault copy s
  | .tidalFlitHop core => Sys2Proof.Machine.execTidalFlitHop core s
  | .tidalFlitDelivery core => Sys2Proof.Machine.execTidalFlitDelivery core s
  | .strayFlitDiscard core input => Sys2Proof.Machine.execStrayFlitDiscard core input s
  | .esndMessageArrival pkt => Sys2Proof.Machine.execEsndMessageArrival pkt s
  | .ercvDelivery core ctx => Sys2Proof.Machine.execErcvDelivery core ctx s
  | .barrierRequest pkt => Sys2Proof.Machine.execBarrierRequest pkt s
  | .ringRemoteOp pkt => Sys2Proof.Machine.execRingRemoteOp pkt s
  | .signalWordPerform core cmd => Sys2Proof.Machine.execSignalWordPerform core cmd s
  | .linkFlitSend port => Sys2Proof.Machine.execLinkFlitSend port s
  | .linkFlitArrival port ch data => Sys2Proof.Machine.execLinkFlitArrival port ch data s
  | .linkCreditReturn port ch => Sys2Proof.Machine.execLinkCreditReturn port ch s
  | .bankHandover core => Sys2Proof.Machine.execBankHandover core s
  | .stealRequest pkt => Sys2Proof.Machine.execStealRequest pkt s
  | .stealResponse pkt => Sys2Proof.Machine.execStealResponse pkt s
  | .spawnRequest pkt => Sys2Proof.Machine.execSpawnRequest pkt s
  | .remoteJoin pkt => Sys2Proof.Machine.execRemoteJoin pkt s
  | .swapComplete core ctx => Sys2Proof.Machine.execSwapComplete core ctx s
  | .resumeComplete core entry => Sys2Proof.Machine.execResumeComplete core entry s
  | .movcComplete core cmd => Sys2Proof.Machine.execMovcComplete core cmd s
  | .haltDrainComplete core ctx => Sys2Proof.Machine.execHaltDrainComplete core ctx s
  | .workerTrapTaken core ctx => Sys2Proof.Machine.execWorkerTrapTaken core ctx s
  | .c0TrapEntry core => Sys2Proof.Machine.execC0TrapEntry core s
  | .c0TrapToLighthouse core => Sys2Proof.Machine.execC0TrapToLighthouse core s
  | .c0TimerExpiry core => Sys2Proof.Machine.execC0TimerExpiry core s
  | .uncorrectableLsError core ctx addr => Sys2Proof.Machine.execUncorrectableLsError core ctx addr s
  | .retideInstant core => Sys2Proof.Machine.execRetideInstant core s
  | .codelLineWrite copy => Sys2Proof.Machine.execCodelLineWrite copy s
  | .sdldRecordApply cove => Sys2Proof.Machine.execSdldRecordApply cove s
  | .spindriftSweep cove => Sys2Proof.Machine.execSpindriftSweep cove s
  | .spindriftCommandComplete cove cmd => Sys2Proof.Machine.execSpindriftCommandComplete cove cmd s
  | .migrationStateCopy core => Sys2Proof.Machine.execMigrationStateCopy core s
  | .launchPacket q => Sys2Proof.Machine.execLaunchPacket q s
  | .launchResourceGrant launch => Sys2Proof.Machine.execLaunchResourceGrant launch s
  | .hnfyNoticeAccept pkt => Sys2Proof.Machine.execHnfyNoticeAccept pkt s
  | .launchLatchWrite launch => Sys2Proof.Machine.execLaunchLatchWrite launch s
  | .launchDeadlineExpiry launch => Sys2Proof.Machine.execLaunchDeadlineExpiry launch s
  | .launchInstant launch => Sys2Proof.Machine.execLaunchInstant launch s
  | .slackWaterSample => Sys2Proof.Machine.execSlackWaterSample s
  | .barrierAnd q => Sys2Proof.Machine.execBarrierAnd q s
  | .barrierAndRecheck => Sys2Proof.Machine.execBarrierAndRecheck s
  | .signalPacket q => Sys2Proof.Machine.execSignalPacket q s
  | .armPacket q => Sys2Proof.Machine.execArmPacket q s
  | .disarmPacket q => Sys2Proof.Machine.execDisarmPacket q s
  | .resetqPacket q => Sys2Proof.Machine.execResetqPacket q s
  | .ebbWheelTick => Sys2Proof.Machine.execEbbWheelTick s
  | .queueNotify port off data => Sys2Proof.Machine.execQueueNotify port off data s
  | .peerWrite port addr data => Sys2Proof.Machine.execPeerWrite port addr data s
  | .peerRead port addr bytes => Sys2Proof.Machine.execPeerRead port addr bytes s
  | .queueCreate q => Sys2Proof.Machine.execQueueCreate q s
  | .queueReset q => Sys2Proof.Machine.execQueueReset q s
  | .resetAcknowledge q core => Sys2Proof.Machine.execResetAcknowledge q core s
  | .queueDestroy q => Sys2Proof.Machine.execQueueDestroy q s
  | .wridxWrite q v => Sys2Proof.Machine.execWridxWrite q v s
  | .queueKeyWrite q lane v => Sys2Proof.Machine.execQueueKeyWrite q lane v s
  | .coreControlRestartEpc mode core => Sys2Proof.Machine.execCoreControlRestartEpc mode core s
  | .coreControlRestartData mode core => Sys2Proof.Machine.execCoreControlRestartData mode core s
  | .coreControlSetDeleg mode core => Sys2Proof.Machine.execCoreControlSetDeleg mode core s
  | .coreControlMigration mode core => Sys2Proof.Machine.execCoreControlMigration mode core s
  | .shootdownGo => Sys2Proof.Machine.execShootdownGo s
  | .shootdownComplete => Sys2Proof.Machine.execShootdownComplete s
  | .hubRegisterWrite mode off v => Sys2Proof.Machine.execHubRegisterWrite mode off v s
  | .dieParkRequest park => Sys2Proof.Machine.execDieParkRequest park s
  | .diePark die => Sys2Proof.Machine.execDiePark die s
  | .dieUnpark die => Sys2Proof.Machine.execDieUnpark die s
  | .clockStepRequest next => Sys2Proof.Machine.execClockStepRequest next s
  | .heartbeat hart v => Sys2Proof.Machine.execHeartbeat hart v s
  | .watchFailure watch => Sys2Proof.Machine.execWatchFailure watch s
  | .packageReset => Sys2Proof.Machine.execPackageReset s
  | .watchBoot watch slot0 slot1 => Sys2Proof.Machine.execWatchBoot watch slot0 slot1 s
  | .linkTraining k lats align => Sys2Proof.Machine.execLinkTraining k lats align s
  | .linkFailure k => Sys2Proof.Machine.execLinkFailure k s
  | .thermalSample temps => Sys2Proof.Machine.execThermalSample temps s
  | .degradedCoreDetect core => Sys2Proof.Machine.execDegradedCoreDetect core s
  | .attestationReport nonce => Sys2Proof.Machine.execAttestationReport nonce s
  | .debugToken token => Sys2Proof.Machine.execDebugToken token s
  | .ownerKeyFuse hash => Sys2Proof.Machine.execOwnerKeyFuse hash s
  | .tenantLock => Sys2Proof.Machine.execTenantLock s
  | .tenantUnlock => Sys2Proof.Machine.execTenantUnlock s
  | .cliffstackScrub pa => Sys2Proof.Machine.execCliffstackScrub pa s
  | .logDrain core => Sys2Proof.Machine.execLogDrain core s
  | .hubSnapshot core => Sys2Proof.Machine.execHubSnapshot core s
  | .replayReceive core => Sys2Proof.Machine.execReplayReceive core s
  | .mtimecmpMatch hart => Sys2Proof.Machine.execMtimecmpMatch hart s
  | .lighthouseLoadStore hart mode pa op => Sys2Proof.Machine.execLighthouseLoadStore hart mode pa op s
  | .portAccess core op => Sys2Proof.Machine.execPortAccess core op s
  | .queueError q err => Sys2Proof.Machine.execQueueError q err s

end Sys2Proof.Machine
end

