-- ==== Sys2Proof/Machine/Step.lean ====
section
/-! DEFINITION. One step: the next item of the cycle's work, an event from outside, or the next cycle (log 5); and a program's placement for its first instruction (log 6). -/
namespace Sys2Proof.Machine

/-- The operations of a bundle, in slot order (R40). -/
def runOps : List Op → State → Host.Outcome State Fault Refusal
  | [], s => .next s
  | (slot, w, i) :: t, s =>
    match exec i (s.atSlot slot w) with
    | .next s' => runOps t s'
    | .fault r => .fault r
    | .refused r => .refused r
/-- A bundle whose own checks are noted: its operations' checks, then the first trap, or nothing where the guard is 0, or its operations (R43, R61). -/
def runBundle (ops : List Op) (s : State) : Host.Outcome State Fault Refusal :=
  match runOps ops s with
  | .next t =>
    match t.frame.noted with
    | some (_, tr) => .next (t.trapBundle tr)
    | none =>
      if t.frame.guard then
        match runOps ops (t.toPerform ops) with
        | .next u => .next u.closeBundle
        | .fault r => .fault r
        | .refused r => .refused r
      else .next t.closeBundle
  | .fault r => .fault r
  | .refused r => .refused r
/-- A context's issue turn. -/
def runIssue (p n : Nat) (s : State) : Host.Outcome State Fault Refusal :=
  match s.beginIssue p n with
  | .done t => .next t
  | .bundle t ops => runBundle ops t

/-- A step of a package without power (R433): it takes nothing in but a reset, and stops where no event from outside is left. -/
def stepOff (s : State) : Host.Outcome State Fault Refusal :=
  match s.inputs with
  | [] => .fault .powerOff
  | (_, i) :: t =>
    match i with
    | .packageReset => exec i { s with inputs := t, todo := [] }
    | _ => .next { s with inputs := t, todo := [] }
/-- One step of the package. -/
def step (s : State) : Host.Outcome State Fault Refusal :=
  if s.hub.powered = false then stepOff s else
  match s.todo with
  | [] =>
    match s.dueInput with
    | some (i, t) => exec i t
    | none => .next s.tick
  | .phase p :: t => .next (State.expand { s with todo := t } p)
  | .issue p n :: t => runIssue p n { s with todo := t }

/-- The state with an instruction of nbits bits as the next bundle of worker context 1 of core 0, whose issue turn the next step is: its bytes in the code-store line of address 0, and the context in RUN there with its WAIT served (log 6). -/
def State.withFetchWord (s : State) (nbits w : Nat) : State :=
  let line : Line := ⟨0, leBytes maxBundle (w % 2 ^ nbits) ++ List.replicate 34 0⟩
  let t := s.onCore 0 fun c => { c with code := put c.code 0 line }
  let u := t.onCtx 0 1 fun x =>
    { x with st := .run, next := 0, hold := some 0, levels := [], frozen := 0, capture := [] }
  { u with todo := [.issue 0 1] }

end Sys2Proof.Machine
end

