-- ==== Sys2Proof/Safety.lean ====
section
/-! DEFINITION. What counts as a safe run: one in which every step answers a next state. -/
namespace Sys2Proof.Machine

/-- A step answers a next state. -/
def State.Steps (s t : State) : Prop := step s = .next t
/-- A state from which no step stops. -/
def State.Safe (s : State) : Prop := ∃ t, s.Steps t
/-- The states that a run reaches. -/
inductive State.Reaches (s : State) : State → Prop
  | refl : s.Reaches s
  | step {t u : State} : s.Reaches t → t.Steps u → s.Reaches u
/-- A run from a state never stops. -/
def State.SafeRun (s : State) : Prop := ∀ t, s.Reaches t → t.Safe

end Sys2Proof.Machine
end

