-- ==== Sys2Proof/Certificates/Slice0/Obligations.lean ====
section
/-! DEFINITION. The statements for the provers, from the numbered rules of spec/. An operation's statement is about the moment at which its bundle performs it, or about the operation checked and performed as a bundle of its own (log 6); a statement about an event gives the conditions under which the event is due. -/

namespace Sys2Proof.Claims
open Sys2Proof.Machine

/-- An operation issues whose bundle has passed its checks, or which is checked and performed as a bundle of its own with CHECK.LV = 0. -/
def Issues (s : State) : Prop := s.frame.phase = .perform ∨ (s.frame.phase = .whole ∧ s.cur.lv = false)
/-- As Issues, in a worker context (R12). -/
def WorkerIssues (s : State) : Prop := Issues s ∧ s.frame.ctx ≠ 0
/-- As Issues, in C0. -/
def C0Issues (s : State) : Prop := Issues s ∧ s.frame.ctx = 0
/-- An operation of a worker is checked and performed as a bundle of its own, no register of the issuing core having an unlanded write. -/
def WorkerWhole (s : State) : Prop := s.frame.phase = .whole ∧ s.frame.ctx ≠ 0 ∧ s.cur.lv = false ∧ s.frame.guard = true
/-- No register write of the issuing core is waiting to land (R17). -/
def Quiet (s : State) : Prop := s.here.writes = []

/-- The state of the issuing context once its bundle has begun a wait: PARK, or STOP where the bundle has stopped it (R12, R268). -/
def parked (s : State) : CtxState := if s.cur.st = .stop then .stop else .park
/-- A packet is on its way; those sent before it stay as they are (R322). -/
def Sent (s t : State) (k : Packet) : Prop := t.packets = s.packets ++ [k] ∧ k.arrived s.now = false

end Sys2Proof.Claims

section
open Sys2Proof Sys2Proof.Machine Sys2Proof.Claims

/-! ## Encodings (R39 to R60, R98, R129, R214, R250, R262) -/

/-- Words written out from the encoding tables decode to the operations they stand for: ADD x3, x1, x2; ADDI x5, x4, #−1; LD64 x5, x4, #8; VADD.f32 v3, v1, v2; MCLR m2; TWAIT x4; and the pure wait bundle with WAIT = 3; opcode 0 is not allocated. -/
def Obligations.SampleWordsDecode : Prop :=
  decodeS (0b000001_000011_000001_000010_00000000 : BitVec 32) = .ok (.add 3 1 2 false) ∧
  decodeS (0b010000_000101_000100_11111111111111 : BitVec 32) = .ok (.addi 5 4 0x3FFF) ∧
  decodeL (0b000111_000101_000100_00000000001000 : BitVec 32) = .ok (.ld64 5 4 8) ∧
  decodeV (0b000001_00_000011_000001_000010_000000 : BitVec 32) = .ok (.vadd .f32 3 1 2 .fcr) ∧
  decodeM (0b000100_010_000_000_000000_000000_00000 : BitVec 32) 0 = .ok (.mclr 2 ⟨false, 0⟩) ∧
  decodeN (0b000101_000100_000000_000000_00000000 : BitVec 32) 0 = .ok (.twait 4) ∧
  decodeS 0 = .badOpcode ∧
  decodeSingle [0x80, 0x01] = some (.pureWaitBundle 3 0 false)

/-- The bytes of a bundle of one well-formed operation decode to that operation, whichever slot it belongs to. -/
def Obligations.EveryOperationRoundTrips : Prop :=
  ∀ i : Instr, i.wf = true → i.isOp = true → decodeSingle (encode i) = some i
/-- A word that decodes has one meaning, with no bit ignored: encoding what it decodes to gives the word back (R54). -/
def Obligations.DecodedWordsReencode : Prop :=
  ∀ (i : Instr) (w w1 : Word),
    (decodeS w = .ok i → encS i = some w) ∧ (decodeL w = .ok i → encL i = some w) ∧
    (decodeV w = .ok i → encVop i = some w) ∧ (decodeM w w1 = .ok i → encM i = some (w, w1)) ∧
    (decodeN w w1 = .ok i → encNop i = some (w, w1))

/-! ## Integer operations of the S slot (R98 to R109) -/

/-- R100, R101: the register forms of the S slot: sums, differences, bitwise results, shifts and products of latency 1, the W forms at 32 bits with their result sign-extended; DIV and REM of latency 4 in every case, with R101's results where no quotient exists or fits; minima and maxima. -/
def Obligations.IntegerRegisterAndDivision : Prop :=
  (∀ (s : State) (d a b : SReg), Issues s →
    let x := s.rx a
    let y := s.rx b
    let x' : Word := x.setWidth 32
    let y' : Word := y.setWidth 32
    exec (.add d a b false) s = .next (s.wx d (x + y) 1) ∧
    exec (.add d a b true) s = .next (s.wx d ((x' + y').signExtend 64) 1) ∧
    exec (.sub d a b false) s = .next (s.wx d (x - y) 1) ∧
    exec (.sub d a b true) s = .next (s.wx d ((x' - y').signExtend 64) 1) ∧
    exec (.and d a b) s = .next (s.wx d (x &&& y) 1) ∧
    exec (.or d a b) s = .next (s.wx d (x ||| y) 1) ∧
    exec (.xor d a b) s = .next (s.wx d (x ^^^ y) 1) ∧
    exec (.sll d a b false) s = .next (s.wx d (x <<< (y.toNat % 64)) 1) ∧
    exec (.sll d a b true) s = .next (s.wx d ((x' <<< (y.toNat % 32)).signExtend 64) 1) ∧
    exec (.srl d a b false) s = .next (s.wx d (x >>> (y.toNat % 64)) 1) ∧
    exec (.srl d a b true) s = .next (s.wx d ((x' >>> (y.toNat % 32)).signExtend 64) 1) ∧
    exec (.sra d a b false) s = .next (s.wx d (x.sshiftRight (y.toNat % 64)) 1) ∧
    exec (.sra d a b true) s = .next (s.wx d ((x'.sshiftRight (y.toNat % 32)).signExtend 64) 1) ∧
    exec (.mul d a b false) s = .next (s.wx d (x * y) 1) ∧
    exec (.mul d a b true) s = .next (s.wx d ((x' * y').signExtend 64) 1) ∧
    exec (.mulh d a b .ss) s = .next (s.wx d ((x.signExtend 128 * y.signExtend 128).extractLsb' 64 64) 1) ∧
    exec (.mulh d a b .nn) s = .next (s.wx d ((x.setWidth 128 * y.setWidth 128).extractLsb' 64 64) 1) ∧
    exec (.mulh d a b .sn) s = .next (s.wx d ((x.signExtend 128 * y.setWidth 128).extractLsb' 64 64) 1)) ∧
  (∀ (s : State) (d a b : SReg) (u : Bool), Issues s →
    let x := s.rx a
    let y := s.rx b
    let x' : Word := x.setWidth 32
    let y' : Word := y.setWidth 32
    exec (.div d a b false u) s =
      .next (s.wx d (if y = 0 then BitVec.allOnes 64 else if u then x / y else x.sdiv y) 4) ∧
    exec (.div d a b true u) s =
      .next (s.wx d (if y' = 0 then BitVec.allOnes 64 else if u then (x' / y').signExtend 64 else (x'.sdiv y').signExtend 64) 4) ∧
    exec (.rem d a b false u) s = .next (s.wx d (if y = 0 then x else if u then x % y else x.srem y) 4) ∧
    exec (.rem d a b true u) s =
      .next (s.wx d (if y' = 0 then x'.signExtend 64 else if u then (x' % y').signExtend 64 else (x'.srem y').signExtend 64) 4) ∧
    (∃ v, exec (.minmax d a b false u) s = .next (s.wx d v 1) ∧ (v = x ∨ v = y) ∧
      (if u then v.toNat ≤ x.toNat ∧ v.toNat ≤ y.toNat else v.toInt ≤ x.toInt ∧ v.toInt ≤ y.toInt)) ∧
    (∃ v, exec (.minmax d a b true u) s = .next (s.wx d v 1) ∧ (v = x ∨ v = y) ∧
      (if u then x.toNat ≤ v.toNat ∧ y.toNat ≤ v.toNat else x.toInt ≤ v.toInt ∧ y.toInt ≤ v.toInt)))


/-- R101: the table of DIV and REM for a zero divisor, and for the most negative number divided by −1. -/
def Obligations.DivisionWithoutQuotient : Prop :=
  ∀ (s : State) (d a b : SReg), Issues s →
    (s.rx b = 0 → ∀ u,
      exec (.div d a b false u) s = .next (s.wx d (BitVec.allOnes 64) 4) ∧
      exec (.rem d a b false u) s = .next (s.wx d (s.rx a) 4)) ∧
    ((s.rx b).setWidth 32 = (0 : Word) → ∀ u,
      exec (.div d a b true u) s = .next (s.wx d (BitVec.allOnes 64) 4) ∧
      exec (.rem d a b true u) s = .next (s.wx d (((s.rx a).setWidth 32).signExtend 64) 4)) ∧
    (s.rx a = BitVec.intMin 64 → s.rx b = -1 →
      exec (.div d a b false false) s = .next (s.wx d (BitVec.intMin 64) 4) ∧
      exec (.rem d a b false false) s = .next (s.wx d 0 4)) ∧
    ((s.rx a).setWidth 32 = BitVec.intMin 32 → (s.rx b).setWidth 32 = (-1 : Word) →
      exec (.div d a b true false) s = .next (s.wx d ((BitVec.intMin 32).signExtend 64) 4) ∧
      exec (.rem d a b true false) s = .next (s.wx d 0 4))

/-- R104, R105, R107 to R109: the immediate forms; SHI at both widths, ROR.w rotating the low 32 bits before sign extension; bit fields, bit counts and address arithmetic, bit by bit. The eight conditions of CMP on 64-bit values, CMPI, and SEL, whose predicate modifier [3] inverts (R102, R103, R106). -/
def Obligations.ImmediateCompareAndFieldResults : Prop :=
  (∀ (s : State) (d a : SReg) (imm : BitVec 14) (imm20 : BitVec 20) (n : BitVec 6), Issues s →
    let x := s.rx a
    let x' : Word := x.setWidth 32
    let k := n.toNat
    exec (.addi d a imm) s = .next (s.wx d (x + imm.signExtend 64) 1) ∧
    exec (.andi d a imm) s = .next (s.wx d (x &&& imm.setWidth 64) 1) ∧
    exec (.ori d a imm) s = .next (s.wx d (x ||| imm.setWidth 64) 1) ∧
    exec (.xori d a imm) s = .next (s.wx d (x ^^^ imm.setWidth 64) 1) ∧
    exec (.lui d imm20) s = .next (s.wx d (imm20.signExtend 64 * 4096) 1) ∧
    exec (.shi d a .sll false n) s = .next (s.wx d (x <<< k) 1) ∧
    exec (.shi d a .srl false n) s = .next (s.wx d (x >>> k) 1) ∧
    exec (.shi d a .sra false n) s = .next (s.wx d (x.sshiftRight k) 1) ∧
    exec (.shi d a .ror false n) s = .next (s.wx d (x >>> k ||| x <<< (64 - k)) 1) ∧
    (k < 32 →
      exec (.shi d a .sll true n) s = .next (s.wx d ((x' <<< k).signExtend 64) 1) ∧
      exec (.shi d a .srl true n) s = .next (s.wx d ((x' >>> k).signExtend 64) 1) ∧
      exec (.shi d a .sra true n) s = .next (s.wx d ((x'.sshiftRight k).signExtend 64) 1) ∧
      exec (.shi d a .ror true n) s = .next (s.wx d ((x' >>> k ||| x' <<< (32 - k)).signExtend 64) 1))) ∧
  (∀ (s : State) (d a b : SReg) (wm1 pos : BitVec 6) (sh : BitVec 3), Issues s →
    let x := s.rx a
    let w := wm1.toNat + 1
    let p := pos.toNat
    (p + w ≤ 64 →
      (∃ v, exec (.bfx d a false wm1 pos) s = .next (s.wx d v 1) ∧
        ∀ i < 64, v.getLsbD i = (decide (i < w) && x.getLsbD (p + i))) ∧
      (∃ v, exec (.bfx d a true wm1 pos) s = .next (s.wx d v 1) ∧
        ∀ i < 64, v.getLsbD i = x.getLsbD (p + min i (w - 1))) ∧
      (∃ v, exec (.bfi d a wm1 pos) s = .next (s.wx d v 1) ∧
        ∀ i < 64, v.getLsbD i = if p ≤ i ∧ i < p + w then x.getLsbD (i - p) else (s.rx d).getLsbD i)) ∧
    (∃ n, exec (.bitc d a .pop) s = .next (s.wx d (BitVec.ofNat 64 n) 1) ∧
      n = ((List.range 64).filter fun i => x.getLsbD i).length) ∧
    (∃ n, exec (.bitc d a .clz) s = .next (s.wx d (BitVec.ofNat 64 n) 1) ∧ n ≤ 64 ∧
      (n < 64 → x.getLsbD (63 - n) = true) ∧ ∀ i < 64, 64 - n ≤ i → x.getLsbD i = false) ∧
    (∃ n, exec (.bitc d a .ctz) s = .next (s.wx d (BitVec.ofNat 64 n) 1) ∧ n ≤ 64 ∧
      (n < 64 → x.getLsbD n = true) ∧ ∀ i < n, x.getLsbD i = false) ∧
    (∃ v, exec (.adda d a b sh) s = .next (s.wx d v 1) ∧
      v.extractLsb' 19 45 = x.extractLsb' 19 45 ∧
      v.extractLsb' 0 19 = x.extractLsb' 0 19 + (s.rx b <<< sh.toNat).extractLsb' 0 19)) ∧
  ∀ (s : State) (q : PReg) (d a b : SReg) (imm : BitVec 14), Issues s →
    let x := s.rx a
    let y := s.rx b
    exec (.cmp q a b .eq) s = .next (s.wq q (decide (x = y)) 1) ∧
    exec (.cmp q a b .ne) s = .next (s.wq q (decide (x ≠ y)) 1) ∧
    exec (.cmp q a b .lt) s = .next (s.wq q (decide (x.toInt < y.toInt)) 1) ∧
    exec (.cmp q a b .ge) s = .next (s.wq q (decide (y.toInt ≤ x.toInt)) 1) ∧
    exec (.cmp q a b .ltu) s = .next (s.wq q (decide (x.toNat < y.toNat)) 1) ∧
    exec (.cmp q a b .geu) s = .next (s.wq q (decide (y.toNat ≤ x.toNat)) 1) ∧
    exec (.cmp q a b .tst) s = .next (s.wq q (decide (x &&& y ≠ 0)) 1) ∧
    exec (.cmp q a b .ntst) s = .next (s.wq q (decide (x &&& y = 0)) 1) ∧
    exec (.cmpi q a imm) s = .next (s.wq q (decide (x.toInt < imm.toInt)) 1) ∧
    exec (.sel d a b q false) s = .next (s.wx d (if s.rq q = true then x else y) 1) ∧
    exec (.sel d a b q true) s = .next (s.wx d (if s.rq q = true then y else x) 1)

/-! ## Registers, the landing of writes, special registers (R13 to R27, R112) -/

/-- R15: x0 reads as zero and a write to it is discarded; q0 reads as 1 and a write to it is discarded; a predicate that lands is its own context's alone. -/
def Obligations.ZeroRegisterAndTruePredicate : Prop :=
  (∀ (s : State) (v : DWord) (b : Bool) (lat : Nat), s.rx 0 = 0 ∧ s.wx 0 v lat = s ∧ s.rq 0 = true ∧ s.wq 0 b lat = s) ∧
  ∀ (c : Core) (n m : Nat) (p : PReg) (v : Val), m ≠ n → ((c.store (.q n p) v).ctx m).qs = (c.ctx m).qs
/-- R17, R18: a result of latency L issued in cycle c reads as before in cycle c, as an undefined value in cycles c + 1 to c + 16L − 1, and as itself from the next cycle on; when a write lands, the writes of the same context to the bits it names of that register that were issued before it are discarded. -/
def Obligations.WritesLandInOrder : Prop :=
  (∀ (s : State) (r : SReg) (v : DWord) (lat free e : Nat), Quiet s → r ≠ 0 → 1 ≤ lat →
    let n := s.frame.ctx
    let t := s.wx r v lat
    t.rx r = s.rx r ∧
    (s.now < e → e ≤ s.now + 16 * lat - 1 → t.here.land e free = t.here ∧ t.here.early e (xDest n r) = true) ∧
    (s.now + 16 * lat ≤ e → (t.here.land e free).xVal n r = v ∧ (t.here.land e free).writes = [])) ∧
  (∀ (c : Core) (t : Nat) (w : Write) (choice : Bool), ∀ u ∈ (c.landOne t w choice).writes,
    u.dst.overlaps w.dst = true → u.dst.bits &&& ~~~w.dst.bits = 0 → u.byCtx = w.byCtx → w.issue ≤ u.issue)
namespace Sys2Proof.Claims
/-- PHASE shows a context's pending flag and phase count (R24). -/
def ShowsPhase (v : DWord) (x : Ctx) : Prop :=
  v.getLsbD 63 = x.pend ∧ v.extractLsb' 32 31 = 0 ∧ v.extractLsb' 0 32 = x.phaseCount
/-- VSEQ shows the selected entry of a context's dispatch ring (R25). -/
def ShowsVseq (v : DWord) (x : Ctx) : Prop :=
  v.extractLsb' 49 13 = 0 ∧ v.extractLsb' 16 16 = x.vseqNext ∧ v.extractLsb' 0 16 = x.vseqSel ∧
  (∀ e ∈ x.ring, e.seq = x.vseqSel → (∀ f ∈ x.ring, f.seq = x.vseqSel → f = e) →
    v.getLsbD 63 = true ∧ v.getLsbD 62 = e.m ∧ v.extractLsb' 32 17 = e.caddr) ∧
  ((∀ e ∈ x.ring, e.seq ≠ x.vseqSel) → v.extractLsb' 32 32 = 0)
/-- XVAL shows the item that CSEL selects: of a resident context, or of one saved in a Rockpool entry at the place that R36 gives it (R26, R27). -/
def ShowsSelected (s : State) (v : DWord) : Prop :=
  let sel := s.here.csel
  let i := cselItem sel
  let x := s.here.ctx (cselCtx sel)
  let saved (off : Nat) : DWord := s.here.word (0x7E000 + 0x800 * cselCtx sel + off)
  cselRefused sel = false →
  (cselClass sel = 0 → i = 0 → v = 0) ∧ (cselClass sel = 2 → i = 0 → v = 1) ∧
  (cselRp sel = false → x.st = .free → cselClass sel = 0 ∨ cselClass sel = 1 → v = 0) ∧
  (cselRp sel = false → x.st ≠ .free →
    (cselClass sel = 0 → i ≠ 0 → v = look 0 x.xs i) ∧
    (cselClass sel = 1 → v = (look 0 x.vs i).extractLsb' (64 * (cselQtr sel).toNat) 64) ∧
    (cselClass sel = 2 → i ≠ 0 → v = (BitVec.ofBool (x.qs.getLsbD i)).setWidth 64) ∧
    (cselClass sel = 3 → ∀ r ∈ [(0x03, x.turn), (0x08, x.fcr), (0x09, x.tags), (0x0A, x.seed), (0x10, x.epc), (0x11, x.cause),
      (0x12, x.tval), (0x16, x.check)], r.1 = i → v = r.2) ∧
    (cselClass sel = 3 → (i = 0x1A → ShowsPhase v x) ∧ (i = 0x1C → ShowsVseq v x)) ∧ (cselClass sel = 4 → v = x.next)) ∧
  (cselRp sel = true →
    (cselClass sel = 0 → i ≠ 0 → v = saved (0x20 + 8 * (i - 1))) ∧
    (cselClass sel = 1 → v = saved (0x200 + 32 * i + 8 * (cselQtr sel).toNat)) ∧
    (cselClass sel = 2 → i ≠ 0 → v = (BitVec.ofBool ((saved 0x10).getLsbD i)).setWidth 64) ∧
    (cselClass sel = 3 → ∀ r ∈ [(0x03, 0x120), (0x08, 0x128), (0x09, 0x130), (0x0A, 0x138), (0x10, 0x140), (0x11, 0x148), (0x12, 0x150),
      (0x16, 0x158), (0x1A, 0x160), (0x1C, 0x168)], r.1 = i → v = saved r.2) ∧
    (cselClass sel = 4 → v = saved 0))
end Sys2Proof.Claims

/-- R20 to R26, R112: MFS gives the named register as it stands in the issue cycle, for every register the context may read (TIDE is the device cycle, which a replaying core reads as at the original time, R339; Emonef code reads free values of TURN and TIDE, R418); MTS writes the named register with latency 1, TAGS with ones clearing; a worker's write to CHECK changes LV and FELIM alone; MTS to TIMER is C0's; a value that FCR or CSEL refuses traps 0x03 with the value in TVAL. CORE, BANKS and LAUNCH show the launch whose context reads them, PHASE and VSEQ their fields, MSEQ the operation words of the selected entry, and XVAL the item that CSEL selects. -/
def Obligations.SpecialRegisterAccess : Prop :=
  (∀ (s : State) (d : SReg) (n : BitVec 6), Issues s → Quiet s → sprListed n = true →
    (s.frame.ctx ≠ 0 → sprClosed n = false) → (n = 0x28 → isOrdinary s.frame.core = false) →
    (n ≠ 0x04 → exec (.mfs d n) s = .next (s.wx d (s.mfsVal n) 1)) ∧
    (n = 0x04 → ∃ t, exec (.mfs d n) s = .next t ∧ t.here.writes = (s.wx d (s.mfsVal 0x04) 1).here.writes) ∧
    s.mfsVal 0x00 = BitVec.ofNat 64 s.frame.ctx ∧ s.mfsVal 0x02 = BitVec.ofNat 64 s.frame.core ∧
    (s.here.emonef = false → s.mfsVal 0x03 = s.cur.turn ∧ s.mfsVal 0x04 = BitVec.ofNat 64 (s.now - s.here.replayShift)) ∧
    (s.here.emonef = true → s.mfsVal 0x03 = s.anyWord 406 ∧ s.mfsVal 0x04 = s.anyWord 407) ∧ s.mfsVal 0x08 = s.cur.fcr ∧
    s.mfsVal 0x09 = s.cur.tags ∧ s.mfsVal 0x0A = s.cur.seed ∧ s.mfsVal 0x10 = s.cur.epc ∧ s.mfsVal 0x11 = s.cur.cause ∧
    s.mfsVal 0x12 = s.cur.tval ∧ s.mfsVal 0x13 = s.here.tvec ∧ s.mfsVal 0x14 = s.here.deleg ∧ s.mfsVal 0x15 = s.here.timer ∧
    s.mfsVal 0x16 = s.cur.check ∧ s.mfsVal 0x20 = s.here.csel ∧ s.mfsVal 0x28 = s.here.qarb ∧
    (∀ l, s.here.launchOf s.frame.ctx = some l → s.mfsVal 0x01 = l.logical.setWidth 64 ∧ s.mfsVal 0x18 = l.own.setWidth 64 ∧
      (s.mfsVal 0x19).getLsbD 63 = l.mode ∧ (s.mfsVal 0x19).getLsbD 62 = l.cls ∧ (s.mfsVal 0x19).extractLsb' 44 18 = 0 ∧
      (s.mfsVal 0x19).extractLsb' 32 12 = l.reach ∧ (s.mfsVal 0x19).extractLsb' 0 32 = l.id) ∧
    (s.here.launchOf s.frame.ctx = none → s.mfsVal 0x01 = 0 ∧ s.mfsVal 0x18 = 0 ∧ s.mfsVal 0x19 = 0) ∧
    ShowsPhase (s.mfsVal 0x1A) s.cur ∧ ShowsVseq (s.mfsVal 0x1C) s.cur ∧
    (∀ e ∈ s.cur.ring, e.seq = s.cur.vseqSel → (∀ f ∈ s.cur.ring, f.seq = s.cur.vseqSel → f = e) → s.mfsVal 0x1D = e.words) ∧
    ((∀ e ∈ s.cur.ring, e.seq ≠ s.cur.vseqSel) → s.mfsVal 0x1D = 0) ∧ ShowsSelected s (s.mfsVal 0x21)) ∧
  (∀ (s : State) (a : SReg), Issues s → ∀ n : BitVec 6, sprWritable n = true →
    (n ≠ 0x14 ∨ s.frame.ctx ≠ 0) → (s.frame.ctx ≠ 0 → sprClosed n = false ∧ sprRoWorker n = false) →
    (n = 0x28 → isOrdinary s.frame.core = false) →
    (n = 0x08 → fcrRefused (s.rx a) = false) → (n = 0x20 → cselRefused (s.rx a) = false) →
    (n ≠ 0x0A → exec (.mts n a) s = .next (s.write (mtsDest s.frame.ctx n) (.word (s.rx a)) 1)) ∧
    (n = 0x0A → ∃ t, exec (.mts n a) s = .next t ∧
      t.here.writes = (s.write (.spr s.frame.ctx 0x0A (BitVec.allOnes 64)) (.word (s.rx a)) 1).here.writes) ∧
    mtsDest s.frame.ctx 0x09 = .tagsClear s.frame.ctx ∧
    (s.frame.ctx ≠ 0 → mtsDest s.frame.ctx 0x16 = .spr s.frame.ctx 0x16 0xFFFF0001) ∧
    mtsDest s.frame.ctx 0x13 = .cspr 0x13 ∧ mtsDest s.frame.ctx 0x20 = .cspr 0x20 ∧
    mtsDest s.frame.ctx 0x10 = .spr s.frame.ctx 0x10 (BitVec.allOnes 64) ∧
    (s.frame.ctx = 0 → exec (.timerWrite a) s = .next (s.write (.cspr 0x15) (.word (s.rx a)) 1))) ∧
  ∀ (s : State) (a : SReg), s.frame.phase = .whole → s.frame.guard = true → s.cur.lv = false →
    (fcrRefused (s.rx a) = true → exec (.mts 0x08 a) s = .next (s.issueTrap 0x03 (s.rx a))) ∧
    (s.frame.ctx = 0 → cselRefused (s.rx a) = true → exec (.mts 0x20 a) s = .next (s.issueTrap 0x03 (s.rx a)))
/-- R14, R20, R60, R61, R141, R143, R152, R262: what traps by its encoding, its context and the kind of its core alone: an access to a special register closed to the context, 0x04 or 0x03, and to QARB on an ordinary core, 0x03; an operation of C0 in a worker, 0x04; one of workers in C0, 0x03; an operation of the V or M slot in C0, and a load into a vector register or a store of a v register there, 0x05; one that its kind of core, or native code, does not have, 0x02. That TVAL is the header fault's of R61 for the V and M slots of C0 is the model's choice (log 63). -/
def Obligations.ForbiddenOperationsTrap : Prop :=
  (∀ (s : State) (d a : SReg) (n : BitVec 6), s.frame.phase = .whole →
    let trap (k : Nat) : Out := .next (s.issueTrap k (s.tval61 0))
    (s.frame.ctx ≠ 0 → sprClosed n = true → exec (.mfs d n) s = trap 4 ∧ exec (.mts n a) s = trap 4) ∧
    (s.frame.ctx ≠ 0 → exec (.timerWrite a) s = trap 4 ∧ exec (.xvalWrite a) s = trap 4) ∧
    (s.frame.ctx ≠ 0 → sprRoWorker n = true → exec (.mts n a) s = trap 3) ∧
    (s.frame.ctx = 0 → exec (.mts 0x14 a) s = trap 3)) ∧
  (∀ (s : State) (i : Instr), s.frame.phase = .whole → s.frame.ctx = 0 → (Instr.isV i = true ∨ Instr.isM i = true) →
    exec i s = .next (s.issueTrap 0x05 ((0 : BitVec 32) ++ s.frame.hdr ++ (0 : BitVec 12) ++ (0 : BitVec 1) ++ (7 : BitVec 3)))) ∧
  ∀ (s : State) (a b c d : SReg) (v w : VReg) (q : PReg) (m : BitVec 14) (f : Bool) (e : Eng) (p : BitVec 2) (z : GatherSize)
    (sh : BitVec 3) (bar : BitVec 5) (ch : BitVec 8), s.frame.phase = .whole →
    let traps (l : List Instr) (k : Nat) : Prop := ∀ i ∈ l, exec i s = .next (s.issueTrap k
      (s.frame.words.extractLsb' 0 32 ++ s.frame.hdr ++ (0 : BitVec 12) ++ (0 : BitVec 1) ++ BitVec.ofNat 3 s.frame.slot))
    (s.frame.ctx ≠ 0 → traps [.rett, .rettW a, .start a b, .stop a, .swap d a b f, .resume a, .migrArm d a, .migrFreeze, .migrCommit d a,
      .migrAbort, .codel a b e, .codei a b, .movc a b c e, .tide a e, .tideRetide a, .rdyqPush a c p, .rdyqPushh a c p, .rdyqPop b c,
      .rdyqCount b, .rdyqSpill a c, .rdyqRefill b, .rdyqFlush c p, .rdyqRpst b] 4) ∧
    (s.frame.ctx = 0 → traps [.quit, .popd q, .steal a q] 3 ∧ traps [.ldv v a m, .ldgv v a w z sh] 5 ∧
      (v.toNat < 32 → traps [.stv v a m, .stsv v a w z sh, .stsv w a v z sh] 5)) ∧
    (kindOf s.frame.core ≠ 2 → traps [.lsnd a c e, .lrcv a c e, .lred a c e] 2) ∧
    (isOrdinary s.frame.core = false → traps [.bari a bar, .barw a bar, .bara b bar f] 2) ∧
    (s.here.emonef = false → traps [.send a ch, .recv a ch] 2) ∧
    (isOrdinary s.frame.core = true → traps [.mfs d 0x28, .mts 0x28 a] 3)
/-- R26, R27: MTS to XVAL writes what CSEL selects: a register, a quarter of a vector register, a predicate, a context-scope special register under its writable bits, or the next-bundle address of the selected context. -/
def Obligations.XvalWritesSelectedItem : Prop :=
  ∀ (s : State) (a : SReg), C0Issues s →
    let v := s.here.csel
    let i := cselItem v
    let n := cselCtx v
    cselRefused v = false → (cselClass v = 3 → i = 0x08 → fcrRefused (s.rx a) = false) →
    (cselRp v = false → cselClass v = 0 → i ≠ 0 →
      exec (.xvalWrite a) s = .next (s.write (.x n (BitVec.ofNat 5 i)) (.word (s.rx a)) 1)) ∧
    (cselClass v = 0 → i = 0 → exec (.xvalWrite a) s = .next s) ∧
    (cselRp v = false → cselClass v = 1 →
      exec (.xvalWrite a) s = .next (s.write (.vq n (BitVec.ofNat 5 i) (cselQtr v)) (.word (s.rx a)) 1)) ∧
    (cselRp v = false → cselClass v = 2 → i ≠ 0 →
      exec (.xvalWrite a) s = .next (s.write (.q n (BitVec.ofNat 3 i)) (.bit ((s.rx a).getLsbD 0)) 1)) ∧
    (cselClass v = 2 → i = 0 → exec (.xvalWrite a) s = .next s) ∧
    (cselClass v = 3 → i ∈ [0x03, 0x1A, 0x1C] → exec (.xvalWrite a) s = .next s) ∧
    (cselRp v = false → cselClass v = 3 → i ∈ [0x08, 0x09, 0x10, 0x11, 0x12, 0x16] →
      exec (.xvalWrite a) s = .next (s.write (.spr n (BitVec.ofNat 6 i) (xvalMask i)) (.word (s.rx a)) 1)) ∧
    (cselRp v = false → cselClass v = 3 → i = 0x0A → ∃ t, exec (.xvalWrite a) s = .next t ∧
      t.here.writes = (s.write (.spr n 0x0A (BitVec.allOnes 64)) (.word (s.rx a)) 1).here.writes) ∧
    (cselRp v = false → cselClass v = 4 → exec (.xvalWrite a) s = .next (s.write (.next n) (.word (s.rx a)) 1)) ∧
    (cselRp v = true → cselClass v ∈ [0, 1, 4] → ∀ o, poolItem v = some o →
      exec (.xvalWrite a) s = .next (s.write (.pool n o (BitVec.allOnes 64)) (.word (s.rx a)) 1)) ∧
    (cselRp v = true → cselClass v = 2 → i ≠ 0 →
      exec (.xvalWrite a) s = .next (s.write (.pool n 0x10 (1 <<< i)) (.word ((s.rx a &&& 1) <<< i)) 1)) ∧
    (cselRp v = true → cselClass v = 3 → i ∉ [0x03, 0x1A, 0x1C] → ∀ o, find class3 i = some o →
      exec (.xvalWrite a) s = .next (s.write (.pool n o (xvalMask i)) (.word (s.rx a)) 1))

/-! ## Branches and loops (R46, R110, R111, R119 to R125) -/

/-- R110, R111: the target and link of BR, JAL and JALR; a target with bit 0 set or bits [63:48] non-zero traps 0x07 with the target in TVAL, and neither transfers nor links. -/
def Obligations.BranchTargets : Prop :=
  ∀ (s : State) (d a : SReg) (imm : BitVec 20) (off : BitVec 14),
    let pc := s.frame.addr
    let link := pc + BitVec.ofNat 64 s.frame.len
    let t := pc + imm.signExtend 64 * 2
    let u := s.rx a + off.signExtend 64 * 2
    (Issues s → t.getLsbD 0 = false → t.extractLsb' 48 16 = 0 →
      exec (.br imm) s = .next (s.jump t) ∧ exec (.jal d imm) s = .next ((s.jump t).wx d link 1)) ∧
    (Issues s → u.getLsbD 0 = false → u.extractLsb' 48 16 = 0 → exec (.jalr d a off) s = .next ((s.jump u).wx d link 1)) ∧
    (WorkerWhole s → (t.getLsbD 0 = true ∨ t.extractLsb' 48 16 ≠ 0) →
      exec (.br imm) s = .next (s.issueTrap 0x07 t) ∧ exec (.jal d imm) s = .next (s.issueTrap 0x07 t)) ∧
    (WorkerWhole s → (u.getLsbD 0 = true ∨ u.extractLsb' 48 16 ≠ 0) →
      exec (.jalr d a off) s = .next (s.issueTrap 0x07 u))
/-- R119, R120: LOOP and LOOPX open a level with trip count a[31:0]; with six levels open they trap 0x01 with TVAL = 1, and where an open body has too few bundles left, with TVAL = 2. -/
def Obligations.LoopOpensLevel : Prop :=
  ∀ (s : State) (d a b : SReg) (stride : BitVec 7) (lo fo : Bool) (len : BitVec 5),
    let n : BitVec 32 := (s.rx a).setWidth 32
    let next := s.frame.addr + BitVec.ofNat 64 s.frame.len
    let opened (src : Bool) (st : BitVec 7) : State :=
      { s with frame := { s.frame with opened := some ⟨next, n, len, 0, fo, lo, d, src, st, true, n == 0⟩ } }
    (Issues s → s.cur.levels.length < 6 → (∀ l ∈ s.cur.live, l.pos.toNat + len.toNat + 1 ≤ l.len.toNat) →
      exec (.loop d a stride lo fo len) s = .next (opened false stride) ∧
      exec (.loopx d a b lo fo len) s = .next (opened true (b.setWidth 7))) ∧
    (WorkerWhole s → 6 ≤ s.cur.levels.length →
      exec (.loop d a stride lo fo len) s = .next (s.issueTrap 0x01 1) ∧
      exec (.loopx d a b lo fo len) s = .next (s.issueTrap 0x01 1)) ∧
    (WorkerWhole s → s.cur.levels.length < 6 → (∃ l ∈ s.cur.live, l.len.toNat < l.pos.toNat + len.toNat + 1) →
      exec (.loop d a stride lo fo len) s = .next (s.issueTrap 0x01 2) ∧
      exec (.loopx d a b lo fo len) s = .next (s.issueTrap 0x01 2))
/-- R46, R121 to R125: a performed branch closes every level of the context's own and makes its target next; a level counts its bundles, loops back at its last one while passes remain, and closes after the last pass; a LOOP's level opens after its bundle. So in a nest: the enclosing levels count too, go back by the inner body's length where the inner level loops back, and end their own passes where it closes. A bundle is suppressed by FO, LO and SKIP and then has guard 0. Where passes end, each induction register has one write, of latency 1, of the sum of the strides that name it. -/
def Obligations.SequencerAfterBundle : Prop :=
  (∀ (x : Ctx) (n : DWord), x.frozen = 0 →
    (∀ t, (x.branched t).next = t ∧ (x.branched t).levels = [] ∧ (x.branched t).hold = none) ∧
    (x.levels = [] → (x.sequenced n none).next = n ∧ (x.sequenced n none).levels = []) ∧
    (x.levels = [] → ∀ l, (x.sequenced n (some l)).levels = [l] ∧ (x.sequenced n (some l)).next = n) ∧
    ∀ l, x.levels = [l] → l.skip = false → l.pos ≤ l.len →
      (l.pos < l.len → (x.sequenced n none).levels = [{ l with pos := l.pos + 1 }] ∧ (x.sequenced n none).next = n) ∧
      (l.pos = l.len → 1 < l.count.toNat →
        (x.sequenced n none).levels = [{ l with count := l.count - 1, first := false, pos := 0 }] ∧
        (x.sequenced n none).next = l.start) ∧
      (l.pos = l.len → l.count.toNat ≤ 1 → (x.sequenced n none).levels = [] ∧ (x.sequenced n none).next = n)) ∧
  (∀ (x : Ctx) (n : DWord) (o : List Level) (l : Level), x.frozen = 0 → x.levels = o ++ [l] → l.pos ≤ l.len →
    let y : Ctx := { x with levels := o }
    (l.pos < l.len →
      (x.sequenced n none).levels = (o ++ [l]).map (fun k => { k with pos := k.pos + 1 }) ∧ (x.sequenced n none).next = n ∧
      (∀ k, (x.sequenced n (some k)).levels = (o ++ [l]).map (fun k => { k with pos := k.pos + 1 }) ++ [k] ∧ (x.sequenced n (some k)).next = n) ∧
      x.ending = []) ∧
    (l.pos = l.len → l.skip = false → 1 < l.count.toNat →
      (x.sequenced n none).levels = o.map (fun k => { k with pos := k.pos + 1 - (l.len + 1) }) ++
        [{ l with count := l.count - 1, first := false, pos := 0 }] ∧ (x.sequenced n none).next = l.start ∧ x.ending = [l]) ∧
    (l.pos = l.len → (l.skip = true ∨ l.count.toNat ≤ 1) →
      (x.sequenced n none).levels = (y.sequenced n none).levels ∧ (x.sequenced n none).next = (y.sequenced n none).next ∧
      x.ending = l :: y.ending)) ∧
  (∀ (s : State) (p n : Nat) (b : Bundle),
    let hides (l : Level) : Prop := (l.fo = true ∧ l.pos = 0 ∧ l.first = false) ∨ (l.lo = true ∧ l.pos = l.len ∧ 1 < l.count.toNat) ∨ l.skip = true
    let q := hdrQg b.hdr
    ((∃ l ∈ (s.ctx p n).live, hides l) → (s.frameFor p n b).frame.guard = false) ∧
    ((∀ l ∈ (s.ctx p n).live, ¬ hides l) → (s.core p).writes = [] →
      (s.frameFor p n b).frame.guard = ((decide (q = 0) || (s.ctx p n).qs.getLsbD q.toNat) != hdrQn b.hdr))) ∧
  (∀ (s : State) (l o : Level),
    let stride (l : Level) : DWord := if l.src then s.rx (l.stride.extractLsb' 0 6) else l.stride.signExtend 64 * 8
    (l.skip = true ∨ l.dreg = 0 → s.addStrides [l] = s) ∧
    (l.skip = false → l.dreg ≠ 0 → s.addStrides [l] = s.wx l.dreg (s.rx l.dreg + stride l) 1) ∧
    (l.skip = false → o.skip = false → l.dreg ≠ 0 → o.dreg ≠ 0 →
      (l.dreg = o.dreg → s.addStrides [l, o] = s.wx l.dreg (s.rx l.dreg + stride l + stride o) 1) ∧
      (l.dreg ≠ o.dreg → s.addStrides [l, o] = (s.wx l.dreg (s.rx l.dreg + stride l) 1).wx o.dreg (s.rx o.dreg + stride o) 1))) ∧
  ∀ s : State, s.frame.after = none → s.frame.rett = false → s.cur.ss = false →
    let p := s.frame.core
    let n := s.frame.ctx
    let t := s.endBundle
    (s.frame.target = none → (t.ctx p n).levels = (s.cur.sequenced s.nextAddr s.frame.opened).levels ∧
      (t.ctx p n).next = (s.cur.sequenced s.nextAddr s.frame.opened).next ∧ (t.core p).writes = (s.addStrides s.cur.ending).here.writes) ∧
    ∀ u, s.frame.target = some u → (t.ctx p n).levels = (s.cur.branched u).levels ∧ (t.ctx p n).next = u ∧ (t.core p).writes = s.here.writes

/-! ## Bundles and steps (R12, R42 to R46, R61, R63) -/

/-- A step in an issue turn runs the bundle decoded at the context's next-bundle address: with power on, the context in RUN, its WAIT served and no Emonef interlock, the step checks and performs the operations of that bundle; a bundle first issued within an open loop level is captured (R127). And the step of a bundle of one operation is exec of it: checked first; with no check failed and a guard of 1 performed, then the bundle closes. -/
def Obligations.StepRunsTheDecodedBundle : Prop :=
  (∀ (s : State) (p n : Nat) (rest : List Todo) (bs : List Byte) (b : Bundle),
    s.hub.powered = true → s.todo = .issue p n :: rest → (s.ctx p n).st = .run →
    ((s.ctx p n).hold = some 0 ∨ (s.ctx p n).hold = none ∧ hdrWait (BitVec.ofNat 16 (leNat (bs.take 2))) = 0) →
    (s.core p).emonef = false → (s.core p).nextBundle n = .ok bs → decodeBundle bs = .ok b →
    let t : State := { s with todo := rest }
    let x := s.ctx p n
    (x.live = [] ∨ x.captured.isSome = true → step s = runBundle (opsOf b) ((t.frameFor p n b).noteBundle b)) ∧
    (x.live ≠ [] → x.captured = none →
      let u := t.onCtx p n fun x => { x with capture := x.capture ++ [(x.captureKey, bs)] }
      step s = runBundle (opsOf b) ((u.frameFor p n b).noteBundle b))) ∧
  ∀ (s t u : State) (slot : Nat) (w : DWord) (i : Instr),
    exec i (s.atSlot slot w) = .next t → t.frame.noted = none → t.frame.guard = true →
    exec i ((t.toPerform [(slot, w, i)]).atSlot slot w) = .next u →
    runBundle [(slot, w, i)] s = .next u.closeBundle
/-- R61: a bundle of which a check fails takes the trap noted first and has no other effect; R43: a bundle whose guard is 0 performs none of its operations. -/
def Obligations.TrappedOrUnguardedBundleHasNoEffect : Prop :=
  ∀ (ops : List Op) (s t : State), (∀ o ∈ ops, o.2.2.isOp = true) → s.frame.phase = .check → runBundle ops s = .next t →
    ∀ u, runOps ops s = .next u →
      (∃ f, u = { s with frame := f } ∧ f.core = s.frame.core ∧ f.ctx = s.frame.ctx ∧ f.addr = s.frame.addr ∧
        f.guard = s.frame.guard) ∧
      (∀ k tr, u.frame.noted = some (k, tr) → t = u.trapBundle tr) ∧
      (u.frame.noted = none → s.frame.guard = false → t = u.closeBundle)
/-- R42: a new bundle holds its context for its WAIT turns, each counted and issuing nothing, whether or not a second line of it is present. R45: a pure wait bundle has no effect of its own. R34, R35, R61: a next-bundle address with bit 0 set or bits [63:48] non-zero traps 0x07, and a line that is not present traps 0x10, both with the bundle's address in EPC. That a next-bundle address is refused at the fetch, where R35 speaks of the branch, and that the WAIT turns come before the fetch checks, is the model's reading (log 7). -/
def Obligations.BeforeABundleIssues : Prop :=
  (∀ (s : State) (p n k : Nat) (bs : List Byte), (s.ctx p n).st = .run → (s.core p).emonef = false →
    ((s.ctx p n).hold = some (k + 1) → s.beginIssue p n = .done (s.onCtx p n fun x => { x with hold := some k })) ∧
    ((s.ctx p n).hold = none → (s.core p).nextBundle n = .ok bs →
      hdrWait (BitVec.ofNat 16 (leNat (bs.take 2))) = BitVec.ofNat 4 (k + 1) → k < 15 →
      s.beginIssue p n = .done (s.onCtx p n fun x => { x with hold := some k })) ∧
    ∀ l e, (s.ctx p n).hold = none → (s.core p).nextBundle n = .error e → badTarget (s.ctx p n).next = false →
      (s.core p).lineAt (s.ctx p n).next.toNat = some l →
      hdrWait (BitVec.ofNat 16 (leNat ((l.drop ((s.ctx p n).next.toNat % 64)).take 2))) = BitVec.ofNat 4 (k + 1) → k < 15 →
      s.beginIssue p n = .done (s.onCtx p n fun x => { x with hold := some k })) ∧
  (∀ (s : State) (w : BitVec 4) (g : BitVec 3) (n : Bool), Issues s → exec (.pureWaitBundle w g n) s = .next s) ∧
  (∀ (s : State) (p n : Nat), (s.ctx p n).st = .run → (s.core p).emonef = false → (s.ctx p n).hold = some 0 →
    (s.ctx p n).levels = [] →
    let a := (s.ctx p n).next
    ((a.getLsbD 0 = true ∨ a.extractLsb' 48 16 ≠ 0) → s.beginIssue p n = .done (s.takeTrap p n a (causeOf 0x07) a)) ∧
    (a.getLsbD 0 = false → a.extractLsb' 48 16 = 0 → (s.core p).lineAt a.toNat = none →
      s.beginIssue p n = .done (s.takeTrap p n a (causeOf 0x10) a)))
/-- No step of a package with power stops: every instruction and event has a meaning that answers a next state. The one fault is the step of a package without power and without an input to take in (log 36). R433: such a package takes nothing in but a reset: with none among its inputs no step gives it power, and no step changes a core, a store or the hub. -/
def Obligations.EveryStepAnswers : Prop :=
  (∀ (i : Instr) (s : State), ∃ t, exec i s = .next t) ∧ (∀ s : State, s.hub.powered = true → s.Safe) ∧
  ∀ s t : State, s.hub.powered = false → (∀ k ∈ s.inputs, k.2 ≠ .packageReset) → step s = .next t →
    (t.hub.powered = false ∧ ∀ k ∈ t.inputs, k.2 ≠ .packageReset) ∧
    t.cores = s.cores ∧ t.cliff = s.cliff ∧ t.hub = s.hub ∧ t.now = s.now
namespace Sys2Proof.Claims
/-- Every local store and Cliffstack have the canonical form of a memory, and so have the local stores of checkpoints (logs 1 and 2). -/
def StoresCanonical (s : State) : Prop :=
  Memory.wf s.cliff ∧ (∀ k ∈ s.cores, Memory.wf k.2.ls) ∧ ∀ k ∈ s.hub.snapshots, Memory.wf k.2.core.ls
end Sys2Proof.Claims

/-- Every step keeps the canonical form of every local store, of Cliffstack and of the stores of checkpoints; so no store holds an entry twice, out of order, or with the value that an unlisted byte reads as, in any run from a state that meets it, as the state after reset does (ResetState). -/
def Obligations.EveryStepKeepsStoresCanonical : Prop :=
  (∀ s t : State, StoresCanonical s → step s = .next t → StoresCanonical t) ∧
  ∀ s : State, StoresCanonical s → ∀ p, Memory.wf (s.core p).ls
/-- R23, R24, R28, R38, R389: the values that the reset columns give, and memories with nothing listed; a register that is not listed in a bank holds 0, and CORE, LAUNCH and BANKS read 0 in every context. That Cliffstack lists nothing is the model's choice (log 2). R6, R29: every write of the local store or of Cliffstack through the memory operations keeps the canonical form, reads back as written, and leaves every other byte as it was. -/
def Obligations.ResetState : Prop :=
  (let s := State.reset
  StoresCanonical s ∧ Memory.wf s.cliff ∧ (∀ p, Memory.wf (s.core p).ls) ∧ s.now = 0 ∧
  (∀ p n, n ≠ 0 → (s.ctx p n).st = .free) ∧ (∀ p, (s.ctx p 0).st = .stop) ∧
  (∀ p n, (s.ctx p n).seed = 0x9E3779B97F4A7C15 ∧ (s.ctx p n).check = 0x10000000 ∧ (s.ctx p n).qs = 1) ∧
  (∀ p n, (s.ctx p n).tags = 0 ∧ (s.ctx p n).tagOut = [] ∧ (s.ctx p n).fcr = 0 ∧ (s.ctx p n).xs = [] ∧ (s.ctx p n).vs = [] ∧
    (s.ctx p n).turn = 0 ∧ (s.ctx p n).phaseCount = 0 ∧ (s.ctx p n).ring = [] ∧ (s.ctx p n).vseqSel = 0 ∧ (s.ctx p n).vseqNext = 0 ∧
    (s.ctx p n).epc = 0 ∧ (s.ctx p n).cause = 0 ∧ (s.ctx p n).tval = 0) ∧
  (∀ p, (s.core p).handler = false ∧ (s.core p).timer = 0 ∧ (s.core p).ws = [] ∧ (s.core p).accs = [] ∧ (s.core p).claims = [] ∧
    (s.core p).code = [] ∧ (s.core p).empties = [] ∧ (s.core p).deleg = 0) ∧
  (∀ p, (s.core p).ks = [] ∧ (s.core p).qarb = 0x102040 ∧
    ∀ n, (s.core p).logicalReg n = 0 ∧ (s.core p).launchReg n = 0 ∧ (s.core p).banksReg n = 0) ∧
  ∀ q, (look Queue.reset s.hub.queues q).state = 0) ∧
  ∀ (m : List Host.Cell) (a n v b : Nat), Memory.wf m →
    Memory.wf (memWrite m a n v) ∧ memRead (memWrite m a n v) a n = v % 256 ^ n ∧
    (b < a ∨ a + n ≤ b → memGet (memWrite m a n v) b = memGet m b)


/-! ## The bound of VSFU (R176) -/

/-- R176: the reciprocal of an FP32 lane, of an input outside the overflow of R177, has the input's sign and lies within 1 ulp of the exact quotient, whatever free function fixes it (log 8); u is the exponent of an ulp at the exact quotient. -/
def Obligations.ReciprocalWithinOneUlp : Prop :=
  ∀ (x m : Nat) (neg : Bool) (e u : Int), x < 2 ^ 32 → 0x00200000 < x % 2 ^ 31 → x % 2 ^ 31 < 0x7F800000 → ffF32.num x = .fin neg m e →
    let two (k : Int) : Nat := 2 ^ (k + 400).toNat
    (-149 ≤ u ∧ m * two (e + u + 23) ≤ two 0 ∧ two 0 < m * two (e + u + 24)) ∨ (u = -149 ∧ two 0 < m * two (e + u + 24)) →
    ∃ (k : Nat) (f : Int), ffF32.num (sfuLane .rcp .f32 false x).1 = .fin neg k f ∧
      m * k * two (e + f) ≤ two 0 + m * two (e + u) ∧ two 0 ≤ m * k * two (e + f) + m * two (e + u)

/-! ## Scalar floating point (R70 to R91, R113 to R118) -/

namespace Sys2Proof.Claims
/-- One number is less than another, neither a NaN, −0 being less than +0 (R115). -/
def less : Machine.Num → Machine.Num → Prop
  | .inf n, .inf k => n = true ∧ k = false
  | .inf n, .fin _ _ _ => n = true
  | .fin _ _ _, .inf k => k = false
  | .fin n m e, .fin k l f =>
    let i := min e f
    let x : Int := (if n then -1 else 1) * (m * 2 ^ (e - i).toNat : Nat)
    let y : Int := (if k then -1 else 1) * (l * 2 ^ (f - i).toNat : Nat)
    x < y ∨ (m = 0 ∧ l = 0 ∧ n = true ∧ k = false)
  | _, _ => False
end Sys2Proof.Claims

/-- R77, R113 to R118: FOP, FFMA, FCMP and FCVT give the exact result of their entry rounded once in FCR's mode, write it with latency 2 and merge its flags; min and max give the smaller and the larger operand, −0 being below +0, the other operand of a NaN, the canonical NaN of two, and raise NV for a signalling NaN alone. -/
def Obligations.ScalarFloatResults : Prop :=
  ∀ (s : State) (t : FpTy) (d a b : SReg) (q : PReg), Issues s →
    let ff := ffOf t
    let x := ff.num (fpIn t (s.rx a))
    let y := ff.num (fpIn t (s.rx b))
    let z := ff.num (fpIn t (s.rx d))
    let rm := (s.fcrNow.extractLsb' 0 3).toNat
    let ftz := s.fcrNow.getLsbD 3
    let rounded (f : Mode → Exact × Fl) : State :=
      s.scalarFp (rmMode rm) d fun md => ((ff.finish ftz md (f md).1).1, (f md).2 ||| (ff.finish ftz md (f md).1).2)
    exec (.fop .add t d a b) s = .next (rounded fun md => numAdd md x y) ∧
    exec (.fop .sub t d a b) s = .next (rounded fun md => numAdd md x y.neg) ∧
    exec (.fop .mul t d a b) s = .next (rounded fun _ => ((numMul x y).1.exact, (numMul x y).2)) ∧
    exec (.fop .div t d a b) s = .next (rounded fun _ => numDiv x y) ∧
    exec (.fop .sqrt t d a b) s = .next (rounded fun _ => numSqrt x) ∧
    exec (.ffma .ma t d a b) s = .next (rounded fun md => numFma md false false x y z) ∧
    exec (.ffma .ms t d a b) s = .next (rounded fun md => numFma md false true x y z) ∧
    exec (.ffma .nma t d a b) s = .next (rounded fun md => numFma md true false x y z) ∧
    exec (.ffma .nms t d a b) s = .next (rounded fun md => numFma md true true x y z) ∧
    (∀ mx : Bool, ∃ v f, exec (.fop (if mx then .max else .min) t d a b) s = .next ((s.wx d (BitVec.ofNat 64 v) 2).scalarFlags f 2) ∧
      (x.isNan = false → y.isNan = false → v = fpIn t (s.rx a) ∨ v = fpIn t (s.rx b)) ∧
      (less x y → v = fpIn t (s.rx (if mx then b else a))) ∧ (less y x → v = fpIn t (s.rx (if mx then a else b))) ∧
      (x.isNan = true → y.isNan = true → v = (match t with | .f32 => 0x7FC00000 | .bf16 => 0x7FC0 | .f16 => 0x7E00)) ∧
      f = (if x = .nan true ∨ y = .nan true then 0x10 else 0) ∧
      (x.isNan = true → y.isNan = false → v = fpIn t (s.rx b)) ∧ (x.isNan = false → y.isNan = true → v = fpIn t (s.rx a))) ∧
    (∀ c, exec (.fcmp c t q a b) s = .next ((s.wq q (numCond c x y).1 2).scalarFlags (numCond c x y).2 2)) ∧
    ∀ src dst cm, exec (.fcvt src dst cm d a) s =
      .next (s.scalarFp (if fcvtExact src dst then .rne else cvtMode rm cm) d
        fun md => ((fcvtVal src dst ftz md (s.rx a)).1.toNat, (fcvtVal src dst ftz md (s.rx a)).2))
/-- A register result changes nothing but the list of writes of the issuing core that have yet to land: no landed register, flag or special register, no byte of memory and no other core. -/
def Obligations.ResultWritesFrame : Prop :=
  ∀ (s : State) (r : SReg) (v : VReg) (q : PReg) (w : DWord) (x : Vec) (b : Bool) (lat : Nat),
    ∀ t ∈ [s.wx r w lat, s.wv v x lat, s.wq q b lat],
      (∀ p n, t.ctx p n = s.ctx p n) ∧ (∀ p, (t.core p).ls = (s.core p).ls ∧ (t.core p).ks = (s.core p).ks ∧
        (t.core p).ws = (s.core p).ws ∧ (t.core p).accs = (s.core p).accs ∧ (t.core p).empties = (s.core p).empties) ∧
      (∀ p, p ≠ s.frame.core → t.core p = s.core p) ∧ t.cliff = s.cliff ∧ t.hub = s.hub ∧ t.frame = s.frame ∧
      (∃ l, t.here.writes = s.here.writes ++ l ∧ l.length ≤ 1)

/-! ## Exceptions (R22, R279 to R282, R327, R328, R386) -/

/-- R280: a worker's trap writes its EPC, CAUSE (with SRC naming it) and TVAL, makes EPC its next bundle, stops it with its levels and dispatch ring kept, and enters it in C0's pending set; nothing else of the core or of another changes. That the worker's own CAUSE names it in SRC is the model's reading of R22 (log 37). -/
def Obligations.WorkerTrapEntry : Prop :=
  ∀ (s : State) (p n : Nat) (epc cause tval : DWord), n ≠ 0 → cause.toNat % 256 ≠ 0x1D →
    let t := s.takeTrap p n epc cause tval
    let x := s.ctx p n
    let y := t.ctx p n
    y.epc = epc ∧ y.cause = cause ||| (BitVec.ofNat 64 n <<< 8) ∧ y.tval = tval ∧ y.next = epc ∧ y.st = .stop ∧
    y.levels = x.levels ∧ y.ring = x.ring ∧ y.xs = x.xs ∧ y.vs = x.vs ∧ y.qs = x.qs ∧ y.fcr = x.fcr ∧ y.tags = x.tags ∧
    y.seed = x.seed ∧ y.check = x.check ∧ y.turn = x.turn ∧ y.parks = x.parks ∧
    (t.core p).pending.workers = (s.core p).pending.workers ++ [(n, cause ||| (BitVec.ofNat 64 n <<< 8), tval)] ∧
    (t.core p).pending.own = (s.core p).pending.own ∧ (t.core p).pending.wakes = (s.core p).pending.wakes ∧
    (t.core p).ls = (s.core p).ls ∧ (t.core p).handler = (s.core p).handler ∧ (t.core p).writes = (s.core p).writes ∧
    (∀ m, m ≠ n → t.ctx p m = s.ctx p m) ∧ (∀ q, q ≠ p → t.core q = s.core q) ∧ t.cliff = s.cliff ∧ t.hub = s.hub
/-- R281: with its flag 0, not parked and not stopped for the Lighthouse, C0 takes the first pending trap: EPC is the bundle it would have issued, CAUSE and TVAL are the trap's, the bundle at TVEC is next, and the flag is set; and the order in which pending traps are first. -/
def Obligations.C0EntersPendingTraps : Prop :=
  (∀ (s : State) (p : Nat) (cause tval : DWord) (rest : Pending),
    let c := s.core p
    c.handler = false → (c.ctx 0).st ≠ .park → c.delivered = none → (c.ctx 0).mmode = false →
    c.nextPending = some (cause, tval, rest) →
    ∃ t, exec (.c0TrapEntry p) s = .next t ∧
      let d := t.core p
      let x := d.ctx 0
      d.handler = true ∧ d.pending = rest ∧ x.epc = (c.ctx 0).next ∧ x.cause = cause ∧ x.tval = tval ∧ x.next = c.tvec ∧
      x.hold = none ∧ x.st = .run ∧ x.xs = (c.ctx 0).xs ∧ x.qs = (c.ctx 0).qs ∧ x.fcr = (c.ctx 0).fcr ∧
      x.levels = (c.ctx 0).levels ∧ (∀ m, m ≠ 0 → d.ctx m = c.ctx m) ∧ d.ls = c.ls ∧ d.writes = c.writes ∧
      (∀ q, q ≠ p → t.core q = s.core q) ∧ t.cliff = s.cliff ∧ t.hub = s.hub) ∧
  (∀ c : Core,
    let p := c.pending
    (∀ v l, p.migration = v :: l → ∃ r, c.nextPending = some (0x1C, v, r)) ∧
    (p.migration = [] → p.timer = true → ∃ r, c.nextPending = some (0x1A, 0, r) ∧ r.timer = false) ∧
    (p.migration = [] → p.timer = false →
      (∀ v l, p.wakes = v :: l → ∃ r, c.nextPending = some (0x1B, v, r) ∧ r.wakes = l) ∧
      (p.wakes = [] →
        (∀ k v l, p.own = (k, v) :: l → ∃ r, c.nextPending = some (causeOf k, v, r) ∧ r.own = l) ∧
        (p.own = [] → p.workers ≠ [] → ∃ n cause tval r, c.nextPending = some (cause, tval, r) ∧
          (n, cause, tval) ∈ p.workers ∧ (∀ w ∈ p.workers, n ≤ w.1)) ∧
        (p.own = [] → p.workers = [] → c.nextPending = none))))
/-- R327, R328, R386: C0's own trap goes to the Lighthouse, to S-mode where DELEG has the cause's bit and else to M-mode, with its record entered there; a worker's uncorrectable error stops it under M-mode without joining the pending set. -/
def Obligations.LighthouseTraps : Prop :=
  ∀ (s : State) (p : Nat) (epc cause tval : DWord),
    let c := s.core p
    let k := cause.toNat % 256
    let t := s.takeTrap p 0 epc cause tval
    let record : List DWord := [BitVec.ofNat 64 p ||| ((c.launchReg 0).setWidth 32).setWidth 64 <<< 32, cause, epc, tval]
    ((t.ctx p 0).epc = epc ∧ (t.ctx p 0).cause = cause ∧ (t.ctx p 0).tval = tval ∧ (t.ctx p 0).st = .stop ∧
      (t.core p).handler = c.handler ∧ (t.core p).pending = c.pending ∧ (∀ m, m ≠ 0 → t.ctx p m = s.ctx p m) ∧
      (∀ q, q ≠ p → t.core q = s.core q)) ∧
    (k < 64 → k ≠ 0x1D → c.deleg.getLsbD k = true →
      t.hub.sTrap = s.hub.sTrap.enter 8192 record ∧ t.hub.mTrap = s.hub.mTrap ∧ (t.core p).delivered = some true) ∧
    ((64 ≤ k ∨ k = 0x1D ∨ c.deleg.getLsbD k = false) →
      t.hub.mTrap = s.hub.mTrap.enter 8192 record ∧ t.hub.sTrap = s.hub.sTrap ∧ (t.core p).delivered = some false) ∧
    ∀ n, n ≠ 0 → k = 0x1D →
      let u := s.takeTrap p n epc cause tval
      (u.ctx p n).st = .stop ∧ (u.ctx p n).mmode = true ∧ (u.ctx p n).epc = epc ∧ (u.ctx p n).tval = tval ∧
      (u.core p).pending = c.pending ∧ u.hub.sTrap = s.hub.sTrap ∧ u.hub.mTrap.head = s.hub.mTrap.head + 1
/-- R279: TRAP and BRK let the rest of their bundle be performed, and after it, or after what the bundle leaves to the last cycle of its core turn (R272), the context traps 0x17 or 0x18 with TVAL the immediate and EPC the bundle it would issue next. R282: RETT makes C0's EPC its next bundle and clears the flag; RETT.w makes a stopped worker run again from the next core turn. -/
def Obligations.TrapBreakpointAndReturn : Prop :=
  ((∀ (s : State) (imm : BitVec 20), Issues s →
    exec (.trap imm) s = .next { s with frame := { s.frame with after := some (0x17, imm.setWidth 64) } } ∧
    exec (.brk imm) s = .next { s with frame := { s.frame with after := some (0x18, imm.setWidth 64) } }) ∧
  ∀ (s : State) (k : Nat) (v : DWord), s.frame.after = some (k, v) → s.frame.target = none → s.frame.opened = none →
    s.frame.rett = false → s.cur.st = .run → s.cur.check = 0 → s.cur.levels = [] → s.cur.foot = [] →
    ∃ u : State, u.cur = { s.cur with next := s.nextAddr, hold := none, capture := if s.cur.frozen = 0 then [] else s.cur.capture.filter fun p => p.1 < 2 ^ 64 } ∧
      u.here.pending = s.here.pending ∧ u.here.ls = s.here.ls ∧
      ((∀ o ∈ s.here.turnOps, o.ctx ≠ s.frame.ctx) →
        s.endBundle = (u.takeTrap s.frame.core s.frame.ctx s.nextAddr (causeOf k) v).endFrame) ∧
      ((∃ o ∈ s.here.turnOps, o.ctx = s.frame.ctx) →
        s.endBundle = (u.onCur fun x => x.addLate ⟨.exit 0 s.nextAddr, causeOf k, v, s.now⟩).endFrame)) ∧
  ((∀ s : State, C0Issues s → exec .rett s = .next { s with frame := { s.frame with rett := true } }) ∧
  (∀ c : Core, c.rett.handler = false ∧ (c.rett.ctx 0).next = (c.ctx 0).epc ∧ (c.rett.ctx 0).epc = (c.ctx 0).epc ∧
    (c.rett.ctx 0).st = (c.ctx 0).st ∧ c.rett.pending = c.pending ∧ ∀ m, m ≠ 0 → c.rett.ctx m = c.ctx m) ∧
  (∀ (s : State) (a : SReg), C0Issues s →
    let n := (s.rx a).toNat % 16
    let x := s.here.ctx n
    n ≠ 0 → x.st = .stop → x.mmode = false → s.here.swapping = [] →
    exec (.rettW a) s = .next (s.onHere fun c => { c with changes := c.changes ++ [.rett n] })) ∧
  ∀ (s : State) (p n : Nat), (s.ctx p n).st = .stop → (s.ctx p n).parks = [] → (s.ctx p n).stepped = none →
    let t := s.applyChange p (.rett n)
    (t.ctx p n).st = .run ∧ (t.ctx p n).next = (s.ctx p n).next ∧ (t.core p).handler = (s.core p).handler ∧
    ((s.ctx p n).nextWritten = true → (t.ctx p n).levels = []) ∧
    ((s.ctx p n).nextWritten = false → (t.ctx p n).levels = (s.ctx p n).levels))

/-! ## Contexts: START, STOP, HALT, QUIT, PHASE, SWAP, RESUME, MIGR (R263 to R270, R284) -/

/-- R263 to R265: START and STOP of a worker, from the next core turn; new work starts at the given address with C0's x3 to x7 and its own SEED. -/
def Obligations.StartAndStopWorkers : Prop :=
  (∀ (s : State) (a b : SReg), C0Issues s →
    let n := (s.rx a).toNat % 16
    let x := s.here.ctx n
    let seed := s.mfsVal 0x0A + BitVec.ofNat 64 (16 * s.frame.core + n) * 0x9E3779B97F4A7C15
    let change (c : Change) : Out := .next (s.onHere fun k => { k with changes := k.changes ++ [c] })
    n ≠ 0 →
    (x.st = .stop → x.mmode = false → s.here.swapping = [] → b = 0 →
      exec (.start a b) s = change (.start n 0 (s.rx 3) (s.rx 4) (s.rx 5) (s.rx 6) (s.rx 7) seed false (s.here.launchId 0))) ∧
    (x.st ∈ [.free, .halt, .out] → (s.rx b).getLsbD 0 = false → (s.rx b).extractLsb' 48 16 = 0 →
      exec (.start a b) s = change (.start n (s.rx b) (s.rx 3) (s.rx 4) (s.rx 5) (s.rx 6) (s.rx 7) seed true (s.here.launchId 0))) ∧
    (x.st ∈ [.run, .park] → exec (.stop a) s = change (.stop n))) ∧
  (∀ (s : State) (p n : Nat) (addr x3 x4 x5 x6 x7 seed : DWord) (l : Option Nat),
    let y := (s.applyChange p (.start n addr x3 x4 x5 x6 x7 seed true l)).ctx p n
    y.st = .run ∧ y.next = addr ∧ y.seed = seed ∧ y.turn = 0 ∧ y.base = s.now ∧ y.levels = [] ∧ y.tags = 0 ∧ y.fcr = 0 ∧
    y.check = 0x10000000 ∧ look 0 y.xs 3 = x3 ∧ look 0 y.xs 4 = x4 ∧ look 0 y.xs 5 = x5 ∧ look 0 y.xs 6 = x6 ∧ look 0 y.xs 7 = x7 ∧
    look 0 y.xs 8 = 0) ∧
  ∀ (s : State) (p n : Nat),
    let t := s.applyChange p (.stop n)
    ((s.ctx p n).st ∈ [.run, .park] → t.ctx p n = { s.ctx p n with st := .stop, nextWritten := false }) ∧
    ((s.ctx p n).st ∉ [.run, .park] → t.ctx p n = s.ctx p n)
/-- R268 to R270: PHASE counts, and with PEND set leaves the context stopped where it is marked; a deferred SWAP is performed then, unless its entry has meanwhile been taken, which is the model's reading (log 46); HALT in C0 stops it; HALT and QUIT in a worker park it until all has drained, and then it is HALT or FREE. -/
def Obligations.EndsOfWork : Prop :=
  (∀ s : State, Issues s →
    let x := s.cur
    (x.pend = false → exec .phase s = .next (s.onCur fun x => { x with phaseCount := x.phaseCount + 1 })) ∧
    (x.pend = true → ∃ t, exec .phase s = .next t ∧ t.cur.phaseCount = x.phaseCount + 1 ∧ t.cur.pend = false ∧
      t.cur.deferred = none ∧ t.cur.st = (if x.marked then .stop else x.st) ∧
      (∀ e, x.deferred = some e →
        (s.here.entryFree e = true → ∃ j, t.here.swapping = s.here.swapping ++ [j] ∧ j.ctx = s.frame.ctx ∧ j.entry = e) ∧
        (s.here.entryFree e = false → t.here.swapping = s.here.swapping)) ∧
      (x.deferred = none → t.here.swapping = s.here.swapping))) ∧
  (∀ s : State, C0Issues s → exec .halt s = .next (s.onCur fun x => { x with st := .stop, nextWritten := false })) ∧
  (∀ s : State, WorkerIssues s → ∀ quit : Bool, ∃ t k, exec (if quit then .quit else .halt) s = .next t ∧
    t.cur.st = parked s ∧ t.cur.parks = s.cur.parks ++ [k] ∧ k.kind = .drain ∧ k.op = (if quit then .quit else .halt) ∧
    k.addr = s.frame.addr ∧ t.here.ls = s.here.ls ∧ t.here.writes = s.here.writes ∧
    (∀ p, p ≠ s.frame.core → t.core p = s.core p)) ∧
  ∀ (s : State) (p n : Nat) (k : Park) (quit : Bool), (s.ctx p n).st = .park → (s.ctx p n).parks = [k] → k.kind = .drain →
    k.op = (if quit then .quit else .halt) → s.drained p n quit = true → (s.core p).stopping n = false → (s.ctx p n).late = [] → (s.ctx p n).backlog = [] → (s.ctx p n).lost = 0 →
    ∃ t, exec (.haltDrainComplete p n) s = .next t ∧
      (t.ctx p n).st = (if quit then .free else .halt) ∧ (t.ctx p n).levels = [] ∧ (t.ctx p n).parks = [] ∧
      (quit = true → (t.ctx p n).xs = [] ∧ (t.ctx p n).tags = 0) ∧ (quit = false → (t.ctx p n).xs = (s.ctx p n).xs) ∧
      (∀ m, m ≠ n → t.ctx p m = s.ctx p m) ∧ (t.core p).claims = (s.core p).claims
/-- R266, R267: SWAP into a free entry begins at once, with C0 parked, or is deferred to the target's next PHASE with d := 2; RESUME of a valid entry parks C0. R284: MIGR.arm names a core in no launch and marks the workers in RUN, PARK, STOP and OUT; MIGR.freeze refuses requests; MIGR.commit answers 1 or 0; MIGR.abort clears every PEND. -/
def Obligations.SwapResumeAndMigration : Prop :=
  (∀ (s : State) (d a b : SReg), C0Issues s →
    let n := (s.rx a).toNat % 16
    let e := (s.rx b).toNat % 4
    let x := s.here.ctx n
    (n ≠ 0 → x.st ∈ [.run, .park, .stop] → s.here.swapping = [] → find s.here.pool e = none →
      (∀ ph, (ph = true ∨ s.here.tidalWork n = true) →
        let u := (s.wx d 2 1).onCtx s.frame.core n fun x => { x with pend := true, deferred := some e }
        exec (.swap d a b ph) s = .next { u with frame := { u.frame with
          deferrals := if x.deferred = none then n :: u.frame.deferrals else u.frame.deferrals } }) ∧
      (s.here.tidalWork n = false → ∃ t j k, exec (.swap d a b false) s = .next t ∧ t.here.swapping = [j] ∧ j.ctx = n ∧ j.entry = e ∧
        t.cur.st = parked s ∧ t.cur.parks = s.cur.parks ++ [k] ∧ k.kind = .swap ∧
        s.now < j.due ∧ j.due ≤ s.now + 96 ∧ t.here.ls = s.here.ls)) ∧
    (let f := (s.rx a).toNat % 4
     let w := s.here.entryWord f
     (find s.here.pool f).isSome = true → w.1 ≠ 0 → (s.here.ctx w.1).st ∈ [.free, .out] → w.2 ∈ [1, 2, 3] →
      ∃ t k due, exec (.resume a) s = .next t ∧ t.here.resuming = s.here.resuming ++ [(f, s.ids, due)] ∧ s.now < due ∧
        due ≤ s.now + 96 ∧ t.cur.st = parked s ∧ t.cur.parks = s.cur.parks ++ [k] ∧ k.kind = .swap ∧ k.id = s.ids)) ∧
  (∀ (s : State) (d a : SReg), C0Issues s →
    (s.spare (s.rx a) = true → ∃ (t : State) (mask : DWord), exec (.migrArm d a) s = .next (t.wx d mask 1) ∧
      t.here.migration = some ⟨(s.rx a).toNat, false, none⟩ ∧
      (∀ n, 1 ≤ n → n < 16 → (mask.getLsbD n = true ↔ (s.here.ctx n).st ∈ [.run, .park, .stop, .out])) ∧
      (∀ n, 1 ≤ n → n < 16 → (s.here.ctx n).st ∈ [.run, .park, .stop] → (n, s.here.ctx n) ∈ s.here.ctxs →
        (t.here.ctx n).pend = true ∧ (t.here.ctx n).marked = true)) ∧
    (∃ t, exec .migrFreeze s = .next t ∧ (∃ m, t.here.migration = some m ∧ m.frozen = true) ∧ t.here.ls = s.here.ls) ∧
    (s.mayCommit s.frame.core (s.rx a) = true →
      exec (.migrCommit d a) s = .next ((s.wx d 1 1).commit s.frame.core (s.rx a).toNat)) ∧
    (s.mayCommit s.frame.core (s.rx a) = false → exec (.migrCommit d a) s = .next (s.wx d 0 1)) ∧
    (∃ t, exec .migrAbort s = .next t ∧ (∀ m, s.here.migration = some m → m.committed = none → t.here.migration = none) ∧
      ∀ n, (t.here.ctx n).pend = false ∧ (t.here.ctx n).marked = false ∧ (t.here.ctx n).deferred = none))

/-! ## Local memory and atomics (R129 to R151) -/

namespace Sys2Proof.Claims
/-- No command of the issuing context waits at core c that issued before this bundle (R195, R332). -/
def NoneBefore (s : State) (c : Core) : Prop :=
  ∀ w ∈ c.mwait ++ c.ewait, w.ctx = s.frame.ctx → w.order < s.here.cmdOrder → w.saved = false ∧ w.issue = s.now
/-- A plain access of the issuing context to a local address: allowed to it, aligned to n, in a word without error (R30, R31, R130). -/
def LocalAt (s : State) (a : DWord) (n : Nat) : Prop :=
  Issues s ∧ hdrRx s.frame.hdr = false ∧ s.here.poison = [] ∧ a.toNat < 0x80000 ∧ s.here.reaches s.frame.ctx a.toNat = true ∧
    a.toNat % n = 0
/-- The issuing core with some of its banks used in this cycle (R131). -/
def useBanks (s : State) (l : List Nat) : State := s.onHere fun c => { c with used := c.used ++ l }
/-- Nothing but the bytes a to a + n − 1 of the issuing core's store, and what the core keeps about them, differs. -/
def StoredOnly (s t : State) (a n : Nat) : Prop :=
  (∀ b, b < a ∨ a + n ≤ b → memGet t.here.ls b = memGet s.here.ls b) ∧ (∀ m, t.here.ctx m = s.here.ctx m) ∧
  t.here.writes = s.here.writes ∧ t.here.ks = s.here.ks ∧ t.here.ws = s.here.ws ∧ t.here.accs = s.here.accs ∧
  t.here.pending = s.here.pending ∧ (∀ p, p ≠ s.frame.core → t.core p = s.core p) ∧ t.cliff = s.cliff ∧ t.hub = s.hub ∧
  t.packets = s.packets ∧ t.frame = s.frame
/-- The issuing context waits, its earlier waits kept; no byte of memory, landed register or special register has changed. -/
def Waits (s t : State) (k : Park) : Prop :=
  t.cur.st = parked s ∧ t.cur.parks = s.cur.parks ++ [k] ∧ k.addr = s.frame.addr ∧ k.ended = .waiting ∧ k.turns = 0 ∧
  t.cur.xs = s.cur.xs ∧ t.cur.vs = s.cur.vs ∧ t.cur.qs = s.cur.qs ∧ t.cur.fcr = s.cur.fcr ∧ t.cur.tags = s.cur.tags ∧
  t.cur.levels = s.cur.levels ∧ (∀ m, m ≠ s.frame.ctx → t.here.ctx m = s.here.ctx m) ∧
  t.here.ls = s.here.ls ∧ t.here.empties = s.here.empties ∧ (∀ p, p ≠ s.frame.core → t.core p = s.core p) ∧ t.cliff = s.cliff
end Sys2Proof.Claims

/-- R140, R141: the sized loads give the bytes at EffAddr(a, imm14), little-endian and extended, with latency 1, and change no byte; the sized stores write the low bytes of d there, and nothing else; the full/empty bits stay. -/
def Obligations.LoadAndStoreResults : Prop :=
  (∀ (s : State) (d a : SReg) (v : VReg) (m : BitVec 14),
    let A := (s.rx a).extractLsb' 19 45 ++ ((s.rx a).extractLsb' 0 19 + m.signExtend 19)
    let rd (n : Nat) : BitVec (8 * n) := BitVec.ofNat (8 * n) (memRead s.here.ls A.toNat n)
    (LocalAt s A 1 → ∃ l, exec (.ld8 d a m) s = .next ((useBanks s l).wx d ((rd 1).signExtend 64) 1)) ∧
    (LocalAt s A 1 → ∃ l, exec (.ld8z d a m) s = .next ((useBanks s l).wx d ((rd 1).setWidth 64) 1)) ∧
    (LocalAt s A 2 → ∃ l, exec (.ld16 d a m) s = .next ((useBanks s l).wx d ((rd 2).signExtend 64) 1)) ∧
    (LocalAt s A 2 → ∃ l, exec (.ld16z d a m) s = .next ((useBanks s l).wx d ((rd 2).setWidth 64) 1)) ∧
    (LocalAt s A 4 → ∃ l, exec (.ld32 d a m) s = .next ((useBanks s l).wx d ((rd 4).signExtend 64) 1)) ∧
    (LocalAt s A 4 → ∃ l, exec (.ld32z d a m) s = .next ((useBanks s l).wx d ((rd 4).setWidth 64) 1)) ∧
    (LocalAt s A 8 → ∃ l, exec (.ld64 d a m) s = .next ((useBanks s l).wx d (rd 8) 1)) ∧
    (LocalAt s A 32 → (∀ k < 4, s.here.reaches s.frame.ctx (A.toNat + 8 * k) = true) → s.frame.ctx ≠ 0 → ∃ l, exec (.ldv v a m) s = .next ((useBanks s l).wv v (rd 32) 1))) ∧
  (∀ (s : State) (d a : SReg) (v : VReg) (m : BitVec 14),
    let A := (s.rx a).extractLsb' 19 45 ++ ((s.rx a).extractLsb' 0 19 + m.signExtend 19)
    (∀ p ∈ [(Instr.st8 d a m, 1), (Instr.st16 d a m, 2), (Instr.st32 d a m, 4), (Instr.st64 d a m, 8)], LocalAt s A p.2 →
      ∃ t, exec p.1 s = .next t ∧ memRead t.here.ls A.toNat p.2 = (s.rx d).toNat % 256 ^ p.2 ∧ StoredOnly s t A.toNat p.2 ∧
        t.here.empties = s.here.empties) ∧
    (LocalAt s A 32 → (∀ k < 4, s.here.reaches s.frame.ctx (A.toNat + 8 * k) = true) → (s.frame.ctx ≠ 0 ∨ 32 ≤ v.toNat) →
      ∃ t, exec (.stv v a m) s = .next t ∧ memRead t.here.ls A.toNat 32 = (s.rv v).toNat ∧ StoredOnly s t A.toNat 32 ∧
        t.here.empties = s.here.empties))
/-- R142: LDBIT gives the w bits from bit offset b of byte address a on, extended; STBIT replaces exactly those bits. -/
def Obligations.BitFieldAccess : Prop :=
  ∀ (s : State) (d a b : SReg) (wm1 : BitVec 6),
    let t22 : BitVec 22 := ((s.rx a).extractLsb' 0 19).setWidth 22 * 8 + (s.rx b).setWidth 22
    let W0 : DWord := (s.rx a).extractLsb' 19 45 ++ (t22.extractLsb' 6 16 ++ (0 : BitVec 3))
    let W1 : DWord := W0.extractLsb' 19 45 ++ (W0.extractLsb' 0 19 + 8)
    let p := (t22.extractLsb' 0 6).toNat
    let w := wm1.toNat + 1
    let two (c : Core) : BitVec 128 := c.word W1.toNat ++ c.word W0.toNat
    LocalAt s W0 8 → (64 < p + w → LocalAt s W1 8) →
    (∃ l v, exec (.ldbit d a b false wm1) s = .next ((useBanks s l).wx d v 1) ∧
      ∀ i < 64, v.getLsbD i = (decide (i < w) && (two s.here).getLsbD (p + i))) ∧
    (∃ l v, exec (.ldbit d a b true wm1) s = .next ((useBanks s l).wx d v 1) ∧
      ∀ i < 64, v.getLsbD i = (two s.here).getLsbD (p + min i (w - 1))) ∧
    (∃ t, exec (.stbit d a b wm1) s = .next t ∧
      (∀ i < 128, (two t.here).getLsbD i = if p ≤ i ∧ i < p + w then (s.rx d).getLsbD (i - p) else (two s.here).getLsbD i) ∧
      (p + w ≤ 64 → StoredOnly s t W0.toNat 8) ∧
      (∀ x, (x < W0.toNat ∨ W0.toNat + 8 ≤ x) → (x < W1.toNat ∨ W1.toNat + 8 ≤ x) → memGet t.here.ls x = memGet s.here.ls x) ∧
      t.here.empties = s.here.empties ∧ t.here.writes = s.here.writes ∧ ∀ m, t.here.ctx m = s.here.ctx m)
/-- R145, R146, R148, R149: LDF, LDFF, STE and STF at their word and its full/empty bit, and SIGW at a word's value; where the condition fails the context parks and nothing changes; FEBIT sets the full/empty bits of b words and leaves their data. -/
def Obligations.FullEmptyOperations : Prop :=
  (∀ (s : State) (d a : SReg) (m : BitVec 14),
    let A := (s.rx a).extractLsb' 19 45 ++ ((s.rx a).extractLsb' 0 19 + m.signExtend 19)
    LocalAt s A 8 →
    let n := A.toNat
    let full := s.here.full n
    (full = true →
      (∃ t : State, exec (.ldf d a m) s = .next (t.wx d (s.here.word n) 1) ∧ t.here.full n = false ∧ t.here.ls = s.here.ls ∧
        (∀ b, b / 8 ≠ n / 8 → t.here.full b = s.here.full b) ∧ t.here.writes = s.here.writes ∧ ∀ k, t.here.ctx k = s.here.ctx k) ∧
      (∃ l, exec (.ldff d a m) s = .next ((useBanks s l).wx d (s.here.word n) 1)) ∧
      ∃ t k, exec (.ste d a m) s = .next t ∧ Waits s t k ∧ k.kind = .retry ∧ k.a = A) ∧
    (full = false →
      (∃ t, exec (.ste d a m) s = .next t ∧ t.here.word n = s.rx d ∧ t.here.full n = true ∧ StoredOnly s t n 8) ∧
      (∃ t k, exec (.ldf d a m) s = .next t ∧ Waits s t k ∧ k.kind = .retry ∧ k.a = A) ∧
      ∃ t k, exec (.ldff d a m) s = .next t ∧ Waits s t k ∧ k.kind = .retry ∧ k.a = A) ∧
    ∃ t, exec (.stf d a m) s = .next t ∧ t.here.word n = s.rx d ∧ t.here.full n = true ∧ StoredOnly s t n 8) ∧
  (∀ (s : State) (d a b : SReg) (c : Cond),
    let A := s.rx a
    let n := (s.rx b).toNat
    (∀ f, Issues s → n ≤ 256 → A.toNat % 8 = 0 → A.toNat + 8 * n ≤ 0x80000 →
      (∀ k < n, s.here.reaches s.frame.ctx (A.toNat + 8 * k) = true) →
      ∃ t, exec (.febit a b f) s = .next t ∧ (∀ k < n, t.here.full (A.toNat + 8 * k) = f) ∧ t.here.ls = s.here.ls ∧
        (∀ x, (x < A.toNat ∨ A.toNat + 8 * n ≤ x) → t.here.full x = s.here.full x) ∧ t.here.writes = s.here.writes ∧
        (∀ k, t.here.ctx k = s.here.ctx k) ∧ ∀ p, p ≠ s.frame.core → t.core p = s.core p) ∧
    (LocalAt s A 8 →
      (condHolds c (s.here.word A.toNat) (s.rx b) = true →
        ∃ l, exec (.sigw d a b c) s = .next ((useBanks s l).wx d (s.here.word A.toNat) 1)) ∧
      (condHolds c (s.here.word A.toNat) (s.rx b) = false →
        ∃ t k, exec (.sigw d a b c) s = .next t ∧ Waits s t k ∧ k.kind = .retry ∧ k.a = A ∧ k.b = s.rx b)))
/-- R143, R144: LDGV gathers and STSV scatters lanes at EffAddr(a, idx shl SH) where every lane is allowed and aligned and no two lanes want different words of one bank; the higher lane wins. -/
def Obligations.GatherAndScatter : Prop :=
  ∀ (s : State) (v : VReg) (a : SReg) (b : VReg) (sz : GatherSize) (sh : BitVec 3),
    let size := (gatherShape sz).1
    let lanes := (gatherShape sz).2.1
    let A (j : Nat) : DWord := (s.rx a).extractLsb' 19 45 ++
      ((s.rx a).extractLsb' 0 19 + BitVec.ofNat 19 (laneOf (gatherShape sz).2.2 (s.rv b) j % 2 ^ 32 * 2 ^ sh.toNat))
    (∀ j < lanes, LocalAt s (A j) size) →
    (∀ i j, i < j → j < lanes → (A i).toNat / 8 ≠ (A j).toNat / 8 → bankOf (A i).toNat ≠ bankOf (A j).toNat) →
    (s.frame.ctx ≠ 0 → ∃ l x, exec (.ldgv v a b sz sh) s = .next ((useBanks s l).wv v x 1) ∧
      ∀ j < lanes, laneOf (8 * size) x j = memRead s.here.ls (A j).toNat size) ∧
    ((s.frame.ctx ≠ 0 ∨ 32 ≤ v.toNat ∧ 32 ≤ b.toNat) → ∃ t, exec (.stsv v a b sz sh) s = .next t ∧
      (∀ j < lanes, (∀ k, j < k → k < lanes → A k ≠ A j) → memRead t.here.ls (A j).toNat size = laneOf (8 * size) (s.rv v) j) ∧
      (∀ x, (∀ j < lanes, x < (A j).toNat ∨ (A j).toNat + size ≤ x) → memGet t.here.ls x = memGet s.here.ls x) ∧
      t.here.empties = s.here.empties ∧ t.here.writes = s.here.writes ∧ (∀ m, t.here.ctx m = s.here.ctx m) ∧
      ∀ p, p ≠ s.frame.core → t.core p = s.core p)
/-- R96, R132, R150, R151: a local atomic is held for the last cycle of its core turn, its destination owed, and at its issue nothing is written; there its new word and old value are the table's, at both widths, AFADD's the sum rounded to nearest of one FP32 or two BF16 lanes; a failed ACAS writes nothing, and every byte outside the word stays. One that meets a bank its launch has released, or an uncorrectable error, writes nothing and traps at the next issue turn (R239, R328). -/
def Obligations.LocalAtomics : Prop :=
  (∀ (s : State) (d a b : SReg) (w mx u bf : Bool) (op : LogOp),
    let n := if w then 4 else 8
    (∀ p ∈ [(Instr.aswp d a b w, n), (.acas d a b w, n), (.aadd d a b w, n), (.alog op d a b w, n), (.aminmax d a b mx u w, n),
        (.afadd d a b bf, 4)], LocalAt s (s.rx a) p.2 →
      ∃ t o, exec p.1 s = .next t ∧ t.here.turnOps = s.here.turnOps ++ [o] ∧ o.op = p.1 ∧ o.ctx = s.frame.ctx ∧
        o.a = s.rx a ∧ o.b = s.rx b ∧ (p.1 = .acas d a b w → o.c = s.rx d) ∧ o.issue = s.now ∧
        t.here.ls = s.here.ls ∧ (∀ k, t.here.ctx k = s.here.ctx k) ∧ (d = 0 → t.here.writes = s.here.writes) ∧
        (d ≠ 0 → t.here.writes = s.here.writes ++ [⟨xDest s.frame.ctx d, .word 0, s.frame.ctx, s.now, none, o.id, []⟩])) ∧
    ∀ (p : Nat) (o : TurnOp), isAtomic o.op = true →
      let r := (s.core p).atomic o.op (laddrOf o.a) o.b o.c
      ((s.core p).stopsAt o.ctx o.op (laddrOf o.a) o.b 0 = none →
        ∃ c : Core, s.performTurnOp p o = s.setCore p (c.settle o.id (.word r.2) (o.issue + 15)) ∧ c.ls = r.1.ls ∧
          c.writes = (s.core p).writes ∧ ∀ k, c.ctx k = (s.core p).ctx k) ∧
      ∀ e v, (s.core p).stopsAt o.ctx o.op (laddrOf o.a) o.b 0 = some (e, v) →
        let t := s.performTurnOp p o
        (t.core p).ls = (s.core p).ls ∧ (∀ w ∈ (t.core p).writes, w.id = o.id → w.due ≠ none) ∧
        (t.ctx p o.ctx).late = (s.ctx p o.ctx).late ++ [⟨.first o.slot o.addr, causeOf e, v, s.now⟩]) ∧
  (∀ (c : Core) (d a b : SReg) (at_ : Nat) (v cmp : DWord) (op : LogOp) (mx u : Bool),
    let old := c.word at_
    let old' : Word := BitVec.ofNat 32 (memRead c.ls at_ 4)
    let v' : Word := v.setWidth 32
    let is8 (i : Instr) (new : DWord) : Prop := (c.atomic i at_ v cmp).2 = old ∧ (c.atomic i at_ v cmp).1.word at_ = new
    let is4 (i : Instr) (new : Word) : Prop := (c.atomic i at_ v cmp).2 = old'.signExtend 64 ∧
      memRead (c.atomic i at_ v cmp).1.ls at_ 4 = new.toNat
    let lg {n : Nat} (x y : BitVec n) : BitVec n := match op with | .and => x &&& y | .or => x ||| y | .xor => x ^^^ y
    let best {n : Nat} (x y new : BitVec n) : Prop := (new = x ∨ new = y) ∧
      (u = true → mx = true → x.toNat ≤ new.toNat ∧ y.toNat ≤ new.toNat) ∧
      (u = true → mx = false → new.toNat ≤ x.toNat ∧ new.toNat ≤ y.toNat) ∧
      (u = false → mx = true → x.toInt ≤ new.toInt ∧ y.toInt ≤ new.toInt) ∧
      (u = false → mx = false → new.toInt ≤ x.toInt ∧ new.toInt ≤ y.toInt)
    let sum (ff : Ff) (k n : Nat) : Nat :=
      (ff.finish false .rne (numAdd .rne (ff.num (old'.toNat / 2 ^ k % 2 ^ n)) (ff.num (v'.toNat / 2 ^ k % 2 ^ n))).1).1
    is8 (.aswp d a b false) v ∧ is4 (.aswp d a b true) v' ∧
    is8 (.acas d a b false) (if old = cmp then v else old) ∧ is4 (.acas d a b true) (if old' = cmp.setWidth 32 then v' else old') ∧
    (old ≠ cmp → (c.atomic (.acas d a b false) at_ v cmp).1 = c) ∧
    (old' ≠ cmp.setWidth 32 → (c.atomic (.acas d a b true) at_ v cmp).1 = c) ∧
    is8 (.aadd d a b false) (old + v) ∧ is4 (.aadd d a b true) (old' + v') ∧
    is8 (.alog op d a b false) (lg old v) ∧ is4 (.alog op d a b true) (lg old' v') ∧
    (∃ new, is8 (.aminmax d a b mx u false) new ∧ best old v new) ∧ (∃ new, is4 (.aminmax d a b mx u true) new ∧ best old' v' new) ∧
    (∀ bf, (c.atomic (.afadd d a b bf) at_ v cmp).2 = old'.setWidth 64 ∧
      memRead (c.atomic (.afadd d a b bf) at_ v cmp).1.ls at_ 4 =
        (BitVec.ofNat 32 (if bf then sum ffBf16 0 16 + 65536 * sum ffBf16 16 16 else sum ffF32 0 32)).toNat) ∧
    ∀ bf w, ∀ i ∈ [Instr.aswp d a b w, .acas d a b w, .aadd d a b w, .alog op d a b w, .aminmax d a b mx u w, .afadd d a b bf],
      ∀ x, (x < at_ ∨ at_ + accessSize i ≤ x) → memGet (c.atomic i at_ v cmp).1.ls x = memGet c.ls x)
/-- R134: a non-relaxed access to a remote address parks the context; its request goes to the core that the address names, and its destinations are owed until the response. -/
def Obligations.RemoteAccessParks : Prop :=
  ∀ (s : State) (d a b : SReg) (v : VReg) (m : BitVec 14) (w mx u bf sx : Bool) (op : LogOp) (c : Cond) (wm1 : BitVec 6) (q : Nat),
    WorkerIssues s → hdrRx s.frame.hdr = false →
    let n := if w then 4 else 8
    let at_ (i : Instr) (A : DWord) (align : Nat) : Prop :=
      A.getLsbD 63 = true → A.getLsbD 62 = false → remoteForm A = true → s.here.target s.frame.ctx A = some q →
      laddrOf A < 0x70000 → laddrOf A % align = 0 →
      ∃ t k r, exec i s = .next t ∧ Waits s t k ∧ k.kind = .eddy ∧ k.id = s.ids ∧ k.op = i ∧ Sent s t r ∧
        r.id = s.ids ∧ r.dst = q ∧ r.src = s.frame.core ∧ r.laddr = laddrOf A ∧
        (∃ x y, r.body = .access i x y) ∧ s.now < r.due ∧
        (∀ e ∈ Instr.destsOf i s.frame.ctx, t.here.early (s.now + 1) e = true)
    let A := effImm (s.rx a) m
    let W := (bitWord (s.rx a) (s.rx b)).1
    (∀ i ∈ [Instr.ld8 d a m, .ld8z d a m, .st8 d a m], at_ i A 1) ∧
    (∀ i ∈ [Instr.ld16 d a m, .ld16z d a m, .st16 d a m], at_ i A 2) ∧
    (∀ i ∈ [Instr.ld32 d a m, .ld32z d a m, .st32 d a m], at_ i A 4) ∧
    (∀ i ∈ [Instr.ld64 d a m, .st64 d a m, .ldf d a m, .ldff d a m, .ste d a m, .stf d a m], at_ i A 8) ∧
    (∀ i ∈ [Instr.ldv v a m, .stv v a m], at_ i A 32) ∧ at_ (.sigw d a b c) (s.rx a) 8 ∧
    (∀ i ∈ [Instr.aswp d a b w, .acas d a b w, .aadd d a b w, .alog op d a b w, .aminmax d a b mx u w], at_ i (s.rx a) n) ∧
    at_ (.afadd d a b bf) (s.rx a) 4 ∧
    (laddrOf W + 8 < 0x70000 → at_ (.ldbit d a b sx wm1) W 8 ∧ at_ (.stbit d a b wm1) W 8)
/-- R135, R137, R138: a relaxed access is kept and its destination undefined until WAITM or FENCE; it does not park but where eight relaxed remote accesses are outstanding; WAITM and FENCE retire what has been performed, and park while anything is outstanding. Stated for relaxed LD64, ST64, LD8, ST32 and AADD. That relaxed local accesses which wait for one of its banks or, for a remote one, overlap it are performed at its issue, and that a remote one is held back while an overlapping access is still to be performed by another way than its own, is the model's reading (log 64). -/
def Obligations.RelaxedAccessAndFences : Prop :=
  (∀ (s : State) (d a b : SReg) (m : BitVec 14) (w : Bool),
    WorkerIssues s → hdrRx s.frame.hdr = true →
    ∀ p ∈ [(Instr.ld64 d a m, effImm (s.rx a) m, 8), (.st64 d a m, effImm (s.rx a) m, 8), (.ld8 d a m, effImm (s.rx a) m, 1),
        (.st32 d a m, effImm (s.rx a) m, 4), (.aadd d a b w, s.rx a, if w then 4 else 8)],
      let i := p.1
      let A := p.2.1
      let kept (t : State) (r : Relaxed) : Prop :=
        let c := s.here.performSome s.now s.frame.core s.frame.ctx fun q =>
          if r.remote then s.here.relaxedOverlap s.frame.core s.frame.ctx q r else q.banks.any fun b => r.banks.contains b
        exec i s = .next t ∧ t.cur.relaxed = (c.ctx s.frame.ctx).relaxed ++ [r] ∧ r.op = i ∧ r.a = A ∧
        r.performed = false ∧ t.here.ls = c.ls ∧
        ((∀ q ∈ s.cur.relaxed, q.remote = true ∨ q.performed = true) → c = s.here) ∧
        (∀ e ∈ Instr.destsOf i s.frame.ctx, t.here.early (s.now + 1) e = true)
      (A.toNat < 0x80000 → s.here.reaches s.frame.ctx A.toNat = true → A.toNat % p.2.2 = 0 →
        ∃ t r, kept t r ∧ r.remote = false ∧ t.cur.st = s.cur.st ∧ t.cur.parks = s.cur.parks ∧ t.packets = s.packets) ∧
      (∀ q, A.getLsbD 63 = true → A.getLsbD 62 = false → remoteForm A = true → s.here.target s.frame.ctx A = some q →
        laddrOf A < 0x70000 → laddrOf A % p.2.2 = 0 →
        (s.cur.outstanding < 8 → ∃ t r, kept t r ∧ r.remote = true ∧ t.cur.st = s.cur.st ∧ t.cur.parks = s.cur.parks ∧
          let c := s.here.performSome s.now s.frame.core s.frame.ctx fun q => s.here.relaxedOverlap s.frame.core s.frame.ctx q r
          r.held = c.relaxedHeld s.frame.core s.frame.ctx (c.ctx s.frame.ctx).relaxed r ∧
          (r.held = false → r.sent = true ∧ ∃ k, Sent s t k ∧ k.dst = q ∧ k.id = r.id) ∧
          (r.held = true → r.sent = false ∧ t.packets = s.packets)) ∧
        (8 ≤ s.cur.outstanding → ∃ t r k, kept t r ∧ r.remote = true ∧ r.sent = false ∧ r.held = false ∧ t.packets = s.packets ∧
          t.cur.st = parked s ∧ t.cur.parks = s.cur.parks ++ [k] ∧ k.kind = .relaxedFull))) ∧
  (∀ (s : State), Issues s → ∀ i ∈ [Instr.waitm, .fence .ctx, .fence .core, .fence .shore, .fence .die, .fence .pkg, .fence .sys],
    let u := s.onHere fun c => c.performAllRelaxed s.now s.frame.core s.frame.ctx
    let counts := s.stagedNow s.frame.core s.frame.ctx
    (s.cur.relaxed = [] → (i ∈ [Instr.fence .pkg, .fence .sys] → s.stagedOf counts = false) →
      ∃ t, exec i s = .next t ∧ t.cur.st = s.cur.st ∧ t.cur.parks = s.cur.parks ∧ t.cur.relaxed = [] ∧
        t.here.ls = s.here.ls ∧ t.here.writes = s.here.writes) ∧
    (u.fenceClear s.frame.core s.frame.ctx i counts = true → (∀ r ∈ u.cur.relaxed, r.refused = none) →
      ∃ t, exec i s = .next t ∧ t.cur.st = s.cur.st ∧ t.cur.parks = s.cur.parks ∧ t.cur.relaxed = [] ∧ t.here.ls = u.here.ls) ∧
    (u.fenceClear s.frame.core s.frame.ctx i counts = false →
      ∃ t k, exec i s = .next t ∧ t.cur.st = parked s ∧ t.cur.parks = s.cur.parks ++ [k] ∧ k.kind = .fence ∧ k.op = i ∧ k.counts = counts ∧
        t.here.ls = u.here.ls))
/-- R130: the order in which an address is checked, each failure with its cause and the address in TVAL. -/
def Obligations.AddressTraps : Prop :=
  ∀ (s : State) (d a : SReg) (m : BitVec 14), WorkerWhole s →
    let A := effImm (s.rx a) m
    let trap (i : Instr) (k : Nat) : Prop := exec i s = .next (s.issueTrap k A)
    ∀ p ∈ [(Instr.ld8 d a m, 1), (.ld8z d a m, 1), (.st8 d a m, 1), (.ld16 d a m, 2), (.ld16z d a m, 2), (.st16 d a m, 2),
        (.ld32 d a m, 4), (.ld32z d a m, 4), (.st32 d a m, 4), (.ld64 d a m, 8), (.st64 d a m, 8), (.ldf d a m, 8),
        (.ldff d a m, 8), (.ste d a m, 8), (.stf d a m, 8)],
      (A.getLsbD 63 = true → A.getLsbD 62 = true → trap p.1 4) ∧
      (A.getLsbD 63 = true → A.getLsbD 62 = false →
        (remoteForm A = false ∨ s.here.target s.frame.ctx A = none ∨ 0x70000 ≤ laddrOf A) → trap p.1 8) ∧
      (A.getLsbD 63 = true → A.getLsbD 62 = false → remoteForm A = true → s.here.target s.frame.ctx A ≠ none →
        laddrOf A < 0x70000 → laddrOf A % p.2 ≠ 0 → trap p.1 7) ∧
      (A.getLsbD 63 = false → (0x80000 ≤ A.toNat ∨ s.here.reaches s.frame.ctx A.toNat = false) → trap p.1 6) ∧
      (A.toNat < 0x80000 → s.here.reaches s.frame.ctx A.toNat = true → A.toNat % p.2 ≠ 0 → trap p.1 7)

/-! ## The V slot (R152 to R194) -/

namespace Sys2Proof.Claims
/-- Lane j of width w of a vector register: bits [w(j + 1) − 1 : wj] (R152). -/
def lane (w : Nat) (v : Vec) (j : Nat) : BitVec w := v.extractLsb' (w * j) w
/-- The operation answers the state in which d is written with latency `lat` and the operation is dispatched, without flags, where the written value has a property. -/
def GivesVector (i : Instr) (s : State) (d : VReg) (lat : Nat) (p : Vec → Prop) : Prop :=
  ∃ v, exec i s = .next ((s.dispatch false).wv d v lat) ∧ p v
/-- As GivesVector, with flags, which merge and may trap late (R179). -/
def GivesFloats (i : Instr) (s u : State) (d : VReg) (lat : Nat) (p : Vec → Fl → Prop) : Prop :=
  ∃ v fl, exec i s = .next (((u.dispatch false).wv d v lat).vectorFlags fl lat u.cur.vseqNext) ∧ p v fl
/-- The flags are the union of the lanes' flags. -/
def Union (n : Nat) (fl : Fl) (f : Nat → Fl) : Prop := ∀ k < 5, fl.getLsbD k = true ↔ ∃ j < n, (f j).getLsbD k = true
end Sys2Proof.Claims

/-- R77, R153 to R156: VADD, VSUB, VMUL, VFMA and VFMS round each lane's exact value once in the selected mode, SR with the lane's own draw; latency 1, or 2 with an addend; the flags of all lanes are merged. -/
def Obligations.VectorFloatResults : Prop :=
  ∀ (s : State) (t : FpTy) (d a b c : VReg) (m : Rmo), WorkerIssues s →
    let rm := (s.fcrNow.extractLsb' 0 3).toNat
    let ftz := s.fcrNow.getLsbD 3
    let num (v : VReg) (j : Nat) : Machine.Num := (ffOf t).num (lane t.width (s.rv v) j).toNat
    let gives (i : Instr) (mode : RMode) (lat : Nat) (f : Mode → Nat → Exact × Fl) : Prop :=
      let u := (s.forMode mode).2
      let seed := (s.forMode mode).1
      GivesFloats i s u d lat fun v fl =>
        (∀ j < t.lanes, (lane t.width v j).toNat = ((ffOf t).finish ftz (mode.at seed j) (f (mode.at seed j) j).1).1 % 2 ^ t.width) ∧
        Union t.lanes fl fun j => (f (mode.at seed j) j).2 ||| ((ffOf t).finish ftz (mode.at seed j) (f (mode.at seed j) j).1).2
    gives (.vadd t d a b m) (Rmo.mode rm m) 1 (fun md j => numAdd md (num a j) (num b j)) ∧
    gives (.vsub t d a b m) (Rmo.mode rm m) 1 (fun md j => numAdd md (num a j) (num b j).neg) ∧
    gives (.vmul t d a b m) (Rmo.mode rm m) 1 (fun _ j => ((numMul (num a j) (num b j)).1.exact, (numMul (num a j) (num b j)).2)) ∧
    gives (.vfma t d a b c) (rmMode rm) 2 (fun md j => numFma md false false (num a j) (num b j) (num c j)) ∧
    gives (.vfms t d a b c) (rmMode rm) 2 (fun md j => numFma md false true (num a j) (num b j) (num c j))
/-- R115, R117, R157, R158, R174 to R178: lane minima, maxima, signs and comparisons; reductions over the tree; dot products; and the functions of VSFU, each with its latency: the special inputs of R177 have its results and flags, and any other result is the model's free function of the input, held within the bound of R176 (log 8); what a subnormal or zero result raises there, and that an exact one is flushed, is the model's reading (log 59). -/
def Obligations.VectorCompareReduceResults : Prop :=
  (∀ (s : State) (t : FpTy) (d a b c : VReg), WorkerIssues s →
    let ff := ffOf t
    let x (v : VReg) (j : Nat) : Nat := (lane t.width (s.rv v) j).toNat
    let ftz := s.fcrNow.getLsbD 3
    let each (i : Instr) (lat : Nat) (f : Nat → Nat × Fl) : Prop :=
      GivesFloats i s s d lat fun v fl => (∀ j < t.lanes, (lane t.width v j).toNat = (f j).1 % 2 ^ t.width) ∧
        Union t.lanes fl fun j => (f j).2
    each (.vmin t d a b) 1 (fun j => ff.minmax false (x a j) (x b j)) ∧
    each (.vmax t d a b) 1 (fun j => ff.minmax true (x a j) (x b j)) ∧
    (∀ c, each (.vcmp c t d a b) 1 fun j =>
      (if (numCond c (ff.num (x a j)) (ff.num (x b j))).1 then 2 ^ t.width - 1 else 0, (numCond c (ff.num (x a j)) (ff.num (x b j))).2)) ∧
    (∀ op, GivesFloats (.vabsn op t d a) s s d 1 fun v _ => ∀ j < t.lanes,
      ((ff.num (x a j)).isNan = true → (lane t.width v j).toNat = ff.nan) ∧
      ((ff.num (x a j)).isNan = false → ∀ k < t.width, (lane t.width v j).getLsbD k =
        if k = t.width - 1 then (match op with | .abs => false | .neg => !(lane t.width (s.rv a) j).getLsbD k | .nabs => true)
        else (lane t.width (s.rv a) j).getLsbD k)) ∧
    (∀ op ty,
      let w := redWidth ty
      let r := tree (redNode op ty ftz (s.rmoNow .fcr).noSr) (Nat.log2 (256 / w)) ((upTo (256 / w)).map fun j => (lane w (s.rv a) j).toNat)
      exec (.vred op ty (.vec d) a) s = .next (((s.dispatch false).wv d (BitVec.ofNat 256 r.1) 3).vectorFlags r.2 3 s.cur.vseqNext) ∧
      ∀ e, exec (.vred op ty (.scalar e) a) s =
        .next (((s.dispatch false).wx e (BitVec.ofNat 64 r.1) 3).vectorFlags r.2 3 s.cur.vseqNext)) ∧
    (∀ fn, each (.vsfu fn t d a) 4 fun j => sfuLane fn t ftz (x a j)) ∧
    ∀ f, ∃ g, exec (.vdot f d a b c) s = .next (s.fpLanes .f32 (s.rmoNow .fcr) d 2 g) ∧
      ∀ m j, g m j = (let sp := sumProducts (Sum.empty.add (ffF32.num (lane 32 (s.rv c) j).toNat)) ((upTo 4).map fun k =>
          (fmtNum (dotFmts f).1 (lane 8 (s.rv a) (4 * j + k)).toNat, fmtNum (dotFmts f).2 (lane 8 (s.rv b) (4 * j + k)).toNat))
        ((sp.1.exact m).1, sp.2 ||| (sp.1.exact m).2 ||| sigFlag [ffF32.num (lane 32 (s.rv c) j).toNat]))) ∧
  ∀ (ftz : Bool) (x k : Nat), x < 2 ^ 32 →
    let f (fn : SfuFn) : Nat × Fl := sfuLane fn .f32 ftz x
    let m := x % 2 ^ 31
    let sign := x - m
    (∀ fn, 0x7F800000 < m → f fn = (0x7FC00000, if m < 0x7FC00000 then 16 else 0)) ∧
    (x = 0xFF800000 → f .exp2 = (0, 0)) ∧ (x = 0x7F800000 → f .exp2 = (0x7F800000, 0)) ∧ (m = 0 → f .exp2 = (0x3F800000, 0)) ∧
    (0x43000000 ≤ x → x < 0x7F800000 → f .exp2 = (0x7F800000, 5)) ∧ (0xC3160000 < x → x < 0xFF800000 → f .exp2 = (0, 3)) ∧
    (1 ≤ k → k ≤ 127 → x = (ffF32.ofInt false .rne k).1 → f .exp2 = ((127 + k) * 2 ^ 23, 0)) ∧
    (1 ≤ k → k ≤ 126 → x = (ffF32.ofInt false .rne (-k)).1 → f .exp2 = ((127 - k) * 2 ^ 23, 0)) ∧
    (m = 0 → f .log2 = (0xFF800000, 8)) ∧ (0x80000000 < x → x ≤ 0xFF800000 → f .log2 = (0x7FC00000, 16)) ∧
    (x = 0x7F800000 → f .log2 = (0x7F800000, 0)) ∧
    (1 ≤ k → k ≤ 254 → x = k * 2 ^ 23 → f .log2 = ((ffF32.ofInt false .rne ((k : Int) - 127)).1, 0)) ∧
    (m = 0 → f .rcp = (sign + 0x7F800000, 8)) ∧ (m = 0x7F800000 → f .rcp = (sign, 0)) ∧
    (1 ≤ k → k ≤ 253 → m = k * 2 ^ 23 → f .rcp = (sign + (254 - k) * 2 ^ 23, 0)) ∧
    (1 ≤ m → m ≤ 0x00200000 → f .rcp = (sign + 0x7F800000, 5)) ∧
    (m = 0 → f .rsqrt = (sign + 0x7F800000, 8)) ∧ (0x80000000 < x → x ≤ 0xFF800000 → f .rsqrt = (0x7FC00000, 16)) ∧
    (x = 0x7F800000 → f .rsqrt = (0, 0)) ∧
    (1 ≤ k → k ≤ 254 → k % 2 = 1 → x = k * 2 ^ 23 → f .rsqrt = ((190 - (k - 1) / 2) * 2 ^ 23, 0)) ∧
    (x = 0xFF800000 → f .sigmoid = (0, 0)) ∧ (x = 0x7F800000 → f .sigmoid = (0x3F800000, 0)) ∧ (m = 0 → f .sigmoid = (0x3F000000, 0)) ∧
    (m = 0x7F800000 → f .tanh = (sign + 0x3F800000, 0)) ∧ (m = 0 → f .tanh = (sign, 0))
/-- R159 to R165: the integer lane operations, lane by lane: modular and saturating sums and differences, products, logic, shifts, comparisons, counts and saturating narrowing, all of latency 1 and without flags. -/
def Obligations.VectorIntegerResults : Prop :=
  ∀ (s : State) (t : IntTy) (d a b c : VReg), WorkerIssues s →
    let w := t.width
    let x (v : VReg) (j : Nat) : BitVec w := lane w (s.rv v) j
    let each (i : Instr) (p : Nat → BitVec w → Prop) : Prop := GivesVector i s d 1 fun v => ∀ j < t.lanes, p j (lane w v j)
    let clamp (lo hi n : Int) : Int := max lo (min hi n)
    each (.viadd t .wrap d a b) (fun j r => r = x a j + x b j) ∧
    each (.visub t .wrap d a b) (fun j r => r = x a j - x b j) ∧
    each (.viadd t .signed d a b) (fun j r => r.toInt = clamp (-(2 ^ (w - 1))) (2 ^ (w - 1) - 1) ((x a j).toInt + (x b j).toInt)) ∧
    each (.visub t .signed d a b) (fun j r => r.toInt = clamp (-(2 ^ (w - 1))) (2 ^ (w - 1) - 1) ((x a j).toInt - (x b j).toInt)) ∧
    each (.viadd t .natural d a b) (fun j r => r.toNat = min (2 ^ w - 1) ((x a j).toNat + (x b j).toNat)) ∧
    each (.visub t .natural d a b) (fun j r => r.toNat = (x a j).toNat - (x b j).toNat) ∧
    each (.vimul t .low d a b) (fun j r => r = x a j * x b j) ∧
    each (.vimul t .hiSigned d a b) (fun j r => r = ((x a j).signExtend (2 * w) * (x b j).signExtend (2 * w)).extractLsb' w w) ∧
    each (.vimul t .hiNatural d a b) (fun j r => r = ((x a j).setWidth (2 * w) * (x b j).setWidth (2 * w)).extractLsb' w w) ∧
    each (.vimad t d a b c) (fun j r => r = x a j * x b j + x c j) ∧
    (∀ inv : Bool,
      let y := if inv then ~~~(s.rv b) else s.rv b
      GivesVector (.vand d a b inv) s d 1 (· = s.rv a &&& y) ∧ GivesVector (.vor d a b inv) s d 1 (· = s.rv a ||| y) ∧
      GivesVector (.vxor d a b inv) s d 1 (· = s.rv a ^^^ y)) ∧
    each (.vshl t d a (.lanes b)) (fun j r => r = x a j <<< ((x b j).toNat % w)) ∧
    each (.vshr t d a (.lanes b)) (fun j r => r = x a j >>> ((x b j).toNat % w)) ∧
    each (.vsar t d a (.lanes b)) (fun j r => r = (x a j).sshiftRight ((x b j).toNat % w)) ∧
    (∀ n : BitVec 6, n.toNat < w → each (.vshl t d a (.imm n)) (fun j r => r = x a j <<< n.toNat) ∧
      each (.vshr t d a (.imm n)) (fun j r => r = x a j >>> n.toNat) ∧
      each (.vsar t d a (.imm n)) (fun j r => r = (x a j).sshiftRight n.toNat)) ∧
    (∀ k, each (.vicmp k t d a b) fun j r => r = if condHolds k (x a j) (x b j) then BitVec.allOnes w else 0) ∧
    each (.vbitc .pop t d a) (fun j r => r.toNat = ((List.range w).filter fun i => (x a j).getLsbD i).length) ∧
    (∀ k ∈ [BitKind.clz, .ctz], each (.vbitc k t d a) fun j r => r.toNat = bitCount k (x a j)) ∧
    ∀ nt : NarrowTy,
      let n := nt.width
      let src (j : Nat) : BitVec (2 * n) := if j < 256 / n / 2 then lane (2 * n) (s.rv a) j else lane (2 * n) (s.rv b) (j - 256 / n / 2)
      GivesVector (.vsatn nt .signed d a b) s d 1 (fun v => ∀ j < 256 / n,
        (lane n v j).toInt = clamp (-(2 ^ (n - 1))) (2 ^ (n - 1) - 1) (src j).toInt) ∧
      GivesVector (.vsatn nt .signedToNatural d a b) s d 1 (fun v => ∀ j < 256 / n,
        ((lane n v j).toNat : Int) = clamp 0 (2 ^ n - 1) (src j).toInt) ∧
      GivesVector (.vsatn nt .natural d a b) s d 1 fun v => ∀ j < 256 / n, (lane n v j).toNat = min (2 ^ n - 1) (src j).toNat
/-- R166 to R173, R194: selection, permutation, broadcast, extraction, insertion, index and mask operations, byte by byte and lane by lane. -/
def Obligations.VectorPermuteResults : Prop :=
  ∀ (s : State) (t : IntTy) (d a b c : VReg) (e f : SReg) (q : PReg), WorkerIssues s →
    let w := t.width
    let x (v : VReg) (j : Nat) : BitVec 8 := lane 8 (s.rv v) j
    let pair (k : Nat) : BitVec 8 := if k < 32 then x a k else x b (k - 32)
    let bytes (i : Instr) (lat : Nat) (g : Nat → BitVec 8) : Prop := GivesVector i s d lat fun v => ∀ j < 32, lane 8 v j = g j
    let each (i : Instr) (g : Nat → BitVec w) : Prop := GivesVector i s d 1 fun v => ∀ j < t.lanes, lane w v j = g j
    let sets (v : VReg) (j : Nat) : Bool := (lane w (s.rv v) j).msb
    GivesVector (.vsel d a b c) s d 1 (fun v => ∀ k < 256, v.getLsbD k = if (s.rv c).getLsbD k then (s.rv a).getLsbD k else (s.rv b).getLsbD k) ∧
    (∀ upper hi : Bool, bytes (.vpermb d a b upper hi) 2 fun j =>
      x a ((if upper then 16 else 0) + if hi then (x b j).toNat / 16 else (x b j).toNat % 16)) ∧
    bytes (.vshuf d a b c) 2 (fun j => if (x c j).msb then 0 else pair ((x c j).toNat % 64)) ∧
    (∀ n : BitVec 6, n.toNat ≤ t.lanes → bytes (.vslide t d a b n) 1 fun j => pair (j + n.toNat * (w / 8))) ∧
    each (.vbcast t d (.scalar e)) (fun _ => (s.rx e).setWidth w) ∧
    (∀ i : BitVec 5, i.toNat < t.lanes → each (.vbcast t d (.lane a i)) fun _ => lane w (s.rv a) i.toNat) ∧
    (∀ i : BitVec 5, i.toNat < t.lanes →
      exec (.vext t e a (.imm i)) s = .next ((s.dispatch false).wx e ((lane w (s.rv a) i.toNat).setWidth 64) 1) ∧
      each (.vins t d e (.imm i)) fun j => if j = i.toNat then (s.rx e).setWidth w else lane w (s.rv d) j) ∧
    (let i := (s.rx f).toNat % t.lanes
     exec (.vext t e a (.reg f)) s = .next ((s.dispatch false).wx e ((lane w (s.rv a) i).setWidth 64) 1) ∧
      each (.vins t d e (.reg f)) fun j => if j = i then (s.rx e).setWidth w else lane w (s.rv d) j) ∧
    each (.viota t d e f) (fun j => (s.rx e).setWidth w + BitVec.ofNat w j * (s.rx f).setWidth w) ∧
    exec (.vmaskq t (.any q) a) s = .next ((s.dispatch false).wq q ((List.range t.lanes).any (sets a)) 1) ∧
    exec (.vmaskq t (.all q) a) s = .next ((s.dispatch false).wq q ((List.range t.lanes).all (sets a)) 1) ∧
    (∃ v, exec (.vmaskq t (.bits e) a) s = .next ((s.dispatch false).wx e v 1) ∧
      ∀ j < 64, v.getLsbD j = (decide (j < t.lanes) && sets a j)) ∧
    GivesVector (.vpack false d a) s d 1 (fun v => (∀ i < 32, lane 6 v i = (x a i).setWidth 6) ∧ ∀ k, 192 ≤ k → v.getLsbD k = false) ∧
    GivesVector (.vpack true d a) s d 1 (fun v => (∀ i < 32, lane 4 v i = (x a i).setWidth 4) ∧ ∀ k, 128 ≤ k → v.getLsbD k = false) ∧
    GivesVector (.vunpk false d a) s d 1 (fun v => ∀ i < 32, lane 8 v i = (lane 6 (s.rv a) i).setWidth 8) ∧
    GivesVector (.vunpk true d a) s d 1 fun v => ∀ i < 32, lane 8 v i = (lane 4 (s.rv a) i).setWidth 8
/-- R82, R92 to R95, R182 to R193: conversions between formats, quantisation with its block scale, rescaling, compression and random lanes. -/
def Obligations.VectorConversionResults : Prop :=
  ∀ (s : State) (t : FpTy) (d a : VReg) (c : SReg), WorkerIssues s →
    let w := t.width
    let ftz := s.fcrNow.getLsbD 3
    let x (j : Nat) : Nat := (lane w (s.rv a) j).toNat
    (∀ (o : Fmt) (pos : BitVec 2) (sat : Bool) (m : Rmo), (pos.toNat + 1) * t.lanes * unitWidth o ≤ 256 →
      let n := t.lanes
      let k := unitWidth o
      let rm (into : Bool) : RMode := if vcvtExact t o into then .rne else s.rmoNow m
      let at_ (into : Bool) (j : Nat) : Mode := (rm into).at (s.forMode (rm into)).1 j
      GivesFloats (.vcvt t o true pos sat m d a) s (s.forMode (rm true)).2 d 2 (fun v _ => ∀ j < n,
        (lane w v j).toNat = ((ffOf t).convert ftz (at_ true j) (fmtNum o (lane k (s.rv a) (pos.toNat * n + j)).toNat)).1 % 2 ^ w) ∧
      GivesFloats (.vcvt t o false pos sat m d a) s (s.forMode (rm false)).2 d 2 fun v _ =>
        (∀ j < n, (lane k v (pos.toNat * n + j)).toNat = (convertTo o sat ftz (at_ false j) ((ffOf t).num (x j))).1 % 2 ^ k) ∧
        ∀ j < 256 / k, (j < pos.toNat * n ∨ pos.toNat * n + n ≤ j) → lane k v j = lane k (s.rv d) j) ∧
    (∀ (u : Bool) (m : Rmo),
      let rm := s.rmoNow m
      let at_ (j : Nat) : Mode := rm.at (s.forMode rm).1 j
      GivesFloats (.vcvti t true u m d a) s (s.forMode rm).2 d 2 (fun v _ => ∀ j < t.lanes,
        (lane w v j).toNat = ((ffOf t).ofInt ftz (at_ j) (if u then (x j : Int) else (lane w (s.rv a) j).toInt)).1 % 2 ^ w) ∧
      GivesFloats (.vcvti t false u m d a) s (s.forMode rm).2 d 2 fun v _ => ∀ j < t.lanes,
        lane w v j = BitVec.ofInt w (numToInt (at_ j) (!u) w ((ffOf t).num (x j))).1) ∧
    (∃ v, exec (.vrng false d) s = .next ((((s.seedTo s.seedStep).dispatch false).wv d v 1)) ∧ ∀ i < 4, lane 64 v i = srMix s.seedStep i) ∧
    (∃ v, exec (.vrng true d) s = .next ((((s.seedTo s.seedStep).dispatch false).wv d v 1)) ∧
      ∀ j < 8, lane 32 v j = BitVec.ofNat 32 (ffF32.pack false ((srMix s.seedStep j).extractLsb' 40 24).toNat (-24))) ∧
    (∀ (f : Fmt) (sf : ScaleFmt) (r : QRnd), f.isElem = true →
      let l := s.quantBlock a
      let code := quantScale f sf l
      (quantInvalid f l = true → exec (.vqmx f sf r d a c) s =
        .next ((((((s.forMode (s.quantMode r)).2).dispatch false).wv d 0 3).vectorFlags 16 3 (s.forMode (s.quantMode r)).2.cur.vseqNext).wx c
          (BitVec.ofNat 64 (code + 2 ^ 63)) 3)) ∧
      (quantInvalid f l = false → ∃ v fl, exec (.vqmx f sf r d a c) s =
        .next ((((((s.forMode (s.quantMode r)).2).dispatch false).wv d v 3).vectorFlags fl 3 (s.forMode (s.quantMode r)).2.cur.vseqNext).wx c
          (BitVec.ofNat 64 code) 3) ∧
        ∀ i < 32, (lane f.width v i).toNat = (quantElem f ((s.quantMode r).at (s.forMode (s.quantMode r)).1 i)
          ((scaleNum sf code).getD (1, 0)) (nthD (.nan false) l i)).1 % 2 ^ f.width)) ∧
    (∀ (f : Fmt) (sf : ScaleFmt) (pos : BitVec 2), exec (.vdqmx t f sf pos d a c) s =
      .next (s.fpLanes t (s.rmoNow .fcr) d 1 fun _ j =>
        ((timesScale (fmtNum f (denseElem f (s.rv a) (pos.toNat * t.lanes + j))) (scaleNum sf (s.rx c).toNat)).exact, 0))) ∧
    (∀ (sf : ScaleFmt) (m : Rmo), exec (.vscl t sf false m d a c) s =
      .next (s.fpLanes t (s.rmoNow m) d 1 fun _ j =>
        ((timesScale (laneNum t (s.rv a) j) (scaleNum sf (s.rx c).toNat)).exact, sigFlag [laneNum t (s.rv a) j])) ∧
      exec (.vscl t sf true m d a c) s = .next (s.fpLanes t (s.rmoNow m) d 1 fun _ j =>
        ((timesScale (timesScale (laneNum t (s.rv a) j) (scaleNum sf (s.rx c).toNat)) (scaleNum sf ((s.rx c).toNat / 2 ^ 32))).exact,
          sigFlag [laneNum t (s.rv a) j]))) ∧
    ∀ (k : CmprKind) (pos : Bool), ∃ v m, exec (.vcmpr k pos d a c) s = .next (((s.dispatch false).wv d v 3).wx c m 3) ∧
      let n := 256 / cmprWidth k
      let num (i : Nat) : Machine.Num := cmprNum k (lane (cmprWidth k) (s.rv a) i).toNat
      let first := if pos then n / 2 else 0
      let canon (i : Nat) : BitVec (cmprWidth k) := BitVec.ofNat _ (canonElem k (lane (cmprWidth k) (s.rv a) i).toNat)
      ∀ g < n / 4,
        let p := keptLanes ((upTo 4).map fun i => num (4 * g + i))
        p.1 < p.2 ∧ p.2 < 4 ∧ (m.extractLsb' (4 * g) 4).toNat = 4 * p.2 + p.1 ∧
        lane (cmprWidth k) v (first + 2 * g) = canon (4 * g + p.1) ∧ lane (cmprWidth k) v (first + 2 * g + 1) = canon (4 * g + p.2)

/-! ## The matrix unit (R16, R195 to R213) -/

/-- R195, R210, R211, R225: an M command whose checks pass is dispatched and enters the queue and the hazard table with the regions R211 gives it, or waits outside in PARK where the queue or the table has no room or a command of its context waits that issued before its bundle, its regions entering the table at once if that has room; MSYNC parks exactly while a command of its context is unfinished. -/
def Obligations.MatrixCommandsAreQueued : Prop :=
  ∀ (s : State) (m : Acc) (t : Tiles) (a b : SReg) (q : BitVec 2) (f g z : Bool) (o : MemFmt) (v : BitVec 5) (n : BitVec 4) (st : Start),
    WorkerIssues s →
    (∀ i ∈ [Instr.mma m t st, .mmas m t st, .mmaz m t st, .mclr m st, .mrd m a b q f o st, .mwr m a b q g o st, .mrdv m a v st,
        .mscl m a f st, .mtrn m st, .mseq m t z n st],
      let r := s.mOperands i
      let regions := (matrixRegions i r.1 r.2.1 r.2.2).map fun r => (⟨laddrOf r.1, r.2.1, r.2.2⟩ : Region)
      let own := if regions = [] then [] else regions ++ s.cur.foot.map (·.1)
      let room := s.here.mq.length < 16 ∧ s.here.hazardRoom regions.length = true ∧ NoneBefore s s.here
      s.matrixCheck i r.1 r.2.1 r.2.2 = none →
      let command (k : Cmd) : Prop := k.op = i ∧ k.ctx = s.frame.ctx ∧ k.a = r.1 ∧ k.b = r.2.1 ∧ k.c = r.2.2 ∧ k.foot = own ∧
        k.issue = s.now ∧ k.seq = s.cur.vseqNext ∧ k.started = none ∧ k.id = s.ids ∧ k.order = s.here.cmdOrder ∧ k.fcr = s.cur.fcr ∧
        k.reserved = (if regions = [] then 0 else s.cur.foot.length)
      (room → ∃ (t : State) (k : Cmd), exec i s = .next t ∧ command k ∧ t.here.mq = s.here.mq ++ [k] ∧
        t.here.hazards = s.here.hazards ++ own.map (fun r => ⟨k.id, k.order, k.order + 1, r⟩) ∧ t.here.mwait = s.here.mwait ∧
        t.cur.st = s.cur.st ∧ t.cur.parks = s.cur.parks ∧ t.cur.vseqNext = s.cur.vseqNext + 1 ∧
        t.here.ls = s.here.ls ∧ t.here.accs = s.here.accs ∧ t.here.empties = s.here.empties ∧
        ∀ e ∈ Instr.destsOf i s.frame.ctx, t.here.early (s.now + 1) e = true) ∧
      (¬ room → ∃ (t : State) (k : Cmd) (w : Park), exec i s = .next t ∧ command k ∧ t.here.mq = s.here.mq ∧
        (∃ c : Core, c.hazards = s.here.hazards ∧ c.mwait = s.here.mwait ++ [k] ∧ c.ewait = s.here.ewait ∧
          (c.ctx s.frame.ctx).foot = (if regions = [] then s.cur.foot else []) ∧
          (∀ n, n ≠ s.frame.ctx → c.ctx n = s.here.ctx n) ∧ t.here.hazards = (c.tryEnter k).hazards) ∧
        t.here.mwait = s.here.mwait ++ [k] ∧ Waits s t w ∧ w.kind = .queueFull ∧ w.id = k.id ∧
        t.here.accs = s.here.accs)) ∧
    (s.here.msyncWaits s.frame.ctx s.ids s.now = false → exec .msync s = .next (s.dispatch true)) ∧
    (s.here.msyncWaits s.frame.ctx s.ids s.now = true →
      ∃ t k, exec .msync s = .next t ∧ Waits s t k ∧ k.kind = .msync ∧ t.here.mq = s.here.mq)
/-- R203 to R209: what a matrix command does to its accumulator, to the local store and to its register, with the words it reads given by a function of their address and of the element read, MWR's by one of the row alone (R133, R291); MRD's words are stored at the end of its write cycle, after its other stores (R211); nothing else of its core changes. That a NaN beside infinities of both signs raises NV within one sum, and that an infinity absorbed by a NaN of its own sum raises none in a later one, is the model's reading (log 66). -/
def Obligations.MatrixCommandResults : Prop :=
  ∀ (c : Core) (now : Nat) (k : Cmd) (rd : Reader) (m : Acc) (t : Tiles) (a b : SReg) (q : BitVec 2) (f : Bool) (o : MemFmt)
    (n : BitVec 4) (st : Start),
    let M := m.toNat
    let d := (c.mEffect now k rd).1
    let A := laddrOf k.a
    let B := laddrOf k.b
    let S := laddrOf k.c
    let row (sparse : Bool) (z : TileSizes) (i j : Nat) (old : Machine.Num) : Word :=
      BitVec.ofNat 32 (mmaElem rd t z (aRow rd t z sparse A i j) (fun bl => scaleEntry (rd (readKey i j bl 2)) t S (64 * bl + i)) B S i j old).1
    let all (g : Nat → Nat → Word) : Prop := ∀ i < 64, ∀ j < 32, d.acc M i j = g i j
    (k.op = .mma m t st → all fun i j => row false (tileSizes t false) i j (c.accNum M i j)) ∧
    (k.op = .mmaz m t st → all fun i j => row false (tileSizes t false) i j (.fin false 0 0)) ∧
    (k.op = .mmas m t st → all fun i j => row true (tileSizes t true) i j (c.accNum M i j)) ∧
    (k.op = .mseq m t f n st → k.step = 0 →
      all fun i j => row false (tileSizes t false) i j (if f then .fin false 0 0 else c.accNum M i j)) ∧
    (k.op = .mclr m st → ∀ i j, d.acc M i j = 0) ∧
    (k.op = .mtrn m st → all fun i j => c.acc M (32 * (i / 32) + j) (i % 32)) ∧
    (k.op = .mscl m a f st → all fun i j => BitVec.ofNat 32
      (sclElem (c.accNum M i j) (ffF32.num (if f then bitsAt (rd i) (8 * (A + 4 * i)) 32 else k.a.toNat % 2 ^ 32))).1) ∧
    (k.op = .mwr m a b q f o st → all fun i j => if 16 * q.toNat ≤ i ∧ i < 16 * q.toNat + 16 then
        BitVec.ofNat 32 (mwrNew o f (c.accNum M i j)
          (bitsAt (rd (readKey (i - 16 * q.toNat) 0 0 0)) (8 * (A + (i - 16 * q.toNat) * pitchOf o k.b + memBytes_ o * j)) (8 * memBytes_ o))).1
      else c.acc M i j) ∧
    (k.op = .mrd m a b q f o st → c.mwrites = [] → A + 15 * pitchOf o k.b + rowBytes o ≤ 0x70000 → rowBytes o ≤ pitchOf o k.b →
      let e := d.mwrites.foldl (fun c w => c.storeBytes w.1 8 w.2.toNat) d
      d.ls = c.ls ∧ (∀ r < 16, ∀ j < 32, memRead e.ls (A + r * pitchOf o k.b + memBytes_ o * j) (memBytes_ o) =
        (mrdElem o (c.acc M (16 * q.toNat + r) j)).1 % 256 ^ memBytes_ o) ∧
      (∀ x, (∀ r < 16, x < A + r * pitchOf o k.b ∨ A + r * pitchOf o k.b + rowBytes o ≤ x) → memGet e.ls x = memGet c.ls x) ∧
      all fun i j => if f = true ∧ 16 * q.toNat ≤ i ∧ i < 16 * q.toNat + 16 then 0 else c.acc M i j) ∧
    ((∀ i ∈ [Instr.mma m t st, .mmaz m t st, .mmas m t st, .mseq m t f n st, .mclr m st, .mtrn m st, .mscl m a f st, .mwr m a b q f o st],
        k.op = i → d.ls = c.ls ∧ d.writes = c.writes) ∧
      (∀ i ∈ [Instr.mma m t st, .mmaz m t st, .mmas m t st, .mseq m t f n st, .mclr m st, .mtrn m st, .mscl m a f st,
          .mwr m a b q f o st, .mrd m a b q f o st], k.op = i → (∀ x, d.ctx x = c.ctx x) ∧ d.empties = c.empties ∧
        ∀ M' i j, M' ≠ M → d.acc M' i j = c.acc M' i j)) ∧
    ∀ (v : BitVec 5) (w : Write), k.op = .mrdv m a v st → w ∈ c.writes → w.id = k.id → w.due = none → w.dst = .v k.ctx v →
      d.accs = c.accs ∧ d.ls = c.ls ∧ ∃ w' ∈ d.writes, ∃ x : Vec, w' = { w with val := .vec x, due := w'.due } ∧
        w'.due = some (max (k.started.getD now + 31) now) ∧
        ∀ l < 8, lane 32 x l = c.acc M (k.a.toNat % 64) (8 * (k.a.toNat / 64 % 4) + l)
/-- R16, R51, R195 to R197, R204, R212: a waiting command enters when there is room; the command whose turn it is starts and keeps the unit for its occupancy; a command whose accumulator is not claimed, or whose tide-locked start is refused, leaves with a late fault; at its end it has its effect and releases its regions. That a refused MSEQ's earlier flags are merged as at the end of its last performed step is the model's reading (log 19). -/
def Obligations.MatrixUnitEvents : Prop :=
  ∀ (s : State) (p : Nat) (k : Cmd),
    let c := s.core p
    (c.firstWaiting k.ctx true = some k →
      ∃ t, exec (.matrixQueueEnter p k.ctx) s = .next t ∧ (t.core p).hazards = (c.tryEnter k).hazards ∧ (t.core p).accs = c.accs ∧
        (t.core p).ls = c.ls ∧
        (c.mq.length < 16 → (c.tryEnter k).entered k = true → (t.core p).mq = c.mq ++ [k] ∧
          (t.core p).mwait = c.mwait.filter (·.id != k.id) ∧ ∀ w ∈ (t.ctx p k.ctx).parks, w.id = k.id → w.ended ≠ .waiting) ∧
        (16 ≤ c.mq.length ∨ (c.tryEnter k).entered k = false → (t.core p).mq = c.mq ∧ (t.core p).mwait = c.mwait)) ∧
    (c.entered k = false → c.roomFor k = true → (∀ w ∈ c.mwait ++ c.ewait, w.ctx = k.ctx → w.order < k.order →
        w.saved = true ∨ w.issue ≠ k.issue → c.entered w = true) →
      (c.tryEnter k).hazards = c.hazards ++ k.foot.map (fun r => ⟨k.id, k.order, c.cmdOrder, r⟩)) ∧
    (cmdOf c.mq k.id = some k → (c.timedWinner s.now = some k ∨ c.freeWinner s.now = some k) →
      (c.notPerformable k = none → ∃ t k', exec (.matrixCommandStart p k.id) s = .next t ∧
        (t.core p).mq = c.mq.filter (·.id != k.id) ∧ k' ∈ (t.core p).mflight ∧ k'.id = k.id ∧ k'.op = k.op ∧ k'.started = some s.now ∧
        s.now < k'.until_ ∧ k'.until_ ≤ s.now + c.occupancy k - 1 ∧ (t.core p).munit = s.now + c.occupancy k ∧
        (t.core p).accs = c.accs ∧ (t.core p).ls = c.ls) ∧
      ((accOf k.op, k.ctx) ∉ c.claims → exec (.matrixCommandStart p k.id) s =
        .next ((s.onCore p fun c => c.takeStart k s.now).mRefuse p k 0x03 (BitVec.ofNat 64 (accOf k.op))).bump)) ∧
    (cmdOf (c.mq ++ c.mwait ++ c.mflight) k.id = some k → c.startRefused s.now k = true →
      exec (.matrixStartRefused p k.id) s = .next (((s.onCore p fun c => c.takeStart k s.now).mRefuse p k 0x0A (c.stepTval k)).endWait p k.ctx k.id none).bump) ∧
    (cmdOf c.mflight k.id = some k → c.stepDue s.now k = true → 
      ((k.timed = false ∨ c.cmdUnowned k = none ∧ c.munit ≤ s.now ∧ ∀ w, c.timedWinner s.now = some w → k.ctx ≤ w.ctx) →
        exec (.mseqStepStart p k.id) s = .next (s.mStart p k).bump) ∧
      (k.timed = true → (c.cmdUnowned k ≠ none ∨ s.now < c.munit ∨ ∃ w, c.timedWinner s.now = some w ∧ w.ctx < k.ctx) →
        exec (.mseqStepStart p k.id) s = .next (s.mRefuse p k 0x0A (c.stepTval k)).bump)) ∧
    (∀ sub v, let t := s.mRefuse p k sub v
      (∀ w ∈ (t.core p).mq ++ (t.core p).mwait ++ (t.core p).mflight, w.id ≠ k.id) ∧ (∀ h ∈ (t.core p).hazards, h.cmd ≠ k.id) ∧
      (k.ctx < 16 ∨ k.flags = 0 → (t.core p).ls = c.ls) ∧ (t.core p).accs = c.accs) ∧
    (cmdOf c.mflight k.id = some k → k.started.isSome = true → k.until_ ≤ s.now → k.stepsLeft = 1 →
      let r := c.mEffect s.now k (s.mRead p k)
      let u := (s.setCore p r.1).mPoison p k
      let fl := k.flags ||| r.2
      ∃ t, exec (.matrixCommandComplete p k.id) s = .next t ∧ (t.core p).accs = (u.core p).accs ∧
        (∀ a, memGet (t.core p).ls a = memGet (u.core p).ls a ∨ 16 ≤ k.ctx) ∧ (∀ w ∈ (t.core p).mflight, w.id ≠ k.id) ∧
        (∀ h ∈ (t.core p).hazards, h.cmd ≠ k.id) ∧
        (k.ctx < 16 → fl = 0 → (t.core p).writes = (u.core p).writes) ∧
        (k.ctx < 16 → fl ≠ 0 → (t.core p).writes =
          (u.core p).writes ++ [⟨.flags k.ctx, .word (fl.setWidth 64 <<< 8), k.ctx, s.now, some ((u.core p).readyAt_ k s.now), 0, []⟩])) ∧
    (∀ n v, ((c.store (.flags n) (.word v)).ctx n).fcr = (c.ctx n).fcr ||| (v &&& 0x1F00)) ∧
    ∀ fl at_, fl &&& k.fcr.extractLsb' 16 5 ≠ 0 → k.ctx < 16 →
      ∃ l ∈ ((s.mFlags p k fl at_).ctx p k.ctx).late, l.cause = causeWord 0x13 true 0 0x16 k.seq ∧ l.known = at_

/-! ## The N slot (R214 to R239, R251, R271 to R289, R420) -/

namespace Sys2Proof.Claims
/-- An engine command is handed over (R216, R217, R225): its tag's bit is cleared and its count grows, and it enters the engine queue and the hazard table with its regions and those of FOOT, or waits outside in PARK where the queue, the tag counts or the table have no room or a command of its context waits that issued before its bundle, its regions entering the table at once if that has room. -/
def Queued (s : State) (i : Instr) (a b c : DWord) (regions : List Region) (footed : Bool) : Prop :=
  let own := if footed then regions ++ s.cur.foot.map (·.1) else regions
  let v := s.onCur fun x => x.tagIssue i
  let u := v.here
  let room := u.eq.length < 32 ∧ (tagOf i = none ∨ (u.ctx s.frame.ctx).tagged ≤ 64) ∧ u.hazardRoom regions.length = true ∧ NoneBefore s u
  ∃ (t : State) (k : Cmd), exec i s = .next t ∧
    (k.op = i ∧ k.ctx = s.frame.ctx ∧ k.a = a ∧ k.b = b ∧ k.c = c ∧ k.foot = own ∧ k.issue = s.now ∧ k.started = none ∧ k.id = s.ids ∧
      k.order = s.here.cmdOrder ∧ k.reserved = (if footed then s.cur.foot.length else 0)) ∧
    (∀ g, tagOf i = some g → g < 64 → t.cur.tags.getLsbD g = false ∧ look 0 t.cur.tagOut g = look 0 s.cur.tagOut g + 1) ∧
    (∀ g, tagOf i ≠ some g → t.cur.tags.getLsbD g = s.cur.tags.getLsbD g ∧ look 0 t.cur.tagOut g = look 0 s.cur.tagOut g) ∧
    t.cur.xs = s.cur.xs ∧ t.here.ls = s.here.ls ∧ t.here.empties = s.here.empties ∧ t.here.writes = s.here.writes ∧
    (∀ m, m ≠ s.frame.ctx → t.here.ctx m = s.here.ctx m) ∧ (∀ p, p ≠ s.frame.core → t.core p = s.core p) ∧ t.cliff = s.cliff ∧
    (room → t.here.eq = s.here.eq ++ [k] ∧ t.here.hazards = s.here.hazards ++ own.map (fun r => ⟨k.id, k.order, k.order + 1, r⟩) ∧
      t.cur.st = s.cur.st ∧ t.cur.parks = s.cur.parks) ∧
    (¬ room → t.here.eq = s.here.eq ∧
      (∃ c : Core, c.hazards = s.here.hazards ∧ c.mwait = s.here.mwait ∧ c.ewait = s.here.ewait ++ [k] ∧
        (c.ctx s.frame.ctx).foot = (if footed then [] else s.cur.foot) ∧
        (∀ n, n ≠ s.frame.ctx → c.ctx n = s.here.ctx n) ∧ t.here.hazards = (c.tryEnter k).hazards) ∧
      t.here.ewait = s.here.ewait ++ [k] ∧ t.cur.st = parked s ∧
      ∃ w, t.cur.parks = s.cur.parks ++ [w] ∧ w.kind = .queueFull ∧ w.id = k.id)
/-- The operation is held for the last cycle of its core turn (R132, R233, R272), with its operands and x4 to x7 as they stand; nothing is written at its issue. -/
def HeldForTurnEnd (s : State) (i : Instr) (a b : DWord) : Prop :=
  ∃ (t : State) (o : TurnOp), exec i s = .next t ∧ t.here.turnOps = s.here.turnOps ++ [o] ∧ o.op = i ∧ o.ctx = s.frame.ctx ∧ o.a = a ∧
    o.b = b ∧ o.x4 = s.rx 4 ∧ o.x5 = s.rx 5 ∧ o.x6 = s.rx 6 ∧ o.x7 = s.rx 7 ∧ o.issue = s.now ∧ o.id = s.ids ∧
    t.here.ls = s.here.ls ∧ t.here.deque = s.here.deque ∧ (∀ m, t.here.ctx m = s.here.ctx m) ∧
    ∀ e ∈ Instr.destsOf i s.frame.ctx, t.here.early (s.now + 1) e = true
/-- The context waits, and its request is on its way (R134). -/
def Requests (s : State) (i : Instr) (dst laddr : Nat) (body : Body) : Prop :=
  ∃ (t : State) (k : Park) (r : Packet), exec i s = .next t ∧ Waits s t k ∧ k.kind = .eddy ∧ k.op = i ∧ k.id = s.ids ∧
    Sent s t r ∧ r.id = s.ids ∧ r.src = s.frame.core ∧ r.sctx = s.frame.ctx ∧ r.dst = dst ∧ r.laddr = laddr ∧
    r.body = body ∧ s.now < r.due ∧ ∀ e ∈ Instr.destsOf i s.frame.ctx, t.here.early (s.now + 1) e = true
end Sys2Proof.Claims

/-- R216, R217, R220, R225 to R229, R235, R237, R242, R251 to R258, R285, R286, R288, R289: an engine command whose checks pass is handed to the engine queue with its register values and regions. -/
def Obligations.EngineCommandsAreQueued : Prop :=
  ∀ (s : State) (a b c : SReg) (f g : Bool) (e : Eng) (st : Start) (op : SigOp) (ch : BitVec 8) (mb : BitVec 7) (tag : BitVec 6)
    (rt : Option (BitVec 6)), Issues s →
    let x := s.rx a
    let y := s.rx b
    let z := s.rx c
    (∀ i ∈ [Instr.cpyi a b c f e, .cpyo a b c f e, .cpyl a b c e], s.copyCheck i x y z = none →
      Queued s i x y z (copyRegions i x y z) true) ∧
    (∀ p ∈ [(Instr.sdldCell a b c e, x, y, z), (.sdldCoup a b e, x, y, 0), (.sdldBridge a b e, x, y, 0), (.sdldClear e, 0, 0, 0),
        (.sdclpClamp a b c e, x, y, z), (.sdclpRelease a b c e, x, y, z), (.sdclpSet a b c e, x, y, z), (.sdswp a b f g e, x, y, 0),
        (.sdrd a b c f e, x, y, z), (.sdcnt a b c f e, x, y, z), (.sdseed a e, x, 0, 0), (.sdseedStore a e, x, 0, 0),
        (.sdtbl a e, x, 0, 0), (.sdbeta a b e, x, y, 0)],
      let regions := match sdRegion p.1 p.2.1 p.2.2.1 p.2.2.2 with
        | some r => [(⟨laddrOf r.1, r.2.1, r.2.2.1⟩ : Region)]
        | none => []
      s.sdCheck p.1 p.2.1 p.2.2.1 p.2.2.2 = none → Queued s p.1 p.2.1 p.2.2.1 p.2.2.2 regions (!regions.isEmpty)) ∧
    (s.wordCheck x (s.passedCheck e.start none) = none →
      Queued s (.sigs a b op e) x y 0 (if isRemote x then [] else [⟨laddrOf x, 8, true⟩]) (!isRemote x)) ∧
    (s.passedCheck e.start none = none → Queued s (.hnfy a b e) x y 0 [] false) ∧
    (s.localRegion x 64 64 (s.tidalCheck ch.toNat true st (s.passedCheck st none)) = none →
      Queued s (.tsnd a ch st) x 0 0 [⟨laddrOf x, 64, false⟩] true) ∧
    (s.localRegion x 64 64 (s.tidalCheck ch.toNat false st (s.passedCheck st none)) = none →
      Queued s (.trcv a ch rt st) x 0 0 [⟨laddrOf x, 64, true⟩] true) ∧
    ((s.frame.ctx ≠ 0 → x.getLsbD 16 = false) → 8 ≤ z.toNat → z.toNat ≤ 64 → z.toNat % 8 = 0 →
      (s.here.fieldTarget s.frame.ctx x).isSome = true → s.localRegion y z.toNat 8 (s.passedCheck st none) = none →
      Queued s (.esnd a b c mb f tag st) x y z [] false) ∧
    (kindOf s.frame.core = 2 → (s.here.chanDecl s.frame.core s.frame.ctx (linkChan z)).isSome = true →
      s.localRegion x (linkBytes z) 64 (s.passedCheck e.start none) = none →
      (linkBad z false = false → Queued s (.lsnd a c e) x 0 z [⟨laddrOf x, linkBytes z, false⟩] true ∧
        Queued s (.lrcv a c e) x 0 z [⟨laddrOf x, linkBytes z, true⟩] true) ∧
      (linkBad z true = false → Queued s (.lred a c e) x 0 z [⟨laddrOf x, linkBytes z, true⟩] true)) ∧
    (s.frame.ctx = 0 →
      (y ≠ 0 → y.toNat ≤ 2048 → badLine x = false → s.passedCheck e.start none = none → Queued s (.codel a b e) x y 0 [] false) ∧
      (s.here.movcTarget s.frame.core x = true → (find s.here.pool (y.toNat % 4)).isSome = true → s.passedCheck e.start none = none →
        Queued s (.movc a b c e) x y z [] false) ∧
      (s.localRegion x 2048 32 (s.passedCheck e.start none) = none →
        Queued s (.tide a e) x 0 0 [⟨laddrOf x, 2048, false⟩] true))
/-- R217, R218, R226: FOOT's region waits for the next command or joins one of its own bundle, and FOOT parks without room; TWAIT waits for all of a set of tags and TANY for one of it, both trapping 0x03 on a wait that could never end; TFFR gives the lowest set tag; TCLR clears; a command's end lowers its tag's count and at zero sets its bit. -/
def Obligations.FootAndTagWaits : Prop :=
  (∀ (s : State) (a b : SReg) (w : Bool), Issues s →
    let x := s.rx a
    let y := s.rx b
    let g := s.tagsNow
    let alive (t : Nat) : Prop := g.getLsbD t = true ∨ look 0 s.cur.tagOut t ≠ 0
    (isRemote x = false → y ≠ 0 → y.toNat ≤ 524288 → s.cur.foot.length < 2 → Core.regionFault s.frame.ctx none x y.toNat = none →
      let r : Region := ⟨laddrOf x, y.toNat, w⟩
      (s.here.hazardRoom 1 = true → s.footTarget = none →
        exec (.foot a b w) s = .next (s.onCur fun x => { x with foot := x.foot ++ [(r, 1)] })) ∧
      (∀ id, s.here.hazardRoom 1 = true → s.footTarget = some id → exec (.foot a b w) s = .next (s.onHere fun c => c.attach id r)) ∧
      (s.here.hazardRoom 1 = false → ∃ t k, exec (.foot a b w) s = .next t ∧ Waits s t k ∧ k.kind = .queueFull)) ∧
    ((∀ t < 64, x.getLsbD t = true → alive t) →
      (g &&& x = x → exec (.twait a) s = .next s) ∧
      (g &&& x ≠ x → ∃ t k, exec (.twait a) s = .next t ∧ Waits s t k ∧ k.kind = .tags ∧ k.a = x)) ∧
    ((∃ t < 64, x.getLsbD t = true ∧ alive t) →
      (g &&& x ≠ 0 → ∃ n < 64, exec (.tany a b) s = .next (s.wx b (BitVec.ofNat 64 n) 1) ∧ (g &&& x).getLsbD n = true ∧
        ∀ t < n, (g &&& x).getLsbD t = false) ∧
      (g &&& x = 0 → ∃ t k, exec (.tany a b) s = .next t ∧ Waits s t k ∧ k.kind = .tags ∧ k.a = x)) ∧
    (∃ n, exec (.tffr a b) s = .next (s.wx b (BitVec.ofNat 64 n) 1) ∧ n ≤ 64 ∧ (n < 64 → (g &&& x).getLsbD n = true) ∧
      ∀ t < n, (g &&& x).getLsbD t = false) ∧
    exec (.tclr a) s = .next (s.write (.tagsClear s.frame.ctx) (.word x) 1) ∧
    (s.frame.phase = .whole → s.frame.guard = true → ∀ t < 64, x.getLsbD t = true → ¬ alive t →
      (∀ u < t, x.getLsbD u = true → alive u) →
      exec (.twait a) s = .next (s.issueTrap 0x03 (BitVec.ofNat 64 t)) ∧
      ((∀ u < 64, x.getLsbD u = true → ¬ alive u) → exec (.tany a b) s = .next (s.issueTrap 0x03 (BitVec.ofNat 64 t))))) ∧
  (∀ (c : Core) (n : Nat) (v : DWord), ((c.store (.tagsClear n) (.word v)).ctx n).tags = (c.ctx n).tags &&& ~~~v) ∧
  ∀ (c : Core) (now free n g : Nat) (i : Instr), n < 16 → tagOf i = some g → g < 64 →
    let d := c.tagEnd now free n i
    look 0 (d.ctx n).tagOut g = look 0 (c.ctx n).tagOut g - 1 ∧
    (look 0 (c.ctx n).tagOut g ≤ 1 → (d.ctx n).tags.getLsbD g = true)
/-- R230, R231, R233, R236, R239, R420: ERCV, the barrier operations, SWAIT whose condition fails, BANKR of busy banks, BANKW of banks not owned, and SEND and RECV of a full or empty channel park; else each has its effect. SWAIT's word is the one before the stores of its own bundle (R44). A ring operation of an id without a header traps 0x03; that TVAL names the id is the model's choice (log 73). SEND sends the channel's bundle as a message to the mailbox of its channel at the receiver, and RECV takes the oldest message of that mailbox (R422). -/
def Obligations.MessagesBarriersAndBanks : Prop :=
  ∀ (s : State) (a b c : SReg) (mb : BitVec 7) (bar r : BitVec 5) (wt : Bool) (cond : Cond) (ch : BitVec 8), Issues s →
    let x := s.rx a
    let y := s.rx b
    let n := s.frame.ctx
    (isRemote x = false → Core.regionFault n (some (s.here.banksOf n)) x 8 = none → x.toNat % 8 = 0 → ∃ t k, exec (.ercv a b mb) s = .next t ∧ Waits s t k ∧ k.kind = .ercv ∧ k.a = x ∧
      ∀ e ∈ Instr.destsOf (.ercv a b mb) n, t.here.early (s.now + 1) e = true) ∧
    (isOrdinary s.frame.core = true → ∀ p ∈ [(Instr.bari a bar, x), (.barw a bar, x), (.bara b bar wt, 0)],
      Requests s p.1 (shoreUnit (shoreKey s.frame.core)) 0 (.barrier p.1 p.2)) ∧
    ((s.here.ring r.toNat).isSome = true → HeldForTurnEnd s (.rpsh a 0 r) x 0 ∧ HeldForTurnEnd s (.rpop a b 0 r) 0 y) ∧
    (s.here.ring r.toNat = none → s.frame.phase = .whole → s.frame.guard = true →
      exec (.rpsh a c r) s = .next (s.issueTrap 0x03 (r.setWidth 64)) ∧ exec (.rpop a b c r) s = .next (s.issueTrap 0x03 (r.setWidth 64))) ∧
    (∀ q, c ≠ 0 → (s.here.ring r.toNat).isSome = true → (n ≠ 0 → isPhys (s.rx c) = false) → isRemote (s.rx c) = true → remoteForm (s.rx c) = true → laddrOf (s.rx c) = 0 →
      s.here.target n (s.rx c) = some q →
      Requests s (.rpsh a c r) q 0 (.ringPush r.toNat x) ∧ Requests s (.rpop a b c r) q 0 (.ringPop r.toNat)) ∧
    (LocalAt s x 8 →
      (condHolds cond (s.here.wordBefore x.toNat) y = true →
        ∃ l, exec (.swait a b c cond) s = .next ((useBanks s l).wx c (s.here.wordBefore x.toNat) 1)) ∧
      (condHolds cond (s.here.wordBefore x.toNat) y = false →
        ∃ t k, exec (.swait a b c cond) s = .next t ∧ Waits s t k ∧ k.kind = .retry ∧ k.a = x ∧ k.b = y)) ∧
    (let m : Half := x.setWidth 16
     (s.here.bankrReady n m = true → exec (.bankr a) s = .next (s.onHere fun k => k.releaseBanks n (m &&& k.banksOf n))) ∧
      (s.here.bankrReady n m = false → ∃ t k, exec (.bankr a) s = .next t ∧ Waits s t k ∧ k.kind = .bank ∧ k.a = x) ∧
      (let t := s.onHere fun k => k.takeBanks n m
       (t.here.banksOf n &&& m = m → exec (.bankw a) s = .next t) ∧
        (t.here.banksOf n &&& m ≠ m → ∃ u k, exec (.bankw a) s = .next u ∧ Waits s u k ∧ k.kind = .bank ∧ k.a = x ∧
          u.here.banksOf n = t.here.banksOf n))) ∧
    (s.here.emonef = true →
      let key := s.emKey s.frame.core n ch.toNat
      (s.emCheck x ch.toNat true = none →
        (s.emRoom key = true → ∃ t k, exec (.send a ch) s = .next t ∧ Sent s t k ∧ k.src = s.frame.core ∧ k.sctx = n ∧
          k.body = .message (s.emMailbox key) false (memBytes s.here.asIssued.ls (laddrOf x) 64) ∧
          (∀ d q, s.emDecl key = some d → s.here.physOfLogical n d.2.1 = some q → k.dst = q) ∧
          t.emOut key = s.emOut key + 1 ∧ (∀ j, j ≠ key → t.emOut j = s.emOut j) ∧ t.cores = s.cores) ∧
        (s.emRoom key = false → ∃ t k, exec (.send a ch) s = .next t ∧ Waits s t k ∧ k.kind = .emonef)) ∧
      (s.emCheck x ch.toNat false = none →
        (s.emNext s.frame.core key = none → ∃ t k, exec (.recv a ch) s = .next t ∧ Waits s t k ∧ k.kind = .emonef) ∧
        ∀ m, s.emNext s.frame.core key = some m → m.data.length = 64 → ∃ t, exec (.recv a ch) s = .next t ∧
          m.mb = s.emMailbox key ∧ t.here.msgs = s.here.msgs.erase m ∧ t.emOut key = s.emOut key - 1 ∧
          memBytes t.here.ls (laddrOf x) 64 = m.data ∧ StoredOnly s t (laddrOf x) 64))
/-- R272 to R277: FORK, POPD and a local JOIN are held for the end of their core turn, and there a record is pushed or popped at the deque's end or the join count falls; a JOIN that meets a bank its launch has released since traps 0x06 (R239); a remote JOIN, STEAL and SPAWN park with their request on its way. -/
def Obligations.TaskOperations : Prop :=
  (∀ (s : State) (a b c : SReg) (q : PReg), Issues s →
    let x := s.rx a
    let y := s.rx b
    let n := s.frame.ctx
    (badTarget x = false → HeldForTurnEnd s (.fork a) x 0) ∧
    (n ≠ 0 → HeldForTurnEnd s (.popd q) 0 0) ∧
    (s.joinCheck x = none →
      (isRemote x = false → HeldForTurnEnd s (.join a) x 0) ∧
      ∀ p, isRemote x = true → s.here.target n x = some p → Requests s (.join a) p (laddrOf x) .join) ∧
    (n ≠ 0 → x ≠ 0 → x.toNat ≤ 64 →
      (s.here.stealOrder s.frame.core n x.toNat = [] → exec (.steal a q) s = .next (s.wq q false 1)) ∧
      ∀ v l, s.here.stealOrder s.frame.core n x.toNat = v :: l → Requests s (.steal a q) v 0 .steal) ∧
    ((n ≠ 0 → x.getLsbD 16 = false) → badTarget y = false → ∀ p, s.here.fieldTarget n x = some p →
      Requests s (.spawn a b c) p 0 (.spawn y (s.mfsVal 0x0A) (s.rx 3) (s.rx 4) (s.rx 5) (s.rx 6) (s.rx 7)))) ∧
  ∀ (s : State) (p : Nat) (o : TurnOp),
    let k := s.core p
    let t := s.performTurnOp p o
    (∀ a, o.op = .fork a →
      (k.deque.length < 64 → ∃ r : TaskRec, (t.core p).deque = k.deque ++ [r] ∧ r.entry = o.a ∧ r.x4 = o.x4 ∧ r.x5 = o.x5 ∧
        r.x6 = o.x6 ∧ r.x7 = o.x7 ∧ ∀ m, t.ctx p m = s.ctx p m) ∧
      (64 ≤ k.deque.length → (t.core p).deque = k.deque ∧ ∃ l : Late, (t.ctx p o.ctx).late = (s.ctx p o.ctx).late ++ [l] ∧
        l.kind = .first o.slot o.addr ∧ l.cause = causeOf 0x0F ∧ l.tval = 0)) ∧
    (∀ q, o.op = .popd q →
      (∀ l r, k.deque = l ++ [r] → badTarget r.entry = false → (t.core p).deque = l ∧ (t.ctx p o.ctx).next = r.entry ∧
        ((s.ctx p o.ctx).frozen = 0 → (t.ctx p o.ctx).levels = []) ∧ (t.ctx p o.ctx).hold = none) ∧
      (k.deque = [] → k.chainEmpty = true → (t.core p).deque = [] ∧ (t.ctx p o.ctx).seeking = true ∧
        (t.ctx p o.ctx).next = (s.ctx p o.ctx).next) ∧
      (k.deque = [] → k.chainEmpty = false → ∃ l : Late, (t.ctx p o.ctx).late = (s.ctx p o.ctx).late ++ [l] ∧
        l.cause = causeOf 0x0F ∧ l.tval = 1 <<< 63)) ∧
    ∀ a, o.op = .join a →
      let A := laddrOf o.a
      let n : BitVec 32 := (k.word A).setWidth 32
      (∀ w, k.lostBank o.ctx ((joinWords A).1.map fun w => (w, 8)) = some w → (t.core p).deque = k.deque ∧ (t.core p).ls = k.ls ∧
        ∃ l : Late, (t.ctx p o.ctx).late = (s.ctx p o.ctx).late ++ [l] ∧ l.cause = causeOf 0x06 ∧ l.tval = BitVec.ofNat 64 w) ∧
      (k.lostBank o.ctx ((joinWords A).1.map fun w => (w, 8)) = none →
      (2 ≤ n.toNat → (t.core p).word A = (k.word A).extractLsb' 32 32 ++ (n - 1) ∧ (t.core p).deque = k.deque ∧
        ∀ b, b < A ∨ A + 8 ≤ b → memGet (t.core p).ls b = memGet k.ls b) ∧
      (n = 1 → k.deque.length < 64 → (t.core p).word A = (k.word A).extractLsb' 32 32 ++ (0 : BitVec 32) ∧
        ∃ r : TaskRec, (t.core p).deque = k.deque ++ [r] ∧ r.entry = k.word (A + 8) ∧ r.x4 = k.word (A + 16) ∧
          r.x5 = k.word (A + 24) ∧ r.x6 = k.word (A + 32) ∧ r.x7 = k.word (A + 40)) ∧
      (n = 0 → (t.core p).deque = k.deque ∧ (t.core p).ls = k.ls ∧ ∃ l : Late, (t.ctx p o.ctx).late = (s.ctx p o.ctx).late ++ [l] ∧
        l.cause = causeOf 0x03 ∧ l.tval = o.a))
/-- R278, R287, R288: the operations of C0 on the ready queue, the deque's spill chain, the code store and the re-tide instant. RDYQ.refill and RDYQ.rpst read the segment and the deferrals as they stand before their bundle (R44). -/
def Obligations.ReadyQueueAndCodeStore : Prop :=
  ∀ (s : State) (a b c : SReg) (p : BitVec 2), C0Issues s →
    let x := s.rx a
    let k := s.here
    let l := k.readyAt p.toNat
    (k.ready.length = 4 →
      (l.length < 16 → ∃ t u : State, exec (.rdyqPush a c p) s = .next (t.wx c 1 1) ∧ exec (.rdyqPushh a c p) s = .next (u.wx c 1 1) ∧
        t.here.readyAt p.toNat = l ++ [x] ∧ u.here.readyAt p.toNat = x :: l ∧
        ∀ j, j ≠ p.toNat → t.here.readyAt j = k.readyAt j ∧ u.here.readyAt j = k.readyAt j) ∧
      (16 ≤ l.length → exec (.rdyqPush a c p) s = .next (s.wx c 0 1) ∧ exec (.rdyqPushh a c p) s = .next (s.wx c 0 1)) ∧
      (b ≠ c ∨ b = 0 → ∀ v r, l = v :: r → (∀ j, p.toNat < j → j < 4 → k.readyAt j = []) →
        ∃ t : State, exec (.rdyqPop b c) s = .next ((t.wx b v 1).wx c (BitVec.ofNat 64 (0x100 + p.toNat)) 1) ∧
          t.here.readyAt p.toNat = r ∧ (∀ j, j ≠ p.toNat → t.here.readyAt j = k.readyAt j) ∧ t.here.ls = k.ls) ∧
      ∃ t : State, exec (.rdyqFlush c p) s = .next (t.wx c (BitVec.ofNat 64 l.length) 1) ∧ t.here.readyAt p.toNat = [] ∧
        ∀ j, j ≠ p.toNat → t.here.readyAt j = k.readyAt j) ∧
    (b ≠ c ∨ b = 0 → (∀ j < 4, k.readyAt j = []) → exec (.rdyqPop b c) s = .next ((s.wx b 0 1).wx c 0 1)) ∧
    (∃ v, exec (.rdyqCount b) s = .next (s.wx b v 1) ∧
      (∀ j < 4, (v.extractLsb' (8 * j) 8).toNat = (k.readyAt j).length % 256) ∧ v.extractLsb' 32 32 = 0) ∧
    (∃ v, exec (.rdyqRpst b) s = .next (s.wx b v 1) ∧ (∀ e < 4, v.getLsbD e = (find k.pool e).isSome) ∧
      (∀ n < 16, v.getLsbD (4 + n) = ((k.ctx n).deferred.isSome && decide (n ∉ s.frame.deferrals))) ∧ v.extractLsb' 20 44 = 0) ∧
    (isRemote x = false → Core.regionFault 0 (some (k.banksOf 0)) x 1568 = none → x.toNat % 32 = 0 →
      (k.deque.length < 64 → exec (.rdyqSpill a c) s = .next (s.wx c 0 1)) ∧
      (k.deque.length = 64 → ∃ t : State, exec (.rdyqSpill a c) s = .next (t.wx c 32 1) ∧ t.here.deque = k.deque.drop 32 ∧
        t.here.chain = x ∧ t.here.chainEmpty = false ∧ t.here.word (laddrOf x) = k.chain ∧ t.here.word (laddrOf x + 8) = 32 ∧
        (∀ n < 32, ∀ j < 6, t.here.word (laddrOf x + 32 + 48 * n + 8 * j) = nthD 0 ((nthD ⟨0, 0, 0, 0, 0, 0⟩ k.deque n).words) j) ∧
        ∀ i, i < laddrOf x ∨ laddrOf x + 1568 ≤ i → memGet t.here.ls i = memGet k.ls i)) ∧
    (let A := laddrOf k.chain
     let old := k.asIssued
     let n := (old.word (A + 8)).toNat
     (k.deque ≠ [] ∨ k.chainEmpty = true → exec (.rdyqRefill b) s = .next (s.wx b 0 1)) ∧
      (k.deque = [] → k.chainEmpty = false → 1 ≤ n → n ≤ 32 → ∃ t : State, exec (.rdyqRefill b) s = .next (t.wx b k.chain 1) ∧
        t.here.chain = old.word A ∧ t.here.deque.length = n ∧ t.here.ls = k.ls ∧
        ∀ i < n, nthD ⟨0, 0, 0, 0, 0, 0⟩ t.here.deque i = old.getRecord (A + 32 + 48 * i))) ∧
    ((s.rx b).toNat ≤ 2048 → badLine x = false → ∃ t : State, exec (.codei a b) s = .next t ∧
      (s.rx b = 0 → t.here.code = []) ∧ (∀ kl ∈ t.here.code, kl ∈ k.code ∧ ∀ i < (s.rx b).toNat,
        let v := (x.toNat + 64 * i) % 2 ^ 48
        kl.1 ≠ v / 64 % 2048 ∨ kl.2.tag ≠ v / 131072) ∧ t.here.ls = k.ls) ∧
    (s.now + 256 ≤ x.toNat → (s.ctx s.frame.core 0).base % 16 = x.toNat % 16 → (s.ctx s.frame.core 0).base ≤ 16 * 2 ^ 60 →
      k.retide = none → exec (.tideRetide a) s = .next (s.onHere fun c => { c with retide := some x.toNat }))

/-! ## Events: requests at their owner, waits, commands in flight (R132 to R147, R216, R224 to R240, R266 to R289) -/

namespace Sys2Proof.Claims
/-- A response to a packet is on its way (R134). -/
def Answered (s t : State) (k : Packet) (r : Reply) : Prop :=
  ∃ q ∈ t.packets, q.body = .reply k.id r ∧ q.src = k.dst ∧ q.dst = k.src ∧ s.now < q.due
/-- A request is refused for now: the refusal is on its way back to its requester (R147). -/
def SentBack (s t : State) (k : Packet) : Prop :=
  ∀ q ∈ t.packets, q.id = k.id → q.accepted = none ∧ q.back = true ∧ s.now < q.due
end Sys2Proof.Claims

/-- R132 to R136, R147, R229, R231, R233, R234, R272, R274 to R277: each kind of request at its owner, once accepted and granted its port: its effect, its refusal, its wait, and its answer; a request refused for now is sent again 16 cycles after the refusal has come back; a response ends the wait that it answers. That the 0x0E of a full ring names the ring in TVAL as its owner's RPSH would, and that a ring in words its owner refuses to the launch is refused 0x08, is the model's choice (logs 41 and 73). -/
def Obligations.RequestsAtTheirOwner : Prop :=
  (∀ (s : State) (k : Packet), s.packet k.id = some k →
    let p := k.dst
    let u := s.takeBanksOf k
    let c := u.core p
    (s.portReady k = true →
      (∀ i b data, k.body = .access i b data →
        let e : Instr := .remoteAccessPerform k.id
        (u.refuses k i b = true → ∃ t, exec e s = .next t ∧ Answered s t k (.refused 0x08) ∧ (t.core p).ls = (s.core p).ls) ∧
        (u.refuses k i b = false →
          (∀ d v, c.access i k.laddr b data 0 = some (d, v) → ∃ t, exec e s = .next t ∧ Answered s t k (replyOf v) ∧
            (t.core p).ls = d.ls ∧ (t.core p).empties = d.empties) ∧
          (c.access i k.laddr b data 0 = none →
            (∀ n, c.freeWatch = some n → ∃ t, exec e s = .next t ∧ (t.core p).watches = (s.core p).watches ++ [⟨n, k, 0⟩] ∧
              t.packets = s.packets.filter (fun q => q.id != k.id) ∧ (t.core p).ls = (s.core p).ls) ∧
            (c.freeWatch = none → ∃ t, exec e s = .next t ∧ SentBack s t k ∧ (t.core p).ls = (s.core p).ls)))) ∧
      (∀ op v, k.body = .signal op v → u.refuses k (.st64 0 0 0) 0 = false → ∃ t, exec (.remoteAccessPerform k.id) s = .next t ∧
        Answered s t k (.value 0) ∧ (t.core p).word k.laddr = signalVal op (c.word k.laddr) v) ∧
      (∀ r h v, k.body = .ringPush r v → c.ring r = some h →
        (s.ringRefused k = true → ∃ t, exec (.ringRemoteOp k.id) s = .next t ∧ Answered s t k (.refused 0x08) ∧ (t.core p).ls = (s.core p).ls) ∧
        (∀ d, s.ringRefused k = false → c.ringPush h v = some d → ∃ t, exec (.ringRemoteOp k.id) s = .next t ∧ Answered s t k .none ∧
          (t.core p).ls = d.ls) ∧
        (s.ringRefused k = false → c.ringPush h v = none → ∃ t, exec (.ringRemoteOp k.id) s = .next t ∧ SentBack s t k ∧ (t.core p).ls = (s.core p).ls ∧
          (r ∉ c.ringTold → (t.core p).pending.own = (s.core p).pending.own ++ [(0x0E, c.ringTval r h)]))) ∧
      (∀ r h, k.body = .ringPop r → c.ring r = some h →
        (s.ringRefused k = true → ∃ t, exec (.ringRemoteOp k.id) s = .next t ∧ Answered s t k (.refused 0x08) ∧ (t.core p).ls = (s.core p).ls) ∧
        (∀ d v, s.ringRefused k = false → c.ringPop h = some (d, v) → ∃ t, exec (.ringRemoteOp k.id) s = .next t ∧
          Answered s t k (.value v) ∧ (t.core p).ls = d.ls) ∧
        (∀ n, s.ringRefused k = false → c.ringPop h = none → c.freeWatch = some n → ∃ t, exec (.ringRemoteOp k.id) s = .next t ∧
          (t.core p).watches = (s.core p).watches ++ [⟨n, k, 0⟩])) ∧
      (k.body = .join → s.joinRipe k = true → (∀ j < 6, u.refuses (k.at_ j) (.st64 0 0 0) 0 = false) →
        (∀ d, c.join k.laddr = .ok d → ∃ t, exec (.remoteJoin k.id) s = .next t ∧ Answered s t k .none ∧ (t.core p).ls = d.ls ∧
          (t.core p).deque = d.deque) ∧
        (c.join k.laddr = .error 0x03 → ∃ t, exec (.remoteJoin k.id) s = .next t ∧ Answered s t k (.refused 0x03) ∧
          (t.core p).ls = (s.core p).ls) ∧
        (c.join k.laddr = .error 0x0F → ∃ t, exec (.remoteJoin k.id) s = .next t ∧ SentBack s t k ∧
          (t.core p).pending.own = (s.core p).pending.own ++ [(0x0F, (1 : DWord) <<< 62)])) ∧
      (k.body = .join → s.joinRipe k = true → (∃ j < 6, u.refuses (k.at_ j) (.st64 0 0 0) 0 = true) →
        ∃ t, exec (.remoteJoin k.id) s = .next t ∧ Answered s t k (.refused 0x08) ∧ (t.core p).ls = (s.core p).ls)) ∧
    (k.body = .steal → k.ripe s.now = true →
      (∀ r l, (s.core p).deque = r :: l → ∃ t, exec (.stealRequest k.id) s = .next t ∧ (t.core p).deque = l ∧ Answered s t k (.record r)) ∧
      ((s.core p).deque = [] → ∃ t, exec (.stealRequest k.id) s = .next t ∧ (t.core p).deque = [] ∧ Answered s t k .none)) ∧
    (k.accepted.isSome = true →
      (∀ entry seed x3 x4 x5 x6 x7, k.body = .spawn entry seed x3 x4 x5 x6 x7 →
        (∀ n, (s.core p).freeWorker = some n → ∃ t, exec (.spawnRequest k.id) s = .next t ∧ (t.core p).changes = (s.core p).changes ++
          [.start n entry x3 x4 x5 x6 x7 (seed + BitVec.ofNat 64 (16 * p + n) * 0x9E3779B97F4A7C15) true k.launch] ∧
          Answered s t k (.value (BitVec.ofNat 64 n))) ∧
        ((s.core p).freeWorker = none → ∃ t, exec (.spawnRequest k.id) s = .next t ∧ (t.core p).changes = (s.core p).changes ∧
          Answered s t k (.value 0))) ∧
      (∀ bar : BitVec 5,
        let key := p - 131072
        let b := s.barrier key bar.toNat
        (∀ x a, k.body = .barrier (.bari x bar) a →
          (1 ≤ a.toNat → a.toNat ≤ 256 → b.init = false → ∃ t, exec (.barrierRequest k.id) s = .next t ∧ Answered s t k .none ∧
            t.barrier key bar.toNat = { b with count := a.toNat, arrived := 0, init := true }) ∧
          (1 ≤ a.toNat → a.toNat ≤ 256 → b.init = true → b.count = a.toNat → ∃ t, exec (.barrierRequest k.id) s = .next t ∧
            Answered s t k .none ∧ t.barrier key bar.toNat = b) ∧
          (a = 0 ∨ 256 < a.toNat ∨ b.init = true ∧ b.count ≠ a.toNat → ∃ t, exec (.barrierRequest k.id) s = .next t ∧
            Answered s t k (.trap 0x20 (bar.setWidth 64)) ∧ t.barrier key bar.toNat = b)) ∧
        ((∃ x a wt, k.body = .barrier (.bara x bar wt) a ∨ k.body = .barrier (.barw x bar) a) → b.init = false →
          ∃ t, exec (.barrierRequest k.id) s = .next t ∧ Answered s t k (.trap 0x20 (bar.setWidth 64)) ∧ t.barrier key bar.toNat = b) ∧
        (∀ x a wt, k.body = .barrier (.bara x bar wt) a → b.init = true →
          (wt = false ∨ b.arrived + 1 = b.count → (∀ w ∈ b.waiters, w.1.id ≠ s.ids) → ∃ t, exec (.barrierRequest k.id) s = .next t ∧
            Answered s t k (.value (b.gen.setWidth 64)) ∧
            (t.barrier key bar.toNat).arrived = (if b.arrived + 1 = b.count then 0 else b.arrived + 1) ∧
            (t.barrier key bar.toNat).gen = (if b.arrived + 1 = b.count then b.gen + 1 else b.gen)) ∧
          (b.arrived + 1 ≠ b.count → wt = true → ∃ t, exec (.barrierRequest k.id) s = .next t ∧
            t.barrier key bar.toNat = { b with arrived := b.arrived + 1, waiters := b.waiters ++ [(k, b.gen)] } ∧
            t.packets = s.packets.filter (fun q => q.id != k.id)) ∧
          (b.arrived + 1 = b.count → (∀ w ∈ b.waiters, w.2 = b.gen) → ∃ t, exec (.barrierRequest k.id) s = .next t ∧
            t.barrier key bar.toNat = { b with arrived := 0, gen := b.gen + 1, waiters := [] })) ∧
        (∀ x a, k.body = .barrier (.barw x bar) a → b.init = true →
          (b.gen ≠ a.setWidth 16 → ∃ t, exec (.barrierRequest k.id) s = .next t ∧ Answered s t k .none) ∧
          (b.gen = a.setWidth 16 → ∃ t, exec (.barrierRequest k.id) s = .next t ∧
            t.barrier key bar.toNat = { b with waiters := b.waiters ++ [(k, b.gen)] }))) ∧
      (∀ mb wake data, k.body = .message mb wake data →
        ((s.core p).takesMessage wake = true → ∃ t m, exec (.esndMessageArrival k.id) s = .next t ∧
          (t.core p).msgs = (s.core p).msgs ++ [m] ∧ m.mb = mb ∧ m.data = data ∧
          (wake = true → ∃ v, (t.core p).pending.wakes = (s.core p).pending.wakes ++ [v] ∧ v.extractLsb' 0 7 = BitVec.ofNat 7 mb)) ∧
        ((s.core p).takesMessage wake = false → ∃ t, exec (.esndMessageArrival k.id) s = .next t ∧ SentBack s t k ∧
          (t.core p).msgs = (s.core p).msgs))) ∧
    (k.back = true → k.path = [] → k.due ≤ s.now → ∀ q ∈ s.takeRetries.packets, q.id = k.id → q.resend = some (s.now + 16) ∧ q.back = false) ∧
    (∀ r, k.resend = some r → r ≤ s.now → ∃ t, exec (.retryResend k.id) s = .next t ∧
      ∀ q ∈ t.packets, q.id = k.id → q.resend = none ∧ s.now < q.due) ∧
    (∀ id r v n w, k.body = .reply id r → Reply.val r = some v → k.arrived s.now = true → s.responder k.dst id = k.dst →
      (s.core p).waiter id = some n → n < 16 → firstOf (fun q => q.id == id && q.ended == .waiting) (s.ctx p n).parks = some w →
      ∀ e ∈ [Instr.remoteResponseArrival k.id, .stealResponse k.id], ∃ t, exec e s = .next t ∧
        (∀ q ∈ (t.ctx p n).parks, q.id = id → q.ended ≠ .waiting) ∧
        (t.core p).writes = ((s.core p).settle id v (turnLast s.now)).writes ∧ (t.core p).ls = (s.core p).ls) ∧
    (∀ id n w a b, k.arrived s.now = true → s.responder k.dst id = k.dst → (s.core p).waiter id = some n → n < 16 →
      firstOf (fun q => q.id == id && q.ended == .waiting) (s.ctx p n).parks = some w → w.op = .steal a b →
      let stop (t : State) : Prop := (∀ q ∈ (t.ctx p n).parks, q.id = id → q.ended ≠ .waiting) ∧ (t.core p).ls = (s.core p).ls
      (∀ r, k.body = .reply id (.record r) → badTarget r.entry = false → ∃ t, exec (.stealResponse k.id) s = .next t ∧ stop t ∧
        (t.core p).writes = ((s.core p).settleTask id (some r) (turnLast s.now)).writes ∧ (t.ctx p n).next = r.entry ∧
        ((s.ctx p n).frozen = 0 → (t.ctx p n).levels = []) ∧ (t.ctx p n).hold = none ∧ (t.ctx p n).seeking = false) ∧
      (k.body = .reply id .none → w.id = id →
        let order := (s.core p).stealOrder p n w.a.toNat
        (nth order w.c.toNat = none → ∃ t, exec (.stealResponse k.id) s = .next t ∧ stop t ∧
          (t.core p).writes = ((s.core p).settleTask id none (turnLast s.now)).writes) ∧
        ∀ v, nth order w.c.toNat = some v → ∃ t q, exec (.stealResponse k.id) s = .next t ∧ q ∈ t.packets ∧ q.id = id ∧
          q.body = .steal ∧ q.src = p ∧ q.dst = v ∧ s.now < q.due ∧ (t.ctx p n).st = (s.ctx p n).st))) ∧
  ∀ (s : State) (p slot : Nat) (w : Watch),
    let q := s.core p
    firstOf (fun w => w.slot == slot && w.retest == 2) q.watches = some w → q.portFree (w.pkt.words q) = true → w.pkt.dst = p →
    ∀ i b data, w.pkt.body = .access i b data →
      let u := s.onCore p fun c => c.takePort (w.pkt.words q)
      (u.refuses w.pkt i b = true → ∃ t, exec (.watchSlotRetest p slot) s = .next t ∧ Answered s t w.pkt (.refused 0x08) ∧
        (t.core p).ls = q.ls ∧ ∀ x ∈ (t.core p).watches, x.slot ≠ slot) ∧
      ∀ d v, u.refuses w.pkt i b = false → (u.core p).access i w.pkt.laddr b data 0 = some (d, v) →
        ∃ t, exec (.watchSlotRetest p slot) s = .next t ∧ Answered s t w.pkt (replyOf v) ∧ (t.core p).ls = d.ls ∧
          ∀ x ∈ (t.core p).watches, x.slot ≠ slot
/-- R137, R146, R147, R216, R230, R234, R235, R239, R266, R267, R285: relaxed accesses are performed; waits are tried again, delivered, handed over or ended at their limit; engine commands enter the queue, start, are refused, and end; a swap, a resume and a moved entry complete. A retried, relaxed or delivered access that meets a bank its launch has released traps 0x06, and one that meets an uncorrectable error 0x1D (R239, R328). That a MOVC whose target entry has become valid ends with 0x08 and TVAL the core it names is the model's reading (log 31); so is the cycle in which a start reads its words (log 43), and the model chooses which of several ready commands starts (log 74). -/
def Obligations.WaitsAndEngineCommands : Prop :=
  ∀ (s : State) (p n : Nat),
    let c := s.core p
    let x := s.ctx p n
    (∀ r, firstOf (fun q => q.id == r.id) x.relaxed = some r → c.relaxedReady s.now p n r = true →
      (∀ d v, c.stopsAt n r.op (laddrOf r.a) r.b r.idx = none → c.ownAccess p n r.op ⟨r.a, r.b, r.data, r.idx⟩ = some (d, v) →
        ∃ t, exec (.relaxedAccessPerform p n r.id) s = .next t ∧
          (t.core p).ls = d.ls ∧ (t.core p).empties = d.empties ∧ ∀ q ∈ (t.ctx p n).relaxed, q.id = r.id → q.performed = true) ∧
      ∀ e v, c.stopsAt n r.op (laddrOf r.a) r.b r.idx = some (e, v) → ∃ t, exec (.relaxedAccessPerform p n r.id) s = .next t ∧
        (t.core p).ls = c.ls ∧ (∀ q ∈ (t.ctx p n).relaxed, q.id = r.id → q.performed = true) ∧
        ∃ l ∈ (t.ctx p n).late, l.cause = causeOf e ∧ l.tval = v) ∧
    (∀ k, n < 16 → x.st = .park → x.parks = [k] → k.ended = .waiting →
      (k.kind = .retry → (∀ a b c r, k.op ≠ .rpop a b c r) →
        (∀ e v, c.stopsAt n k.op (laddrOf k.a) k.b 0 = some (e, v) → ∃ t, exec (.localRetry p n) s = .next t ∧
          (t.core p).ls = c.ls ∧ (t.core p).empties = c.empties ∧ (t.ctx p n).parks = [{ k with ended := .trapped (causeOf e) v }] ∧
          (t.core p).writes = (c.forgo k.id).writes) ∧
        (c.stopsAt n k.op (laddrOf k.a) k.b 0 = none → c.ownAccess p n k.op ⟨k.a, k.b, k.c.setWidth 256, 0⟩ = none →
          exec (.localRetry p n) s = .next s.bump) ∧
        (∀ d v, c.stopsAt n k.op (laddrOf k.a) k.b 0 = none → c.ownAccess p n k.op ⟨k.a, k.b, k.c.setWidth 256, 0⟩ = some (d, v) → ∃ t, exec (.localRetry p n) s = .next t ∧
          (t.core p).ls = d.ls ∧ (t.core p).empties = d.empties ∧ (t.ctx p n).parks = [{ k with ended := .done }] ∧
          (t.core p).writes = (d.settle k.id v (turnLast s.now)).writes)) ∧
      (∀ cause v, felimTrap k = some (cause, v) → k.cancelled = false → x.felim ≠ 0 →
        (k.turns < x.felim → exec (.felimExpiry p n) s = .next s.bump) ∧
        (x.felim ≤ k.turns → k.kind ≠ .eddy → ∃ t, exec (.felimExpiry p n) s = .next t ∧
          (t.ctx p n).parks = [{ k with ended := .trapped (causeOf cause) v }] ∧ (t.core p).writes = (c.forgo k.id).writes ∧
          (t.core p).ls = c.ls) ∧
        (x.felim ≤ k.turns → k.kind = .eddy → s.packet k.id = none → ∃ t q, exec (.felimExpiry p n) s = .next t ∧
          (t.ctx p n).parks = [{ k with cancelled := true }] ∧ Sent s t q ∧ q.body = .cancel k.id ∧
          q.src = p ∧ q.dst = s.waitTarget p n k) ∧
        ∀ q, x.felim ≤ k.turns → k.kind = .eddy → s.packet k.id = some q → (q.resend.isSome = true ∨ q.back = true) →
          ∃ t, exec (.felimExpiry p n) s = .next t ∧ (t.ctx p n).parks = [{ k with ended := .trapped (causeOf cause) v }] ∧
            ∀ j ∈ t.packets, j.id ≠ k.id) ∧
      (∀ a b d r l, k.op = .rpop a b d r → k.kind ≠ .eddy → k.cancelled = false → rpopLimit k.b = some l → l ≤ k.turns →
        ∃ t, exec (.rpopLimitExpiry p n) s = .next t ∧
          (t.ctx p n).parks = [{ k with ended := .trapped (causeOf 0x0D) (c.ringTval r.toNat ((c.ring r.toNat).getD 0)) }]) ∧
      ((keys c.ctxs).filter (fun m => m == n) = [n] → (∀ m ∈ keys c.ctxs, m ≠ n → (s.ctx p m).st ≠ .park) →
        let mask : Half := k.a.setWidth 16
        (∀ a, k.op = .bankr a → c.bankrReady n mask = true → exec (.bankHandover p) s =
          .next ((s.onCore p fun c => c.releaseBanks n (mask &&& c.banksOf n)).endWait p n k.id none).bump) ∧
        (∀ a, k.op = .bankr a → c.bankrReady n mask = false → exec (.bankHandover p) s = .next s.bump) ∧
        ∀ a, k.op = .bankw a →
          let u := s.onCore p fun c => c.takeBanks n mask
          ((u.core p).banksOf n &&& mask = mask → exec (.bankHandover p) s = .next (u.endWait p n k.id none).bump) ∧
          ((u.core p).banksOf n &&& mask ≠ mask → exec (.bankHandover p) s = .next u.bump))) ∧
    (∀ k m, n < 16 → c.ercvWait n = some (k, m) → c.portFree [ercvAddr k] = true → c.reachesAll n (ercvAddr k) 8 = false →
      ∃ t, exec (.ercvDelivery p n) s = .next t ∧ (t.core p).ls = c.ls ∧ (t.core p).msgs = c.msgs ∧
        { k with ended := .trapped (causeOf 0x06) (BitVec.ofNat 64 (ercvAddr k)) } ∈ (t.ctx p n).parks ∧
        ∀ q ∈ (t.ctx p n).parks, q.id = k.id → q.ended ≠ .waiting) ∧
    (∀ k m, n < 16 → c.ercvWait n = some (k, m) → c.portFree [ercvAddr k] = true → c.reachesAll n (ercvAddr k) 8 = true →
      ∃ t, exec (.ercvDelivery p n) s = .next t ∧ (t.core p).word (ercvAddr k) = wordAt m.data (8 * k.c.toNat) ∧
        (8 * (k.c.toNat + 1) < m.data.length → (t.core p).msgs = c.msgs) ∧
        (m.data.length ≤ 8 * (k.c.toNat + 1) → (t.core p).msgs = c.msgs.erase m ∧
          ∀ q ∈ (t.ctx p n).parks, q.id = k.id → q.ended ≠ .waiting)) ∧
    (∀ k, c.firstWaiting n false = some k →
      let enters := c.eq.length < 32 ∧ (c.tryEnter k).entered k = true ∧ (tagOf k.op = none ∨ x.tagged ≤ 64)
      ∃ t, exec (.engineQueueEnter p n) s = .next t ∧ (t.core p).hazards = (c.tryEnter k).hazards ∧
        (enters → (t.core p).eq = c.eq ++ [k] ∧ (t.core p).ewait = c.ewait.filter (·.id != k.id) ∧
          ∀ q ∈ (t.ctx p n).parks, q.id = k.id → q.ended ≠ .waiting) ∧
        (¬ enters → (t.core p).eq = c.eq ∧ (t.core p).ewait = c.ewait)) ∧
    (∀ k, cmdOf c.eq k.id = some k → (s.engineTimed p = some k ∨ s.engineFree p = some k) →
      exec (.engineCommandStart p k.id) s = .next (s.engineStart p k).bump ∧
      let t := s.engineStart p k
      ((∃ a b z f e, k.op = .cpyi a b z f e ∨ k.op = .cpyo a b z f e ∨ k.op = .cpyl a b z e ∨ k.op = .codel a b e) →
        ∃ q, t.copies = s.copies ++ [q] ∧ q.id = k.id ∧ q.core = p ∧ q.a = k.a ∧ q.b = k.b ∧ q.c = k.c ∧ q.stage = .request ∧
          q.entry = entryOf p ∧ s.now ≤ q.due) ∧
      (∀ a ch st, k.op = .tsnd a ch st → (t.core p).flits = c.flits ++ [⟨s.now, 1, some (memBytes c.ls (laddrOf k.a) 64)⟩]) ∧
      (∀ a b z mb w g st, k.op = .esnd a b z mb w g st → ∃ q, Sent s t q ∧
        q.body = .message mb.toNat w (memBytes c.ls (laddrOf k.b) k.c.toNat) ∧ q.dst = (c.fieldTarget k.ctx k.a).getD p) ∧
      ∀ q ∈ (t.core p).eq, q.id ≠ k.id) ∧
    (∀ k, cmdOf (c.eq ++ c.ewait) k.id = some k → s.engineRefused p k = true →
      (isTidal k.op = false → exec (.engineStartRefused p k.id) s =
        .next (((s.engineDone p k).engineFault p k 0x0A ((Instr.start k.op).off.setWidth 64)).endWait p k.ctx k.id none).bump) ∧
      (isTidal k.op = true → exec (.engineStartRefused p k.id) s = .next ((s.tidalRefuse p k).endWait p k.ctx k.id none).bump)) ∧
    (∀ k a b op e, c.flight k.id = some k → k.op = .sigs a b op e → k.ctx < 16 → isRemote k.a = false →
      let A := laddrOf k.a / 8 * 8
      c.portFree [A] = true → ∃ t, exec (.signalWordPerform p k.id) s = .next t ∧
        (t.core p).word A = signalVal op (s.engineWord p A) k.b ∧ (∀ q ∈ (t.core p).eflight, q.id ≠ k.id) ∧
        (look 0 (s.ctx p k.ctx).tagOut e.tag.toNat ≤ 1 → (t.ctx p k.ctx).tags.getLsbD e.tag.toNat = true)) ∧
    (∀ k a b z e q, c.flight k.id = some k → k.op = .movc a b z e → k.until_ ≤ s.now → k.ctx < 16 →
      find c.pool (k.b.toNat % 4) = some q →
      let g := k.c.toNat % 4
      ((s.core k.a.toNat).entryFree g = true → ∃ t, exec (.movcComplete p k.id) s = .next t ∧
        find (t.core k.a.toNat).pool g = some q ∧ (k.a.toNat ≠ p → find (t.core p).pool (k.b.toNat % 4) = none)) ∧
      ((s.core k.a.toNat).entryFree g = false →
        exec (.movcComplete p k.id) s = .next ((s.engineDone p k).engineFault p k 0x08 k.a).bump)) ∧
    (∀ j w, n ≠ 0 → n < 16 → firstOf (fun q => q.ctx == n) c.swapping = some j → j.was = some w → j.due ≤ s.now →
      (∀ k ∈ c.mflight, k.ctx = n → k.started = none) →
      (∀ r ∈ ((c.performAllRelaxed s.now p n).ctx n).relaxed, r.held = false ∧ (r.remote = true ∨ r.performed = true)) → ∃ t, exec (.swapComplete p n) s = .next t ∧
        (t.ctx p n).st = .out ∧ (find (t.core p).pool j.entry).isSome = true ∧ ∀ q ∈ (t.core p).swapping, q.ctx ≠ n) ∧
    ∀ e w due q, firstOf (fun r => r.1 == e) c.resuming = some (e, w, due) → find c.pool e = some q → due ≤ s.now →
      q.retided = false → ∃ t, exec (.resumeComplete p e) s = .next t ∧ find (t.core p).pool e = none ∧
        ∃ st, (t.core p).changes = c.changes ++ [.resume (c.entryWord e).1 st]
/-- R34, R223, R224, R286, R323, R343 to R345, R348, R351 to R356, R358: a copy's request is taken or sent again; its pages are looked up, and a miss is walked level by level; its pieces are served in bursts, those that write Cliffstack once all their words have come, which then are staged together (R424); staged words are written back in order; words of local stores are read at port A, and the words reach their core or a staging store, lines the code store; and it ends, with a late fault where it met a refusal. -/
def Obligations.CopiesMoveTheirWords : Prop :=
  (∀ (s : State) (k : Copy), s.copy k.id = some k →
    (k.stage = .request → k.due ≤ s.now →
      ((s.quay k.entry).service.length < 128 → ∃ t, exec (.copyServiceRequest k.id) s = .next t ∧
        (t.quay k.entry).service = (s.quay k.entry).service ++ [k.id] ∧ t.copy k.id = some { k with stage := .queued }) ∧
      (128 ≤ (s.quay k.entry).service.length → ∃ t d, exec (.copyServiceRequest k.id) s = .next t ∧
        t.copy k.id = some { k with due := d } ∧ s.now + 18 ≤ d ∧ t.quays = s.quays)) ∧
    (∀ q rest, (s.quay q).service = k.id :: rest → k.stage = .queued →
      (∀ cause v, s.lookUp k k.touches k.pages = .refused cause v → ∃ t, exec (.copyTranslate q) s = .next t ∧
        (t.quay q).service = rest ∧ t.copy k.id = some { k with fault := some (causeWord cause true 0 0 0, v), stage := .ended }) ∧
      (∀ pages va, s.lookUp k k.touches k.pages = .miss pages va → (s.rootOf k va).isSome = true →
        ∃ t w, exec (.copyTranslate q) s = .next t ∧ (t.quay q).service = k.id :: rest ∧
          t.copy k.id = some { k with pages := pages, walk := some w, stage := .translating } ∧ ∃ u ∈ t.walks, u.id = w) ∧
      (∀ pages, s.lookUp k k.touches k.pages = .all pages → ∃ t l r, exec (.copyTranslate q) s = .next t ∧
        t.copy k.id = some { k with pages := pages, stage := .moving, toSend := l, reads := k.reads ++ r } ∧ (k.writes = false → r = []) ∧
        (l = [] → (t.quay q).service = rest) ∧ (l ≠ [] → (t.quay q).service = k.id :: rest))) ∧
    (∀ m, k.moves = [m] → m.due ≤ s.now → k.stage ≠ .ended → k.toLocal = true →
      ((s.core m.core).frozen = false ∨ k.core = m.core ∧ k.ctx = 0) → (s.core m.core).portFree [m.laddr] = true →
      ((s.remoteSide k true).isSome = false ∨ s.refusesWord m.core k.core k.launch m.laddr = false →
        ∃ t, exec (.copyWordWrite k.id) s = .next t ∧ (t.core m.core).word m.laddr = m.val ∧ t.copy k.id = some { k with moves := [] } ∧
          ∀ b, b < m.laddr ∨ m.laddr + 8 ≤ b → memGet (t.core m.core).ls b = memGet (s.core m.core).ls b) ∧
      ((s.remoteSide k true).isSome = true → s.refusesWord m.core k.core k.launch m.laddr = true →
        exec (.copyWordWrite k.id) s = .next (s.refuseCopy k k.a m.laddr).bump)) ∧
    (let mine := k.moves.filter fun m => m.laddr / 64 * 64 == k.next && decide (m.due ≤ s.now)
     8 ≤ mine.length → ∃ t, exec (.codelLineWrite k.id) s = .next t ∧
      (k.next ∉ k.badLines → find (t.core k.core).code (k.next / 64 % 2048) =
        some ⟨k.next / 131072 % 2 ^ 31, ((sortBy (·.laddr) mine).map fun m => bytesOf 8 m.val.toNat).flatten⟩) ∧
      (k.next ∈ k.badLines → find (t.core k.core).code (k.next / 64 % 2048) = none) ∧
      ∀ i, i ≠ k.next / 64 % 2048 → find (t.core k.core).code i = find (s.core k.core).code i) ∧
    (s.copyDone k = true → exec (.copyComplete k.id) s = .next (s.endCopy k).bump ∧ ∀ q ∈ (s.endCopy k).copies, q.id ≠ k.id) ∧
    (s.copyDone k = false → exec (.copyComplete k.id) s = .next s.bump) ∧
    ∀ cause v, k.fault = some (cause, v) → ∃ t, exec (.copyFault k.id) s = .next t ∧ (∀ q ∈ t.copies, q.id ≠ k.id) ∧
      let n := (s.copyCmd k).ctx
      (n < 16 → (t.ctx k.core n).late = (s.ctx k.core n).late ++ [⟨.engine s.now ((tagOf k.op).getD 0), cause, v, s.now⟩])) ∧
  (∀ (s : State) (w : Walk), firstOf (fun u => u.id == w.id) s.activeWalks = some w →
    let e := s.stackWord w.entryAddr
    (s.badCode w.entryAddr = true → exec (.translationWalk w.id) s = .next (s.endWalk w fun _ => .error (0x11, 5)).bump) ∧
    (s.badCode w.entryAddr = false →
      (∀ r, readEntry w.instr w.level e = .bad r →
        exec (.translationWalk w.id) s = .next (s.endWalk w fun _ => .error (0x11, r)).bump) ∧
      (∀ l, readEntry w.instr w.level e = .leaf l → ∃ t, exec (.translationWalk w.id) s = .next t ∧ (∀ u ∈ t.walks, u.id ≠ w.id)) ∧
      ∀ tb, readEntry w.instr w.level e = .next tb → ∃ t, exec (.translationWalk w.id) s = .next t ∧
        { w with level := w.level - 1, table := tb, since := s.now } ∈ t.walks ∧ t.copies = s.copies)) ∧
  ∀ (s : State) (q : Nat),
    let u := s.quay q
    (∀ p k, (u.grants.1 ≠ 0 ∨ u.grants.2.1 ≠ 0) → s.headPiece q (decide (u.grants.1 = 0)) = some p → s.copy p.copy = some k →
      (s.ripe q p = true →
        let b := p.burst k.pieceKey
        ∃ t : State, exec (.pieceServe q) s = .next (t.serveBurst q k p.order b.1 b.2.isEmpty).bump ∧ t.cores = s.cores ∧
          t.cliff = s.cliff ∧ t.copies = s.copies ∧ (t.quay q).staging = u.staging ∧
          (t.quay q).grants.1 + (t.quay q).grants.2.1 + 1 = u.grants.1 + u.grants.2.1) ∧
      (s.ripe q p = false → ∃ t, exec (.pieceServe q) s = .next t ∧ t.cores = s.cores ∧ t.cliff = s.cliff ∧ t.copies = s.copies ∧
        (t.quay q).staging = u.staging ∧ (t.quay q).pieces = u.pieces)) ∧
    (∀ p k, s.copy p.copy = some k → k.writes = true → s.ripe q p = true → ∀ w ∈ p.words, ∃ m ∈ k.moves,
      m.core = q ∧ m.laddr = w.2 ∧ m.due ≤ s.now) ∧
    (∀ w rest, u.staging = w :: rest → u.grants.1 ≠ 0 → (∀ v ∈ rest, v.pa + 8 ≤ w.pa ∨ w.pa + 8 ≤ v.pa) →
      ∃ t, exec (.stagingWriteback q) s = .next t ∧ t.stackWord w.pa = w.val ∧
        (t.quay q).staging = rest.drop (rest.takeWhile fun v => v.pa / 64 == w.pa / 64).length ∧
        ∀ k ∈ t.copies, w.pa ∉ k.drains) ∧
    (∀ t, s.nextGrant q 9 = (none, t) → exec (.channelPairRound q) s = .next t.bump) ∧
    (∀ cl t, s.nextGrant q 9 = (some cl, t) → exec (.channelPairRound q) s =
      .next ((t.onQuay q fun u => { u with grants := match cl with | 0 => (1, 0, 0) | 1 => (0, 1, 0) | _ => (0, 0, 1) }).granted q cl).bump) ∧
    ∀ (k : Copy) (a b c : SReg) (f : Bool) (e : Eng) (r : Nat), s.copy k.id = some k →
      (k.op = .cpyo a b c f e → ∀ p : Piece, ∀ w ∈ p.words, ∃ x, (s.joinPiece k.id p).copy k.id = some x ∧ ∃ m ∈ x.reads,
        m.core = k.core ∧ m.laddr = w.1 ∧ m.dst = w.2 ∧ m.row = p.order ∧ m.quay = p.quay ∧ s.now < m.due) ∧
      (k.op = .cpyi a b c f e → ∀ ws last, ∀ w ∈ ws, ∃ x, (s.serveBurst q k r ws last).copy k.id = some x ∧ ∃ m ∈ x.moves,
        m.laddr = w.2 ∧ m.row = r ∧ m.val = s.pieceWord w.1 ∧ s.now < m.due) ∧
      (∀ m, firstOf (fun j => j.id == m.id) k.reads = some m →
        ((s.remoteSide k false).isSome = false ∨ s.refusesWord m.core k.core k.launch m.laddr = false →
          ∃ x, (s.readWord k.id m.id).copy k.id = some x ∧ x.reads = k.reads.filter (·.id != m.id) ∧ ∃ v, x.moves = k.moves ++ [v] ∧
            v.laddr = m.dst ∧ v.row = m.row ∧ v.val = s.copied k m (s.engineWord m.core m.laddr) ∧ s.now < v.due) ∧
        ((s.remoteSide k false).isSome = true → s.refusesWord m.core k.core k.launch m.laddr = true →
          s.readWord k.id m.id = s.refuseCopy k k.b m.laddr)) ∧
      ∀ ws, k.op = .cpyo a b c f e →
        let t := s.serveBurst q k r ws true
        let l := k.gathered q r ((ws.headD (0, 0)).2 / 256)
        ∀ m ∈ l, (∀ n ∈ l, n.laddr = m.laddr → n = m) →
          (∃ g ∈ (t.quay q).staging, g.pa = m.laddr ∧ g.val = m.val) ∧ (∀ g ∈ (t.quay q).staging, g.pa = m.laddr → g.val = m.val) ∧
          ∃ x, t.copy k.id = some x ∧ m ∉ x.moves ∧ (f = true → m.laddr ∈ x.drains)
/-- R227, R228, R237, R245, R249, R252, R253, R254, R288, R362, R364, R365, R371: Spindrift records, sweeps and commands; a flit leaves its router by the outputs that name its input, is delivered, or is stray; a re-tide's instant; and flits and credits of link channels. -/
def Obligations.CoveTidalAndLinkEvents : Prop :=
  (∀ (s : State) (cove p : Nat) (k : Cmd) (a : Nat), s.sdLane cove false = some (p, k) → k.sdNext = some a →
    (∃ x y z e, k.op = .sdldCell x y z e ∨ k.op = .sdldCoup x y e ∨ k.op = .sdldBridge x y e) → (s.core p).portFree [a] = true →
    (∀ v, (s.cove cove).applyRecord cove k (s.engineWord p a) = .ok v → ∃ t, exec (.sdldRecordApply cove) s = .next t ∧
      (t.cove cove).cells = v.cells ∧ (k.pos + 1 < k.b.toNat → ∃ q ∈ (t.core p).eflight, q.id = k.id ∧ q.pos = k.pos + 1) ∧
      (k.b.toNat ≤ k.pos + 1 → ∀ q ∈ (t.core p).eflight, q.id ≠ k.id)) ∧
    (∀ r, (s.cove cove).applyRecord cove k (s.engineWord p a) = .error r → ∃ t, exec (.sdldRecordApply cove) s = .next t ∧
      (t.cove cove).cells = (s.cove cove).cells ∧ (∀ q ∈ (t.core p).eflight, q.id ≠ k.id) ∧
      (k.ctx < 16 → ∃ l : Late, (t.ctx p k.ctx).late = (s.ctx p k.ctx).late ++ [l] ∧ l.cause = causeWord 0x14 true 0 0 0 ∧
        l.tval = BitVec.ofNat 64 (a + 2 ^ 56 * r)))) ∧
  (∀ (s : State) (cove : Nat) (w : Sweep), (s.cove cove).sweep = some w →
    let first := w.first + 40 * w.s
    (s.now = first → ∃ t, exec (.spindriftSweep cove) s = .next t ∧ (t.cove cove).cells = (s.cove cove).cells ∧
      (w.s = 0 → (t.cove cove).active = (s.cove cove).shadow ∧ (t.cove cove).beta = (s.cove cove).shadowBeta) ∧
      (w.s ≠ 0 → (t.cove cove).active = (s.cove cove).active ∧ (t.cove cove).beta = (s.cove cove).beta)) ∧
    (∀ c < 8, s.now = first + 4 + 4 * c → ∃ t, exec (.spindriftSweep cove) s = .next t ∧
      (t.cove cove).sweep = some { w with next := (s.covePhase cove w c).1 } ∧ (t.cove cove).g = (s.covePhase cove w c).2 ∧
      (t.cove cove).cells = (s.cove cove).cells) ∧
    (s.now = first + 39 → ∃ t, exec (.spindriftSweep cove) s = .next t ∧ (t.cove cove).cells = (s.cove cove).count.cells ∧
      (w.n ≤ w.s + 1 → (t.cove cove).sweep = none) ∧
      (w.s + 1 < w.n → ∃ u, (t.cove cove).sweep = some u ∧ u.s = w.s + 1 ∧ u.first = w.first ∧ u.n = w.n))) ∧
  (∀ (s : State) (cove p l : Nat) (k : Cmd), (s.cove cove).owner = some (p, l) → (s.core p).flight k.id = some k → k.until_ ≤ s.now →
    ∃ t, exec (.spindriftCommandComplete cove k.id) s = .next t ∧ (∀ q ∈ (t.core p).eflight, q.id ≠ k.id) ∧
      (t.cove cove).cells = (s.cove cove).cells ∧
      ∀ g, tagOf k.op = some g → g < 64 → k.ctx < 16 → look 0 (s.ctx p k.ctx).tagOut g ≤ 1 → (t.ctx p k.ctx).tags.getLsbD g = true) ∧
  (∀ (s : State) (p : Nat) (f : Flit),
    let c := s.core p
    let e := c.routeAt s.now
    (∀ d q, c.flits = [f] → f.cycle = s.now → d ∈ [2, 3, 4, 5] → (∀ o ∈ [2, 3, 4, 5], routeField e o = f.input ↔ o = d) →
      tidalWay p d = .core q → q ≠ p → ∃ t, exec (.tidalFlitHop p) s = .next t ∧ (t.core p).flits = [] ∧
        (t.core q).flits = (s.core q).flits ++ [⟨s.now + 1, facing d, f.data⟩]) ∧
    (f ∈ c.flits → f.cycle = s.now → (∀ o ∈ [1, 2, 3, 4, 5], routeField e o ≠ f.input) → ∃ t, exec (.strayFlitDiscard p f.input) s = .next t ∧
      f ∉ (t.core p).flits ∧ (t.core p).pending.own = c.pending.own ++
        [(0x1E, BitVec.ofNat 64 (2 ^ 63 + 2 ^ 62 + 2 ^ 16 * f.input + 256 * c.slotAt s.now))]) ∧
    (∀ ch, c.delivered_ s.now = some (ch, f) → c.eflight = [] → ∃ t, exec (.tidalFlitDelivery p) s = .next t ∧
      (t.core p).pending.own = c.pending.own ++ [(0x1E, BitVec.ofNat 64 (2 ^ 63 + ch))] ∧ (t.core p).ls = c.ls) ∧
    (∀ ch k a tg st bs, c.delivered_ s.now = some (ch.toNat, f) → c.eflight = [k] → k.op = .trcv a ch tg st → k.started = some s.now →
      k.pos = 0 → k.ctx < 16 → f.data = some bs → bs.length = 64 → laddrOf k.a % 64 = 0 →
      c.portFree ((upTo 8).map fun n => laddrOf k.a + 8 * n) = true →
      ∃ t, exec (.tidalFlitDelivery p) s = .next t ∧ (t.core p).ls = c.ls ∧ (t.core p).pending.own = c.pending.own ∧
        ∃ q, (t.core p).flight k.id = some q ∧ q.pos = 1 ∧ q.data.map (·.1) = ((upTo 8).map fun n => laddrOf k.a + 8 * n) ∧
          memBytes ((t.writeFlit p q).core p).ls (laddrOf k.a) 64 = bs ∧
          ∀ b, b < laddrOf k.a ∨ laddrOf k.a + 64 ≤ b → memGet ((t.writeFlit p q).core p).ls b = memGet c.ls b)) ∧
  (∀ (s : State) (p : Nat),
    let c := s.core p
    c.retide = some s.now → (∀ k ∈ c.eq ++ c.ewait ++ c.mq ++ c.mwait, k.timed = false) → c.swapping = [] →
    ∃ t, exec (.retideInstant p) s = .next t ∧ (t.core p).routes = c.shadow ∧ (t.core p).tideBase = s.now ∧ (t.core p).retide = none ∧
      (∀ n ∈ keys c.ctxs, (t.ctx p n).base = s.now) ∧ (t.core p).ls = c.ls) ∧
  ∀ (s : State) (port ch : Nat) (bs : List Byte),
    (∀ d, firstOf s.linkReady (s.round port (s.portChans port)) = some d → s.linkMayRead d = false → exec (.linkFlitSend port) s = .next s.bump) ∧
    (∀ d id rest p k, firstOf s.linkReady (s.round port (s.portChans port)) = some d → s.linkMayRead d = true → d ∈ s.portChans port →
      (s.link port d.1).senders = id :: rest → s.linkCore port id = some p → (s.core p).flight id = some k →
      (port < 16 → s.hub.linkUp (4 + port) = true → portSlots s.now = 1 →
        (∀ o ∈ s.linkOut, o.2.1 = port → o.2.2.1 ≠ 256) →
        ∃ t, exec (.linkFlitSend port) s = .next t ∧ (t.link port d.1).sent = (s.link port d.1).sent ++ [id] ∧
          t.linkOut = s.linkOut ++ [(s.now + s.hub.linkLat (4 + port), port, d.1, memBytes (s.core p).ls (laddrOf k.a + 64 * k.pos) 64)]) ∧
      (16 ≤ port → 64 * k.pos + 64 ≤ linkBytes k.c → ∃ t n lat, exec (.linkFlitSend port) s = .next t ∧
        1 ≤ n ∧ n ≤ 64 ∧ 64 * (k.pos + n) ≤ linkBytes k.c ∧ (s.link port d.1).sent.length + n ≤ d.2.2.1 ∧
        (t.link port d.1).sent = (s.link port d.1).sent ++ List.replicate n id ∧
        t.linkOut = s.linkOut ++ [(s.now + lat, port, d.1, memBytes (s.core p).ls (laddrOf k.a + 64 * k.pos) (64 * n))])) ∧
    (port < 16 → portSlots s.now ≤ (s.linkOut.filter fun o => o.2.1 == port && o.2.2.1 == 256 &&
      o.1 == s.now + s.hub.linkLat (4 + port)).length → exec (.linkFlitSend port) s = .next s.bump) ∧
    (port < 16 → ∃ t, exec (.linkFlitArrival port 256 bs) s = .next t ∧ ∃ f : Flit, (t.core (strandCore port)).flits =
      (s.core (strandCore port)).flits ++ [f] ∧ f.cycle = s.now + 1 ∧ f.data = if bs = [] then none else some bs) ∧
    (ch ≠ 256 → bs ≠ [] → ∃ t, exec (.linkFlitArrival port ch bs) s = .next t ∧
      (t.link port ch).recv = (s.link port ch).recv ++ (flitsOf 64 bs).map fun w => (s.now, w)) ∧
    (∀ p at_ w more id rest k a c e, ch ≠ 256 → (s.link port ch).recv = (at_, w) :: more → (s.link port ch).posted = id :: rest →
      s.linkCore port id = some p → (s.core p).flight id = some k → k.op = .lrcv a c e → k.ctx < 16 → w.length = 64 →
      (s.core p).portFree k.flitWords = true → ∃ t, exec (.linkFlitArrival port ch []) s = .next t ∧
        memBytes (t.core p).ls (laddrOf k.a + 64 * k.pos) 64 = w ∧ (t.link port ch).recv = more) ∧
    ∀ p id rest, s.linkCore port id = some p → (s.link port ch).sent = id :: rest → ∃ t, exec (.linkCreditReturn port ch) s = .next t ∧
      (t.link port ch).sent = rest ∧ (id ∉ rest → id ∉ (s.link port ch).senders → ∀ q ∈ (t.core p).eflight, q.id ≠ id)
/-! ## Events of the Lighthouse, launches, queues and the package (R280 to R443) -/

/-- R23, R33, R280, R326 to R328, R334, R337 to R339, R385, R432: traps at a context's turn, C0's timer, an uncorrectable error, a migration's copies, the core-control commands, and a core's logs, checkpoint, mark and replay. That a worker's own CAUSE names it in SRC is the model's reading (log 37). -/
def Obligations.CoreEventsOfTheHub : Prop :=
  ∀ (s : State) (p : Nat),
    let c := s.core p
    (∀ n epc cause tval y, (s.ctx p n).st = .run → (s.ctx p n).pickTrap s.now = some (epc, cause, tval, y) →
      (n ≠ 0 → cause.toNat % 256 ≠ 0x1D → ∃ t, exec (.workerTrapTaken p n) s = .next t ∧
        (t.ctx p n).epc = epc.getD (s.ctx p n).next ∧ (t.ctx p n).cause = cause ||| (BitVec.ofNat 64 n <<< 8) ∧
        (t.ctx p n).tval = tval ∧ (t.ctx p n).st = .stop ∧ (t.ctx p n).late = y.late ∧ (t.ctx p n).backlog = y.backlog ∧
        (t.core p).pending.workers = c.pending.workers ++ [(n, cause ||| (BitVec.ofNat 64 n <<< 8), tval)] ∧ (t.core p).ls = c.ls) ∧
      (n = 0 → ∃ t, exec (.c0TrapToLighthouse p) s = .next t ∧ (t.ctx p 0).epc = epc.getD (s.ctx p 0).next ∧
        (t.ctx p 0).cause = cause ∧ (t.ctx p 0).tval = tval ∧ (t.ctx p 0).st = .stop ∧ (t.ctx p 0).late = y.late ∧
        (t.core p).delivered.isSome = true ∧ (t.core p).handler = c.handler ∧ (t.core p).pending = c.pending)) ∧
    (c.timer.getLsbD 63 = true → c.timer.extractLsb' 0 32 = 1 → ∃ t, exec (.c0TimerExpiry p) s = .next t ∧
      (t.core p).timer = (1 : DWord) <<< 62 ∧ (t.core p).pending = { c.pending with timer := true } ∧ (t.core p).ctxs = c.ctxs) ∧
    (∀ n a, n ≠ 0 → (s.ctx p n).st = .run → ∃ t, exec (.uncorrectableLsError p n a) s = .next t ∧
      (t.ctx p n).st = .stop ∧ (t.ctx p n).mmode = true ∧ (t.ctx p n).cause = 0x1D ||| (BitVec.ofNat 64 n <<< 8) ∧
      (t.ctx p n).tval = BitVec.ofNat 64 (a % 2 ^ 19 / 8 * 8) ∧ (t.ctx p n).epc = (s.ctx p n).next ∧
      a % 2 ^ 19 / 8 * 8 ∈ (t.core p).poison ∧ (t.core p).pending = c.pending ∧ (t.core p).ls = c.ls) ∧
    (∀ q f logical due, c.migration = some ⟨q, f, some (logical, due)⟩ → due ≤ s.now → ∃ t, exec (.migrationStateCopy p) s = .next t ∧
      (t.core q).ks = c.ks ∧ (t.core q).ws = c.ws ∧ (t.core q).claims = c.claims ∧ (t.core q).rings = c.rings ∧
      (t.core q).deque = c.deque ∧ (t.core q).chain = c.chain ∧ (t.core q).ready = c.ready ∧ (t.core p).migration = none ∧
      (t.core q).ls = (s.core q).ls ∧ (t.core q).code = (s.core q).code ∧ (t.core q).routes = (s.core q).routes) ∧
    (∀ (b : Bool) (mode : HartMode), c.delivered = some b → mode = (if b then .supervisor else .machine) →
      (∃ t, exec (.coreControlRestartEpc mode p) s = .next t ∧ (t.ctx p 0).next = (s.ctx p 0).epc ∧
        (t.core p).changes = c.changes ++ [.resume 0 .run] ∧ (t.core p).handler = c.handler ∧ t.hub.ctlStatus = 0) ∧
      (∃ t, exec (.coreControlRestartData mode p) s = .next t ∧ (t.ctx p 0).next = s.hub.ctlData ∧
        (t.core p).changes = c.changes ++ [.resume 0 .run] ∧ (t.core p).handler = c.handler ∧ t.hub.ctlStatus = 0)) ∧
    (∀ (b : Bool) (mode : HartMode), c.delivered = none ∨ (c.delivered = some b ∧ mode = (if b then .machine else .supervisor)) →
      ∀ e ∈ [Instr.coreControlRestartEpc mode p, .coreControlRestartData mode p], ∃ t, exec e s = .next t ∧
        t.hub.ctlStatus = 2 ∧ t.cores = s.cores) ∧
    (∃ t, exec (.coreControlSetDeleg .machine p) s = .next t ∧ (t.core p).deleg = s.hub.ctlData &&& ~~~((1 : DWord) <<< 0x1D) ∧
      t.hub.ctlStatus = 0 ∧ (t.core p).ctxs = c.ctxs) ∧
    (∀ mode ∈ [HartMode.supervisor, .port], ∃ t, exec (.coreControlSetDeleg mode p) s = .next t ∧ t.hub.ctlStatus = 2 ∧ t.cores = s.cores) ∧
    (∀ mode ∈ [HartMode.supervisor, .machine], ∃ t, exec (.coreControlMigration mode p) s = .next t ∧ t.hub.ctlStatus = 0 ∧
      (t.core p).pending = { c.pending with migration := c.pending.migration ++ [s.hub.ctlData] }) ∧
    (∃ t, exec (.coreControlMigration .port p) s = .next t ∧ t.hub.ctlStatus = 2 ∧ t.cores = s.cores) ∧
    (∃ t, exec (.logDrain p) s = .next t ∧ (t.core p).recvs = [] ∧ (t.core p).traces = [] ∧
      t.hub.drained = s.hub.drained ++ c.recvs.map (fun r => (p, r)) ∧ (t.core p).ls = c.ls ∧ (t.core p).ctxs = c.ctxs ∧
      ∀ i a, c.logLaunch = some i → find s.hub.replayAt i = some a →
        let bs := (c.recvs.map Receive.stored).flatten ++ (((c.traces.map (·.2)).flatten).map traceBytes).flatten
        memBytes t.cliff a bs.length = bs ∧ find t.hub.replayAt i = some (a + bs.length)) ∧
    (∃ t, exec (.hubSnapshot p) s = .next t ∧ find t.hub.snapshots p = some ⟨s.now, c, s.cove (shoreKey p), s.carried p⟩ ∧
      (t.core p).ctxs = c.ctxs ∧ (t.core p).ls = c.ls) ∧
    (c.launches = [] → ∃ t, exec (.degradedCoreDetect p) s = .next t ∧ t.core p = { c with degraded := true } ∧ t.hub = s.hub) ∧
    (c.launches ≠ [] → s.active = true → ∃ t v, exec (.degradedCoreDetect p) s = .next t ∧ (t.core p).degraded = true ∧
      (t.core p).launches = c.launches.map (fun (l : CoreLaunch) => { l with failure := some (l.failure.getD s.now) }) ∧
      t.hub.mNotices = s.hub.mNotices ++ [(3, BitVec.ofNat 64 p)] ∧
      (v = 0xFFFF ∨ (isOrdinary v = true ∧ s.spare (BitVec.ofNat 64 v) = true ∧ v ≠ p)) ∧
      (t.core p).pending.migration = c.pending.migration ++ [BitVec.ofNat 64 (v + 2 ^ 16 * 3 + 2 ^ 32 * shoreOf p)]) ∧
    (∀ r rest u, c.replaying = true → c.replay = (s.now, r) :: rest → c.latch ≠ some s.now → s.replayOne p r = some u →
      ∃ t, exec (.replayReceive p) s = .next t ∧ t.core p = { u.core p with replay := rest }) ∧
    (∀ r, r.what = none → r.kind = 0x06 → r.gap = false → r.bytes ≠ [] → ∃ u, s.replayOne p r = some u ∧
      memBytes (u.core p).ls r.laddr.toNat r.bytes.length = r.bytes) ∧
    (∀ n r rest, c.replaying = true → c.replay = (n, r) :: rest → c.latch ≠ some s.now →
      (n < s.now ∨ n = s.now ∧ (r.gap = true ∨ r.bare = true ∨ r.kind = 0x0B)) →
      ∃ t, exec (.replayReceive p) s = .next t ∧ (t.core p).replaying = false ∧ (t.core p).replay = [] ∧
        t.hub.mNotices = s.hub.mNotices ++ [(4, BitVec.ofNat 64 p)])
/-- R357, R378, R379, R383 to R385, R405, R428, R430, R431: a shootdown and its end; a hart's registers of the hub, its loads, stores and atomics, its timer and its beat; a watch that fails, whose other restarts its supervisor at an entry that the model leaves free (log 71); the clock step and the dies asked for; and the management port. -/
def Obligations.HartsAndPortAccesses : Prop :=
  ∀ s : State,
    ((s.hub.sdStatus.getLsbD 0 = true → ∃ t, exec .shootdownGo s = .next t ∧ t.hub.sdStatus = s.hub.sdStatus ||| 4 ∧
        t.quays = s.quays ∧ t.walks = s.walks) ∧
      (s.hub.sdStatus.getLsbD 0 = false → ∃ t, exec .shootdownGo s = .next t ∧ t.hub.sdStatus = 1 ∧
        (∀ q e, e ∈ (t.quay q).tlb ↔ e ∈ (s.quay q).tlb ∧ s.hub.shoots e.space e.instr (e.va / 2 ^ e.sz * 2 ^ e.sz) (2 ^ e.sz) = false) ∧
        (∀ w ∈ t.walks, w.level < 6 → s.hub.shoots w.space w.instr (w.va / 2 ^ 38 * 2 ^ 38) (2 ^ 38) = false) ∧
        (∀ w ∈ s.walks, (w ∈ t.walks ∨ { w with level := 6, table := w.root, since := s.now } ∈ t.walks)) ∧
        (∀ k ∈ s.copies, s.shotCopy k = true → k.id ∈ t.hub.sdWait) ∧ t.cliff = s.cliff) ∧
      (s.hub.sdStatus.getLsbD 0 = true → (∀ k ∈ s.copies, k.id ∉ s.hub.sdWait) → ∃ t, exec .shootdownComplete s = .next t ∧
        t.hub.sdStatus = (s.hub.sdStatus &&& 4) ||| 2 ∧ t.hub.sdWait = []) ∧
      (∀ k ∈ s.copies, k.id ∈ s.hub.sdWait → exec .shootdownComplete s = .next s.bump)) ∧
    ((∀ mode off v, off < 0x1000000 → s.hubStore mode off v = none → exec (.hubRegisterWrite mode off v) s = .next s.bump) ∧
      (∀ mode ∈ [HartMode.machine, .supervisor], ∀ v,
        (∃ t, exec (.hubRegisterWrite mode 0x20008 v) s = .next t ∧ t.hub = { s.hub with ctlData := v }) ∧
        (s.hub.debug ≠ 0 → ∃ t, exec (.hubRegisterWrite .port 0x20008 v) s = .next t ∧ t.hub = { s.hub with ctlData := v }) ∧
        (s.hub.debug = 0 → exec (.hubRegisterWrite .port 0x20008 v) s = .next s.bump) ∧
        (∃ t, exec (.hubRegisterWrite mode 0x30000 v) s = .next t ∧ t.hub = { s.hub with sdSel := v &&& 0x7FFFF }) ∧
        (∃ t, exec (.hubRegisterWrite mode 0x30008 v) s = .next t ∧ t.hub = { s.hub with sdVa := v &&& ~~~0xFFF }) ∧
        (∃ t, exec (.hubRegisterWrite mode 0x400008 v) s = .next t ∧ t.hub = { s.hub with notice := { s.hub.notice with tail := v.setWidth 32 } })) ∧
      (∀ q v, q < 1024 → (s.queue q).state = 0 → ∃ t, exec (.hubRegisterWrite .supervisor (0x100000 + 128 * q + 0x10) v) s = .next t ∧
        (t.queue q).ring = v &&& ~~~0xFFF ∧ (t.queue q).state = 0 ∧ ∀ k, k ≠ q → t.queue k = s.queue k) ∧
      (∀ h v, h < 8 → exec (.hubRegisterWrite .supervisor (0x10000 + 8 * h) v) s = .next s.bump ∧
        ∃ t, exec (.hubRegisterWrite .machine (0x10000 + 8 * h) v) s = .next t ∧ (look Hart.reset t.hub.harts h).mtimecmp = v)) ∧
    (∀ hart mode pa n, hart < 8 → (s.hart hart).halted = false → (s.watchOf (hart / 4)).inReset = false →
      let h := s.hart hart
      let load (n : Nat) : Instr := .lighthouseLoadStore hart mode pa (.load n)
      let store (bs : List Byte) : Instr := .lighthouseLoadStore hart mode pa (.store bs)
      (n ∈ [1, 2, 4, 8] → pa % n = 0 → pa + n ≤ cliffSize → s.badRange pa n = false → h.pmpOk mode .load pa n = true →
        ∃ t, exec (load n) s = .next t ∧ (t.hart hart).result = BitVec.ofNat 64 (memRead s.cliff pa n) ∧
          (t.hart hart).fault = false ∧ (t.hart hart).misaligned = false ∧ t.cliff = s.cliff) ∧
      (∀ bs : List Byte, bs.length = n → n ∈ [1, 2, 4, 8] → pa % n = 0 → pa + n ≤ cliffSize → h.pmpOk mode .store pa n = true →
        ∃ t, exec (store bs) s = .next t ∧ memBytes t.cliff pa n = bs ∧ (t.hart hart).fault = false ∧
          ∀ b, b < pa ∨ pa + n ≤ b → memGet t.cliff b = memGet s.cliff b) ∧
      (n ∈ [2, 4, 8] → pa % n ≠ 0 → ∃ t, exec (load n) s = .next t ∧ (t.hart hart).misaligned = true ∧
        (t.hart hart).pc = (h.trap mode false 4 (BitVec.ofNat 64 pa)).pc ∧ (t.hart hart).csrs = (h.trap mode false 4 (BitVec.ofNat 64 pa)).csrs ∧
        (t.hart hart).result = h.result ∧ t.cliff = s.cliff) ∧
      (n ∈ [1, 2, 4, 8] → pa % n = 0 → h.pmpOk mode .load pa n = false → ∃ t, exec (load n) s = .next t ∧ (t.hart hart).fault = true ∧
        (t.hart hart).pc = (h.trap mode false 5 (BitVec.ofNat 64 pa)).pc ∧ (t.hart hart).csrs = (h.trap mode false 5 (BitVec.ofNat 64 pa)).csrs ∧
        (t.hart hart).result = h.result ∧ t.cliff = s.cliff) ∧
      (∀ bs : List Byte, bs.length = n → n ∈ [1, 2, 4, 8] → pa % n = 0 → h.pmpOk mode .store pa n = false →
        ∃ t, exec (store bs) s = .next t ∧ (t.hart hart).fault = true ∧
          (t.hart hart).csrs = (h.trap mode false 7 (BitVec.ofNat 64 pa)).csrs ∧ t.cliff = s.cliff) ∧
      (mode = .machine → ∀ code v, let k := h.trap mode false code v
        k.pc = h.csr 0x305 &&& ~~~3 ∧ k.csr 0x341 = h.pc &&& ~~~1 ∧ k.csr 0x342 = BitVec.ofNat 64 code ∧ k.csr 0x343 = v ∧ k.mode = .machine) ∧
      (∀ v, pa % 8 = 0 → pa + 8 ≤ cliffSize → s.badRange pa 8 = false → h.pmpOk mode .load pa 8 = true → h.pmpOk mode .store pa 8 = true →
        ∃ t, exec (.lighthouseLoadStore hart mode pa (.amo true 0 v)) s = .next t ∧
          (t.hart hart).result = s.stackWord pa ∧ t.stackWord pa = s.stackWord pa + v) ∧
      (∀ v, pa % 8 = 0 → pa + 8 ≤ cliffSize → h.pmpOk mode .store pa 8 = true →
        (h.reservation = some (pa, true) → ∃ t, exec (.lighthouseLoadStore hart mode pa (.sc true v)) s = .next t ∧ (t.hart hart).result = 0 ∧
          t.stackWord pa = v ∧ (t.hart hart).reservation = none) ∧
        (h.reservation ≠ some (pa, true) → ∃ t, exec (.lighthouseLoadStore hart mode pa (.sc true v)) s = .next t ∧ (t.hart hart).result = 1 ∧
          t.cliff = s.cliff ∧ (t.hart hart).reservation = none)) ∧
      (0x8000400000 ≤ pa → pa + 8 ≤ 0x8001000000 → pa % 8 = 0 → ∃ t, exec (load 8) s = .next t ∧
        (t.hart hart).fault = true ∧ (t.hart hart).result = h.result)) ∧
    (∀ n, s.hartRuns n = true →
      (∀ i, s.hartIrq n = some i → s.hartStep n = s.onHart n fun h => h.trap h.mode true i 0) ∧
      (s.hartIrq n = none →
        (∀ e, s.hartFetch n = .error e → s.hartStep n = s.onHart n fun h => h.trap h.mode false e.1 e.2) ∧
        (∀ t, s.hartFetch n = .ok (0, 2, t) → s.hartStep n = t.onHart n fun h => h.trap h.mode false 2 0) ∧
        ∀ t rd rs imm, 0 < rd → rd < 32 → rs < 32 → imm < 4096 → s.hartFetch n = .ok (rvI 0x13 rd 0 rs imm, 4, t) →
          let h := (s.hartStep n).hart n
          h.pc = (t.hart n).pc + 4 ∧ h.x rd = (t.hart n).x rs + BitVec.ofNat 64 (sextNat 12 64 imm) ∧
            h.mode = (t.hart n).mode ∧ ∀ r, r ≠ rd → h.x r = (t.hart n).x r)) ∧
    (∀ n, s.hartRuns n = false → s.hartStep n = s) ∧
    (∀ hart, ∃ t, exec (.mtimecmpMatch hart) s = .next t ∧
      ((look Hart.reset t.hub.harts hart).timerPending = true ↔ (look Hart.reset s.hub.harts hart).mtimecmp.toNat ≤ s.now % 2 ^ 64) ∧
      t.cores = s.cores) ∧
    (∀ hart v, (s.watchOf (hart / 4)).inReset = false → ∃ t, exec (.heartbeat hart v) s = .next t ∧
      t.watchOf (hart / 4) = { s.watchOf (hart / 4) with beats := (s.watchOf (hart / 4)).beats + 1, lastBeat := s.hub.hartClock s.now }) ∧
    (∀ w < 2, (s.watchOf w).booted = true → ∃ t, exec (.watchFailure w) s = .next t ∧
      (t.watchOf w).inReset = true ∧ (t.watchOf w).active = false ∧
      ((s.watchOf w).active = true → s.beating (1 - w) = true → (t.watchOf (1 - w)).active = true ∧
        (t.watchOf (1 - w)).irq = (s.watchOf (1 - w)).irq ||| 16 ∧
        ∀ i ∈ [1, 2, 3], (t.hart (4 * (1 - w) + i)).mode = .supervisor ∧ (t.hart (4 * (1 - w) + i)).reservation = none) ∧
      ((s.watchOf w).active = false ∨ s.beating (1 - w) = false → t.watchOf (1 - w) = s.watchOf (1 - w))) ∧
    (∀ park, ∃ t, exec (.dieParkRequest park) s = .next t ∧ t.hub.power.extractLsb' 8 4 = park ∧
      t.hub.power.extractLsb' 0 8 = s.hub.power.extractLsb' 0 8 ∧ t.hub.power.extractLsb' 12 52 = s.hub.power.extractLsb' 12 52) ∧
    (∀ next, ∃ t, exec (.clockStepRequest next) s = .next t ∧ (next ≠ 3 → t.hub.power.extractLsb' 2 2 = next) ∧
      (next = 3 → t.hub.power = s.hub.power) ∧ t.hub.power.extractLsb' 0 2 = s.hub.power.extractLsb' 0 2 ∧
      t.hub.power.extractLsb' 4 60 = s.hub.power.extractLsb' 4 60) ∧
    (∀ d < 4, (s.hub.parkAsked d = true → s.hub.parked d = false → (∀ l ∈ s.hub.launches, ∀ p ∈ l.grantedCores, dieOf p ≠ d) →
        ∃ t, exec (.diePark d) s = .next t ∧ t.hub.parked d = true ∧ t.cores = s.cores ∧ t.cliff = s.cliff ∧ ∀ kv ∈ t.coves, kv.1 / 64 ≠ d) ∧
      (s.hub.parkAsked d = false → s.hub.parked d = true → ∃ t, exec (.dieUnpark d) s = .next t ∧ t.hub.parked d = false ∧
        t.coves = s.coves)) ∧
    ∀ p, ((s.core p).ctxs.any fun kx => kx.2.st == .run || kx.2.st == .park) = false →
      (∀ a n, s.hub.debug ≠ 0 → s.hub.lifecycle ≠ 2 → a + n ≤ 2 ^ 19 → ∃ t, exec (.portAccess p (.readLs a n)) s = .next t ∧
        t.hub.portReply = memBytes (s.core p).ls a n ∧ t.cores = s.cores) ∧
      (∀ n r v, s.hub.debug ≠ 0 → s.hub.lifecycle ≠ 2 → n < 16 → (s.ctx p n).st = .stop → r ≠ 0 →
        ∃ t, exec (.portAccess p (.writeX n r v)) s = .next t ∧ look 0 (t.ctx p n).xs r.toNat = v ∧
          ∀ k, k ≠ r.toNat → look 0 (t.ctx p n).xs k = look 0 (s.ctx p n).xs k) ∧
      (∀ n r v, s.hub.debug ≠ 0 → s.hub.lifecycle ≠ 2 → n < 16 → (s.ctx p n).st = .stop →
        (∃ t, exec (.portAccess p (.readSpr n r)) s = .next t ∧ t.hub.portReply = bytesOf 8 ((s.ctx p n).spr r.toNat).toNat ∧ t.cores = s.cores) ∧
        ∃ t, exec (.portAccess p (.writeSpr n 0x10 v)) s = .next t ∧ (t.ctx p n).epc = v) ∧
      (∀ r v w, s.hub.debug ≠ 0 → s.hub.lifecycle ≠ 2 →
        (∃ t, exec (.portAccess p (.writeK r v)) s = .next t ∧ look 0 (t.core p).ks r.toNat = v) ∧
        ∃ t, exec (.portAccess p (.writeW r w)) s = .next t ∧ look 0 (t.core p).ws r.toNat = w) ∧
      (∀ op, s.hub.debug = 0 ∨ s.hub.lifecycle = 2 → exec (.portAccess p op) s = .next s.bump)
/-- R302, R307 to R312, R316 to R319, R386, R393, R428, R431: a LAUNCH packet starts a launch; its grant, or its refusal when a die of its reach is parked or its cores can no longer be had (log 62); its ready notices and its latch; its refusal at the deadline; its instant, at which its workers run and another tenant's registers are zeroed; the sample that finds slack water; its end; and notices that enter the ring or are refused. -/
def Obligations.LaunchesProceed : Prop :=
  (∀ (s : State) (q : Nat) (w : List DWord) (bs : List Byte),
    let k := s.queue q
    let u := s.onQueue q fun k => { k with rdidx := k.rdidx + 1, open_ := k.open_ ++ [(some k.rdidx, none)] }
    s.queueAct q = some .launch → s.nextPacket q = .ok w → s.hubRead k.droot (nthD 0 w 1).toNat 256 = .ok bs →
    (∀ l, u.makeLaunch q (some k.rdidx) (dwords 32 bs) w = some l → ∃ t, exec (.launchPacket q) s = .next t ∧
      t.hub.launches = s.hub.launches ++ [l] ∧ t.hub.launchCount = l.id ∧ l.stage = .waiting ∧ l.queue = q ∧
      l.index = some k.rdidx ∧ l.id = s.hub.launchCount + 1 ∧ (t.queue q).rdidx = k.rdidx + 1 ∧ t.cores = s.cores ∧ t.cliff = s.cliff) ∧
    (u.makeLaunch q (some k.rdidx) (dwords 32 bs) w = none → exec (.launchPacket q) s =
      .next (u.finishPacket q (some k.rdidx, none) (nthD 0 w 6) (BitVec.ofNat 64 (2 ^ 63 + 1))).bump)) ∧
  (∀ (s : State) (id : Nat) (l : Launch), s.launchOf id = some l →
    let gone (t : State) : Prop := (∀ k ∈ t.hub.launches, k.id ≠ l.id) ∧ ∀ p ∈ l.grantedCores, ∀ c ∈ (t.core p).launches, c.id ≠ l.id
    (l.stage = .waiting →
      (∀ p ∈ l.reach, s.hub.parking (dieOf p) = true → exec (.launchResourceGrant id) s = .next (s.refuseLaunch l).bump) ∧
      (∀ k ∈ l.parties, l.classes.getLsbD (if (s.core k.1).degraded then 1 else 0) = false →
        exec (.launchResourceGrant id) s = .next (s.refuseLaunch l).bump) ∧
      (let left := (ordinaryCores.filter fun p => l.classes.getLsbD (if (s.core p).degraded then 1 else 0) && !s.hub.parking (dieOf p)).length
       (l.reach = [] → left < l.count → exec (.launchResourceGrant id) s = .next (s.refuseLaunch l).bump) ∧
       ((∀ p ∈ l.reach, s.hub.parking (dieOf p) = false) → (∀ k ∈ l.parties, l.classes.getLsbD (if (s.core k.1).degraded then 1 else 0) = true) →
        (l.reach = [] → l.count ≤ left) →
        (s.placed l = none → exec (.launchResourceGrant id) s = .next s.bump) ∧
        (∀ k p lg c, s.placed l = some k → k.parties = [(p, lg, c)] → ∃ t k', exec (.launchResourceGrant id) s = .next t ∧
          t.launchOf id = some k' ∧ k'.stage = .granted ∧ k'.grantedCores = [p] ∧
          (∃ m : CoreLaunch, (t.core p).launches = (s.core p).launches ++ [m] ∧ m.id = l.id ∧ m.own = l.banks &&& ~~~l.handover) ∧
          (t.core p).pending.wakes = (s.core p).pending.wakes ++ [0xFFFF007F] ∧
          (∃ d, (t.core p).msgs = (s.core p).msgs ++ [⟨127, 0xFFFF, 0, d⟩]) ∧ (t.core p).ctxs = (s.core p).ctxs)))) ∧
    (l.stage = .granted →
      (l.allReady = true → s.active = true →
        (s.chooseInstant l = none → exec (.launchLatchWrite id) s = .next (s.refuseLaunch l).bump) ∧
        (∀ i, s.chooseInstant l = some i → (i % 16 = 0 ∧ s.now + 256 ≤ i ∧ (∀ n ∈ l.notices, n.2 + 1024 ≤ i) ∧ (l.required ≠ 0 → i = l.required)) ∧
          ∃ t k, exec (.launchLatchWrite id) s = .next t ∧ t.launchOf id = some k ∧ k.stage = .latched ∧ k.instant = some i ∧
            ∀ p ∈ l.grantedCores, (t.core p).latch = some i)) ∧
      (∀ d, l.allReady = false → l.deadline = some d → d < s.now → exec (.launchDeadlineExpiry id) s = .next (s.refuseLaunch l).bump) ∧
      (∀ d, l.deadline = some d → s.now ≤ d → exec (.launchDeadlineExpiry id) s = .next s.bump)) ∧
    gone (s.refuseLaunch l) ∧
    (∀ p lg c n a, l.stage = .latched → l.instant = some s.now → l.parties = [(p, lg, c)] → l.starts lg = [(n, a)] → n ≠ 0 →
      ∃ t k, exec (.launchInstant id) s = .next t ∧ t.launchOf id = some k ∧ k.stage = .running ∧ (t.core p).latch = none ∧
        t.ctx p n = l.worker c n s.now a ∧ (t.ctx p n).st = .run ∧ (t.ctx p n).next = a ∧ (t.ctx p n).base = s.now ∧
        look 0 (t.ctx p n).xs 2 = BitVec.ofNat 64 (0x78000 + 0x600 * (n + 1)) ∧
        (t.ctx p n).seed = l.seed + BitVec.ofNat 64 (16 * c + n) * 0x9E3779B97F4A7C15 ∧
        (l.tide = true → (t.core p).routes = (s.core p).shadow ∧ (t.core p).tideBase = s.now ∧ (t.core p).period = l.period) ∧
        ((s.core p).newTenant l = true → (t.core p).ws = [] ∧ (t.core p).accs = [] ∧ (t.core p).lastTenant = l.tenant) ∧
        ((s.core p).newTenant l = false → (t.core p).ws = (s.core p).ws ∧ (t.core p).accs = (s.core p).accs ∧ (t.core p).ks = (s.core p).ks) ∧
        (∀ m, m ≠ n → m ≠ 0 → t.ctx p m = s.ctx p m) ∧ (t.core p).ls = (s.core p).ls) ∧
    (s.hub.launches = [l] →
      (l.stage = .running → l.slack = none → s.now % 64 = 0 → (∀ p ∈ l.grantedCores, s.quiescent p id = true) →
        ∃ t k d, exec .slackWaterSample s = .next t ∧ t.hub.launches = [k] ∧ k = { l with slack := some (s.now, d), stage := .draining } ∧
          s.now < d ∧ t.cores = s.cores) ∧
      (∀ p ∈ l.grantedCores, l.slack = none → l.stage ≠ .flushing → s.quiescent p id = false → exec .slackWaterSample s = .next s.bump) ∧
      (l.stage = .flushing ∨ (l.stage = .draining ∧ ∃ i d, l.slack = some (i, d) ∧ d ≤ s.now) →
        (s.stagedFor l.id.toNat = false → ∃ t, exec .slackWaterSample s = .next t ∧ gone t) ∧
        (s.stagedFor l.id.toNat = true → ∃ t, exec .slackWaterSample s = .next t ∧ t.hub.launches = [{ l with stage := .flushing }] ∧
          t.cliff = s.cliff)))) ∧
  ∀ (s : State) (k : Packet) (a b : DWord), s.packet k.id = some k → k.body = .notice a b → k.accepted.isSome = true →
    (a.extractLsb' 56 8 ≠ 0xFF → (s.hub.notice.head - s.hub.notice.tail).toNat ≠ 4096 →
      ∃ t, exec (.hnfyNoticeAccept k.id) s = .next t ∧ t.hub.notice.head = s.hub.notice.head + 1 ∧
        look [] t.hub.notice.recs (s.hub.notice.head.toNat % 4096) =
          [a, b, BitVec.ofNat 64 (k.src + 65536 * (k.sctx % 16)) ||| (match k.launch with | some l => BitVec.ofNat 64 l <<< 32 | none => 0),
            BitVec.ofNat 64 s.now] ∧
        t.packets = s.packets.filter (fun q => q.id != k.id)) ∧
    (a.extractLsb' 56 8 ≠ 0xFF → (s.hub.notice.head - s.hub.notice.tail).toNat = 4096 →
      ∃ t, exec (.hnfyNoticeAccept k.id) s = .next t ∧ SentBack s t k ∧ t.hub.notice = s.hub.notice) ∧
    (∀ l, a = 0xFF00000000000001 → s.active = true → s.hub.launches = [l] → l.stage = .granted → k.src ∈ l.grantedCores →
      (∀ n ∈ l.notices, n.1 ≠ k.src) → ∃ t, exec (.hnfyNoticeAccept k.id) s = .next t ∧
        t.hub.launches = [{ l with notices := l.notices ++ [(k.src, s.now)] }])
/-- R374, R387, R389 to R393, R396 to R404: queue packets, their completion words, the Ebb wheel, queue errors, resets and destruction, notifies, and peers' accesses. -/
def Obligations.QueuesAndPeers : Prop :=
  (∀ (s : State) (q : Nat),
    let k := s.queue q
    (∀ key caddr v,
      (∀ pa, caddr ≠ 0 → caddr.toNat % 8 = 0 → s.hubPa k.droot.toNat true caddr.toNat = some pa →
        (s.finishPacket q key caddr v).stackWord pa = v ∧ (s.finishPacket q key caddr v).queue q = { k with open_ := k.open_.erase key }) ∧
      (caddr = 0 → (s.finishPacket q key caddr v).cliff = s.cliff) ∧
      (caddr ≠ 0 → caddr.toNat % 8 ≠ 0 ∨ s.hubPa k.droot.toNat true caddr.toNat = none → k.state = 1 →
        let t := s.finishPacket q key caddr v
        (t.queue q).state = 2 ∧ (t.queue q).err = 4 ∧ t.cliff = s.cliff)) ∧
    (∀ w act, s.queueAct q = some act → s.nextPacket q = .ok w →
      let n := k.rdidx
      let u := s.onQueue q fun k => { k with rdidx := n + 1, open_ := k.open_ ++ [(some n, none)] }
      let done (v : DWord) (t : State) : State := t.finishPacket q (some n, none) (nthD 0 w 6) v
      let status (n : Nat) : DWord := BitVec.ofNat 64 (2 ^ 63 + n)
      (act = .barrierAnd →
        let b : BarAnd := ⟨q, some n, ((w.drop 1).take 5).filterMap (fun a => if a = 0 then none else some a.toNat), (nthD 0 w 6).toNat, nthD 0 w 7⟩
        let read (a : Nat) : Option DWord := u.hubWord k.droot (BitVec.ofNat 64 a)
        ((∀ a ∈ b.words, ∃ v, read a = some v ∧ v.getLsbD 63 = false ∧ v ≠ 0) → exec (.barrierAnd q) s = .next (done (nthD 0 w 7) u).bump) ∧
        ((∀ a ∈ b.words, ∃ v, read a = some v) → (∃ a ∈ b.words, ∃ v, read a = some v ∧ v.getLsbD 63 = true) →
          exec (.barrierAnd q) s = .next (done (status 4) u).bump) ∧
        ((∀ a ∈ b.words, ∃ v, read a = some v ∧ v.getLsbD 63 = false) → (∃ a ∈ b.words, read a = some 0) →
          ∃ t, exec (.barrierAnd q) s = .next t ∧ t.hub.barAnds = s.hub.barAnds ++ [b] ∧ t.cliff = s.cliff ∧ (t.queue q).rdidx = n + 1)) ∧
      (act = .signal → ∀ op v pa, SigOp.ofCode (nthD 0 w 3).toNat = some op → u.hubWord k.droot (nthD 0 w 1) = some v →
        u.hubPa k.droot.toNat true (nthD 0 w 1).toNat = some pa →
        exec (.signalPacket q) s = .next (done (nthD 0 w 7) ((u.setStackWord pa (signalVal op v (nthD 0 w 2))).oweBursts 0
          (u.hubBursts k.droot (nthD 0 w 1).toNat 8))).bump) ∧
      (act = .signal → u.hubWord k.droot (nthD 0 w 1) = none → exec (.signalPacket q) s = .next (done (status 3) u).bump) ∧
      (let e := ((nthD 0 w 1).extractLsb' 0 12).toNat
       (act = .arm →
        ((∀ x, find s.hub.wheel e = some x → x.owner.toNat = q) → (nthD 0 w 3).toNat % 1024 = 0 → (nthD 0 w 4).toNat % 64 = 0 →
          ∃ t, exec (.armPacket q) s = .next t ∧ (t.queue q).rdidx = n + 1 ∧
            find t.hub.wheel e = some ⟨BitVec.ofNat 10 q, true, false, nthD 0 w 2, nthD 0 w 3, nthD 0 w 4, none⟩) ∧
        ((∃ x, find s.hub.wheel e = some x ∧ x.owner.toNat ≠ q) ∨ (nthD 0 w 3).toNat % 1024 ≠ 0 ∨ (nthD 0 w 4).toNat % 64 ≠ 0 →
          exec (.armPacket q) s = .next (done (status 3) u).bump)) ∧
       (act = .disarm →
        (∀ x, find s.hub.wheel e = some x → x.owner.toNat = q → ∃ t, exec (.disarmPacket q) s = .next t ∧
          (t.queue q).rdidx = n + 1 ∧ find t.hub.wheel e = none) ∧
        ((∀ x, find s.hub.wheel e = some x → x.owner.toNat ≠ q) → exec (.disarmPacket q) s = .next (done (status 3) u).bump))) ∧
      (act = .resetq →
        let r := ((nthD 0 w 1).extractLsb' 0 10).toNat
        ((s.queue r).state = 0 ∨ (s.queue r).space ≠ k.space → exec (.resetqPacket q) s = .next (done (status 3) u).bump) ∧
        ((s.queue r).state = 1 ∨ (s.queue r).state = 2 → (s.queue r).space = k.space → exec (.resetqPacket q) s =
          .next ((u.onQueue r fun k => { k with resetters := k.resetters ++ [(q, some n, (nthD 0 w 6).toNat, nthD 0 w 7)] }).beginReset r false).bump) ∧
        ((s.queue r).state = 3 → (s.queue r).space = k.space → exec (.resetqPacket q) s =
          .next (u.onQueue r fun k => { k with resetters := k.resetters ++ [(q, some n, (nthD 0 w 6).toNat, nthD 0 w 7)] }).bump))) ∧
    (∀ e, s.queueAct q = some (.error e) → ∃ t, exec (.queueError q e) s = .next t ∧ t.queue q = { k with state := 2, err := e } ∧
      t.cliff = s.cliff) ∧
    (let ok := k.state = 0 ∧ k.keyWritten = true ∧ ¬(1 ≤ k.log2n.toNat ∧ k.log2n.toNat ≤ 3)
     (ok → ∃ t, exec (.queueCreate q) s = .next t ∧ t.queue q = { k with state := 1, rdidx := 0, wridx := 0, lastseq := 0, cmd := 0 }) ∧
     (¬ok → ∃ t, exec (.queueCreate q) s = .next t ∧ t.queue q = { k with cmd := 2 })) ∧
    (k.state = 0 ∨ k.state = 3 → ∀ e ∈ [Instr.queueReset q, .queueDestroy q], ∃ t, exec e s = .next t ∧ t.queue q = { k with cmd := 2 } ∧
      t.cores = s.cores) ∧
    (k.state = 1 ∨ k.state = 2 → exec (.queueReset q) s = .next (s.beginReset q false).bump ∧
      exec (.queueDestroy q) s = .next (s.beginReset q true).bump) ∧
    (let t := s.beginReset q false
     ((∀ l ∈ s.hub.launches, l.queue ≠ q) → k.resetters = [] → (t.queue q).state = 1 ∧ (t.queue q).rdidx = k.wridx ∧ (t.queue q).discard = k.wridx ∧
       (s.beginReset q true).queue q = { Queue.reset with drops := k.drops }) ∧
     (∀ l, s.hub.launches = [l] → l.queue = q → l.grantedCores ≠ [] → l.slack = none →
       (t.queue q).state = 3 ∧ (t.queue q).discard = k.wridx ∧ (t.queue q).acks = l.grantedCores)) ∧
    (∀ p, s.ackReady q p = true → (∃ r ∈ k.acks, r ≠ p) → ∃ t, exec (.resetAcknowledge q p) s = .next t ∧
      t.queue q = { k with acks := k.acks.filter (· != p) } ∧ t.cores = s.cores) ∧
    (∀ p, s.ackReady q p = true → k.acks = [p] → k.state = 3 → k.resetters = [] → k.destroy = false →
      (∀ l ∈ s.hub.launches, l.queue = q → l.stage = .cancelled) → ∃ t, exec (.resetAcknowledge q p) s = .next t ∧
      (t.queue q).state = 1 ∧ (t.queue q).rdidx = k.discard ∧ ∀ l ∈ t.hub.launches, l.queue ≠ q) ∧
    (∀ v, let near := (v - k.wridx).toNat ≤ k.slots ∧ (v - k.rdidx).toNat ≤ k.slots
      (k.local_ = true → near → ∃ t, exec (.wridxWrite q v) s = .next t ∧ t.queue q = { k with wridx := v }) ∧
      (k.local_ = true → ¬near → ∃ t, exec (.wridxWrite q v) s = .next t ∧ t.queue q = k.drop 2) ∧
      (k.local_ = false → ∃ t, exec (.wridxWrite q v) s = .next t ∧ t.queue q = k)) ∧
    (∀ i v, i < 4 → k.key.length = 32 → ∃ t, exec (.queueKeyWrite q i v) s = .next t ∧ (t.queue q).keyWritten = true ∧
      wordAt (t.queue q).key (8 * i) = v ∧ ∀ j < 4, j ≠ i → wordAt (t.queue q).key (8 * j) = wordAt k.key (8 * j)) ∧
    (∀ port bs v, (wordAt bs 0).extractLsb' 0 10 = BitVec.ofNat 10 q → q < 1024 → (wordAt bs 0).extractLsb' 32 32 = v → bs.length = 32 →
      let admitted := (k.state = 1 ∨ k.state = 3) ∧ k.ports.getLsbD port = true
      let tagged := (bs.drop 16).take 16 = notifyTag k.key port bs
      let fresh := k.lastseq.toNat < (wordAt bs 8).toNat
      ∀ off, off % 32 = 0 → ∃ t, exec (.queueNotify port off bs) s = .next t ∧
        (¬admitted → t.queue q = k.drop 3) ∧ (admitted → ¬tagged → t.queue q = k.drop 0) ∧
        (admitted → tagged → ¬fresh → t.queue q = k.drop 1) ∧
        (admitted → tagged → fresh → ¬((v - k.wridx).toNat ≤ k.slots ∧ (v - k.rdidx).toNat ≤ k.slots) → t.queue q = k.drop 2) ∧
        (admitted → tagged → fresh → (v - k.wridx).toNat ≤ k.slots → (v - k.rdidx).toNat ≤ k.slots →
          t.queue q = { k with lastseq := wordAt bs 8, wridx := v }) ∧ t.cliff = s.cliff ∧ ∀ r, r ≠ q → t.queue r = s.queue r)) ∧
  (∀ s : State,
    (∀ b, s.active = true → s.hub.barAnds = [b] → exec .barrierAndRecheck s =
      .next ((s.onHub fun h => { h with barAnds := [] }).tryBarrier b).bump) ∧
    (s.now % 1024 ≠ 0 → exec .ebbWheelTick s = .next s.bump) ∧
    (∀ e x, s.now % 1024 = 0 → s.hub.wheel = [(e, x)] →
      let q := x.owner.toNat
      (x.armed = true → x.due.toNat ≤ s.now → x.busy = false → (s.queue q).state = 1 → s.active = true →
        exec .ebbWheelTick s = .next (s.releaseEntry e x).bump) ∧
      (x.armed = false ∨ s.now < x.due.toNat ∨ x.busy = true ∨ (s.queue q).state ≠ 1 ∨ s.active = false →
        exec .ebbWheelTick s = .next s.bump)) ∧
    (∀ e x,
      let q := x.owner.toNat
      let root := (s.queue q).droot
      let t := s.releaseEntry e x
      let past := if x.period = 0 then 1 else (s.now - x.due.toNat) / x.period.toNat + 1
      (x.period = 0 → find t.hub.wheel e = none) ∧
      (x.period ≠ 0 → ∃ id : Option Nat, find t.hub.wheel e =
        some { x with due := x.due + BitVec.ofNat 64 past * x.period, busy := id.isSome, released := id }) ∧
      (s.hubPa root.toNat true x.rpkt.toNat = none → (s.queue q).state = 1 → (t.queue q).state = 2 ∧ (t.queue q).err = 5 ∧ t.cliff = s.cliff) ∧
      (∀ pa, s.hubPa root.toNat true x.rpkt.toNat = some pa →
        let u := (s.putStack (pa + 4) (bytesOf 4 (past - 1))).oweBursts 0 (s.hubBursts root x.rpkt.toNat 64)
        (∀ err, u.hubRead root x.rpkt.toNat 64 = .error err → (s.queue q).state = 1 →
          (t.queue q).state = 2 ∧ (t.queue q).err = 5 ∧ t.cliff = u.cliff) ∧
        (∀ bs, u.hubRead root x.rpkt.toNat 64 = .ok bs →
          (packetType (dwords 8 bs) ≠ 1 → packetType (dwords 8 bs) ≠ 3 → (s.queue q).state = 1 →
            (t.queue q).state = 2 ∧ (t.queue q).err = 5 ∧ t.cliff = u.cliff) ∧
          (packetType (dwords 8 bs) = 1 ∨ packetType (dwords 8 bs) = 3 → packetBad false (dwords 8 bs) = true → (s.queue q).state = 1 →
            (t.queue q).state = 2 ∧ (t.queue q).err = 3 ∧ t.cliff = u.cliff) ∧
          (packetType (dwords 8 bs) = 3 → packetBad false (dwords 8 bs) = false → t.cliff = (u.hubSignal q (none, none) (dwords 8 bs)).cliff ∧
            t.hub.launches = s.hub.launches ∧ (t.queue q).rdidx = (s.queue q).rdidx))))) ∧
  ∀ (s : State) (port : Nat) (a : DWord) (bs : List Byte) (n : Nat),
    let base := (look 0 s.hub.notifyBase port).toNat / 4096 * 4096
    ((bs.length ≠ 32 ∨ n % 32 ≠ 0) → ∃ t, exec (.queueNotify port n bs) s = .next t ∧ t.hub.queues = s.hub.queues ∧
      look 0 t.hub.malformed port = look 0 s.hub.malformed port + 1) ∧
    (base ≤ a.toNat → a.toNat < base + 4096 → ∃ t u, exec (.peerWrite port a bs) s = .next t ∧
      exec (.queueNotify port (a.toNat - base) bs) s = .next u ∧ t.hub = u.hub ∧ t.cliff = s.cliff) ∧
    (∀ w, (a.toNat < base ∨ base + 4096 ≤ a.toNat) → (port < 4 → 1 ≤ bs.length ∧ bs.length ≤ 256) → s.hub.window port a.toNat bs.length = some w →
      let pa := w.target.toNat + (a.toNat - w.base.toNat)
      (w.ctl.getLsbD 9 = true → ∃ t, exec (.peerWrite port a bs) s = .next t ∧ memBytes t.cliff pa bs.length = bs ∧
        t.hub.peerReply = some [] ∧ ∀ b, b < pa ∨ pa + bs.length ≤ b → memGet t.cliff b = memGet s.cliff b) ∧
      (w.ctl.getLsbD 9 = false → ∃ t, exec (.peerWrite port a bs) s = .next t ∧ t.cliff = s.cliff ∧ t.hub.peerReply = none ∧
        look 0 t.hub.errors port = look 0 s.hub.errors port + 1)) ∧
    (∀ w, (port < 4 → 1 ≤ n ∧ n ≤ 256) → s.hub.window port a.toNat n = some w →
      let pa := w.target.toNat + (a.toNat - w.base.toNat)
      (w.ctl.getLsbD 8 = true → s.badRange pa n = false → ∃ t, exec (.peerRead port a n) s = .next t ∧
        t.hub.peerReply = some (memBytes s.cliff pa n) ∧ t.cliff = s.cliff) ∧
      (w.ctl.getLsbD 8 = false → ∃ t, exec (.peerRead port a n) s = .next t ∧ t.hub.peerReply = none ∧ t.cliff = s.cliff ∧
        look 0 t.hub.errors port = look 0 s.hub.errors port + 1)) ∧
    (let t := s.happen (.peerAtomic port)
     t.hub.peerReply = none ∧ t.cliff = s.cliff ∧ look 0 t.hub.errors port = look 0 s.hub.errors port + 1) ∧
    (s.hub.window port a.toNat n = none ∨ (port < 4 ∧ (n = 0 ∨ 256 < n)) → ∃ t, exec (.peerRead port a n) s = .next t ∧ t.hub.peerReply = none ∧ t.cliff = s.cliff ∧
      look 0 t.hub.errors port = look 0 s.hub.errors port + 1)
/-- R38, R360, R370, R373, R377, R381, R382, R388, R426 to R428, R430, R433, R434: a package reset, a watch's boot, links trained and lost, temperatures, a report of identity, a debug token, the lifecycle, and scrubbing. -/
def Obligations.PackageEvents : Prop :=
  ∀ s : State,
    (∃ t, exec .packageReset s = .next t ∧ t.now = 0 ∧ t.cliff = [] ∧ t.packets = [] ∧ t.copies = [] ∧ t.barriers = [] ∧ t.coves = [] ∧
      t.linkChans = [] ∧ t.todo = [] ∧ t.inputs = s.inputs ∧ t.happenings = s.happenings ∧
      ((keys s.cores).Nodup → ∀ p, t.core p = { Core.reset with degraded := (s.core p).degraded }) ∧
      t.hub = { Hub.reset with lifecycle := s.hub.lifecycle, ownerHash := s.hub.ownerHash, revoked := s.hub.revoked, svnMin := s.hub.svnMin }) ∧
    (∀ w a b, w < 2 →
      (s.hub.imageFault a ≠ 0 → s.hub.imageFault b ≠ 0 → ∃ t, exec (.watchBoot w a b) s = .next t ∧
        t.watchOf w = { s.watchOf w with booted := false, active := false, bootReason := s.hub.imageFault b } ∧
        t.hub.portReports = s.hub.portReports ++ [2] ∧
        t.watchOf (1 - w) = s.watchOf (1 - w)) ∧
      (∀ img, img = (if s.hub.imageFault a = 0 then a else b) → s.hub.imageFault img = 0 → ∃ t, exec (.watchBoot w a b) s = .next t ∧
        (t.watchOf w).booted = true ∧ (t.watchOf w).inReset = false ∧ (t.watchOf w).lastBeat = s.hub.hartClock s.now ∧
        (t.watchOf w).beats = 0 ∧ (t.watchOf w).irq = 0 ∧ (t.watchOf w).sirq = 0 ∧ (t.watchOf w).gqstate = 0 ∧ (t.watchOf w).bootReason = 0 ∧
        (t.watchOf w).entry = 0x8000000000 + wordAt img 16 ∧
        (t.watchOf w).digest = sha512 (img.take 0xC0 ++ (img.drop 0x100).take ((wordAt img 8).toNat % 2 ^ 32)) ∧
        (s.active = false → (t.watchOf w).active = true ∧
          (s.hub.supervisorFault (supervisorImage img) = 0 → t.hub.supDigest = imageDigest (supervisorImage img) ∧ t.hub.supervised = true ∧
            t.hub.portReports = s.hub.portReports) ∧
          (s.hub.supervisorFault (supervisorImage img) ≠ 0 → t.hub.supDigest = List.replicate 64 0 ∧ t.hub.supervised = false ∧
            t.hub.portReports = s.hub.portReports ++ [5])) ∧
        (∀ i < 4, (t.hart (4 * w + i)).pc = (t.watchOf w).entry ∧ (t.hart (4 * w + i)).mode = .machine) ∧
        (w = 1 → (s.watchOf 0).active = true → (s.watchOf 1).active = false → (t.watchOf 1).active = false ∧ t.watchOf 0 = s.watchOf 0))) ∧
    (∀ k l0 l1 l2, k < 20 → (∀ l ∈ [l0, l1, l2], if k < 4 then 32 ≤ BitVec.toNat l ∧ BitVec.toNat l ≤ 48 else 64 ≤ BitVec.toNat l) →
      let e := s.hub.link k
      let l : BitVec 12 := if s.hub.power.extractLsb' 0 2 = 0 then l0 else if s.hub.power.extractLsb' 0 2 = 1 then l1 else l2
      ((∀ kw ∈ s.hub.watches, kw.2.booted = false) → exec (.linkTraining k [l0, l1, l2] none) s = .next s.bump) ∧
      (s.hub.power.extractLsb' 0 2 ≠ 3 → (∃ kw ∈ s.hub.watches, kw.2.booted = true) →
      (e.getLsbD 12 = false ∨ e.getLsbD 13 = false ∨ look [] s.hub.trained k = [l0, l1, l2] →
        ∃ t, exec (.linkTraining k [l0, l1, l2] none) s = .next t ∧ t.hub.linkUp k = true ∧ t.hub.linkLat k = l.toNat ∧ t.now = s.now ∧
          ∀ j, j ≠ k → t.hub.link j = s.hub.link j) ∧
      (e.getLsbD 12 = true → e.getLsbD 13 = true → look [] s.hub.trained k ≠ [l0, l1, l2] → exec (.linkTraining k [l0, l1, l2] none) s =
        .next (s.onHub fun h => { h with portReports := h.portReports ++ [3] }).bump))) ∧
    (∀ k l0 l1 l2 a, k < 20 → (∃ kw ∈ s.hub.watches, kw.2.booted = true) → latencyOk k l0 = false → exec (.linkTraining k [l0, l1, l2] a) s =
      .next (s.onHub fun h => { h with portReports := h.portReports ++ [3] }).bump) ∧
    (∀ k, k < 20 → ∃ t, exec (.linkFailure k) s = .next t ∧ t.hub.linkUp k = false ∧
      t.hub.mNotices = s.hub.mNotices ++ [(2, BitVec.ofNat 64 k)] ∧
      (k < 4 → t.linkOut = s.linkOut ∧ ∀ p, t.core p = { s.core p with flits := (s.core p).flits.map fun f =>
        if s.now < f.cycle ∧ (match tidalWay p f.input with | .pair _ n => n == k | _ => false) = true then { f with data := none } else f }) ∧
      (4 ≤ k → ∀ o ∈ t.linkOut, o.2.1 = k - 4 → o.2.2.1 = 256 → s.now < o.1 → o.2.2.2 = []) ∧
      (4 ≤ k → ∀ q d, (s.core (strandCore (k - 4))).eflight = [q] → q.ctx < 16 → (∃ a c e, q.op = .lsnd a c e ∨ q.op = .lrcv a c e ∨ q.op = .lred a c e) →
        (s.core (strandCore (k - 4))).cmdDecl (strandCore (k - 4)) q (linkChan q.c) = some d → d.2.2.2 = false →
        (t.core (strandCore (k - 4))).eflight = [] ∧ ∃ l : Late, (t.ctx (strandCore (k - 4)) q.ctx).late = (s.ctx (strandCore (k - 4)) q.ctx).late ++ [l] ∧
          l.cause = causeWord 0x08 true 0 0 0 ∧ l.tval = BitVec.ofNat 64 (linkChan q.c))) ∧
    (∀ k v, k < 256 → ∃ t, exec (.thermalSample [(k, v)]) s = .next t ∧ look 0 t.hub.temps k = v ∧
      (t.hub.powered = true ↔ s.hub.powered = true ∧ v.toNat < 110) ∧
      (v.toNat < 110 → t.hub.portReports = s.hub.portReports) ∧ (110 ≤ v.toNat → t.hub.portReports = s.hub.portReports ++ [7]) ∧
      (∀ p, keys s.cores = [p] → shoreKey p = k → isOrdinary p = true → (s.core p).launches ≠ [] → s.active = true →
        ((look 0 s.hub.temps k).toNat < 95 → 95 ≤ v.toNat → k ∉ s.hub.hot → (t.core p).pending.migration =
          (s.core p).pending.migration ++ [BitVec.ofNat 64 (s.proposedTarget p + 2 ^ 16 + 2 ^ 24 * v.toNat + 2 ^ 32 * (k % 64))]) ∧
        (95 ≤ (look 0 s.hub.temps k).toNat ∨ v.toNat < 95 ∨ k ∈ s.hub.hot → t.cores = s.cores)) ∧
      (v.toNat < 90 → k ∉ t.hub.hot)) ∧
    (∀ p, s.proposedTarget p = 0xFFFF ∨ (s.proposedTarget p ∈ ordinaryCores ∧ s.proposedTarget p ≠ p ∧
      s.spare (BitVec.ofNat 64 (s.proposedTarget p)) = true ∧ s.hub.parking (dieOf (s.proposedTarget p)) = false)) ∧
    (∀ nonce w, nonce.length = 32 → firstOf (fun (kw : Nat × HartWatch) => kw.2.active) s.hub.watches = some w → ∃ t b,
      exec (.attestationReport nonce) s = .next t ∧ t.hub.report = b ++ edSign Config.identitySeed (sha512 b) ∧
      b.take 8 = [0x47, 0x51, 0x41, 0x54, 0x54, 0x53, 0x54, 0x31] ∧
      (w.2.digest.length = 64 → s.hub.supDigest.length = 64 → identityKey.length = 32 → b.length = 224 ∧
        (b.drop 0x10).take 32 = identityKey ∧ (b.drop 0x30).take 64 = w.2.digest ∧ (b.drop 0x70).take 64 = s.hub.supDigest ∧
        (b.drop 0xB0).take 32 = nonce ∧ b.drop 0xD0 = bytesOf 8 s.now ++ List.replicate 8 0)) ∧
    (∀ k, (s.tokenOk k = false → exec (.debugToken k) s = .next s.bump) ∧
      (s.tokenOk k = true → ∃ t, exec (.debugToken k) s = .next t ∧ t.hub.debug = (wordAt k 8).setWidth 2 ∧
        (s.hub.lifecycle = 1 → t.hub.debug = 2 → t.cliff = [] ∧ (∀ p, (t.core p).ls = []) ∧ ∀ q, (t.quay q).staging = []) ∧
        (s.hub.lifecycle ≠ 1 ∨ t.hub.debug ≠ 2 → t.cliff = s.cliff ∧ t.cores = s.cores)) ∧
      (s.hub.launches ≠ [] ∨ s.hub.nonces = [] ∨ k.length ≠ 272 → s.tokenOk k = false)) ∧
    (∀ hash, (s.hub.lifecycle = 0 → hash.length = 32 → ∃ t, exec (.ownerKeyFuse hash) s = .next t ∧
        t.hub = { s.hub with lifecycle := 1, ownerHash := hash }) ∧
      (s.hub.lifecycle ≠ 0 → exec (.ownerKeyFuse hash) s = .next s.bump)) ∧
    (s.hub.lifecycle = 1 → ∃ t, exec .tenantLock s = .next t ∧ t.hub = { s.hub with lifecycle := 2 } ∧ t.cores = s.cores) ∧
    (s.hub.lifecycle ≠ 1 → exec .tenantLock s = .next s.bump) ∧
    (s.hub.lifecycle = 2 → ∃ t, exec .tenantUnlock s = .next t ∧ t.hub = { s.hub with lifecycle := 1 } ∧ t.cliff = [] ∧
      (∀ p, (t.core p).ls = [] ∧ (t.core p).ks = [] ∧ (t.core p).ws = [] ∧ (t.core p).accs = [] ∧ (t.core p).ctxs = (s.core p).ctxs) ∧
      (∀ q, (t.quay q).staging = []) ∧
      ∀ v, (t.cove v).cells = [] ∧ (t.cove v).owner = (s.cove v).owner) ∧
    (s.hub.lifecycle ≠ 2 → exec .tenantUnlock s = .next s.bump) ∧
    (∀ q pa, (s.quay q).staging.any (·.pa == pa) = true →
      let t := s.happen (.staged q pa)
      t.hub.mNotices = s.hub.mNotices ++ [(7, BitVec.ofNat 64 pa)] ∧ (t.quay q).staging = (s.quay q).staging.filter (·.pa != pa) ∧ t.cliff = s.cliff) ∧
    (∀ p slot, (find (s.core p).code slot).isSome = true → let t := s.happen (.codeLine p slot)
      find (t.core p).code slot = none ∧ t.hub.corrections = s.hub.corrections + 1) ∧
    ∀ pa, exec (.cliffstackScrub pa) s = .next s.bump

end
end

