-- ==== Sys2Proof/Laws/Memory.lean ====
section
/-! SUPPORT. What the operations over sparse maps and memories do: a read after a write, the places a write leaves alone, and the canonical form that every memory operation keeps. -/
namespace Sys2Proof.Machine

/-! ## Sparse maps -/

@[simp] theorem look_nil {α : Type} (d : α) (k : Nat) : look d [] k = d := rfl
theorem look_cons {α : Type} (d v : α) (t : Sparse α) (j k : Nat) :
    look d ((j, v) :: t) k = if k = j then v else look d t k := rfl
@[simp] theorem look_put_same {α : Type} (d v : α) (m : Sparse α) (k : Nat) : look d (put m k v) k = v := by
  induction m with
  | nil => simp [put, look]
  | cons h t ih =>
    obtain ⟨j, u⟩ := h
    unfold put
    split
    · simp [look]
    · split
      · simp [look]
      · rename_i hne
        simp [look, hne, ih]
theorem look_put_other {α : Type} (d v : α) (m : Sparse α) {k l : Nat} (h : l ≠ k) :
    look d (put m k v) l = look d m l := by
  induction m with
  | nil => simp [put, look, h]
  | cons c t ih =>
    obtain ⟨j, u⟩ := c
    unfold put
    split
    · simp [look, h]
    · split
      · rename_i hk
        subst hk
        simp [look, h]
      · simp [look, ih]
theorem look_put {α : Type} (d v : α) (m : Sparse α) (k l : Nat) :
    look d (put m k v) l = if l = k then v else look d m l := by
  split
  · rename_i h
    subst h
    simp
  · rename_i h
    exact look_put_other d v m h
@[simp] theorem look_del_same {α : Type} (d : α) (m : Sparse α) (k : Nat) : look d (del m k) k = d := by
  induction m with
  | nil => rfl
  | cons c t ih =>
    obtain ⟨j, u⟩ := c
    unfold del
    split
    · exact ih
    · rename_i h
      simp [look, h, ih]
theorem look_del_other {α : Type} (d : α) (m : Sparse α) {k l : Nat} (h : l ≠ k) :
    look d (del m k) l = look d m l := by
  induction m with
  | nil => rfl
  | cons c t ih =>
    obtain ⟨j, u⟩ := c
    unfold del
    split
    · rename_i hk
      subst hk
      simp [look, h, ih]
    · simp [look, ih]
@[simp] theorem find_put_same {α : Type} (v : α) (m : Sparse α) (k : Nat) : find (put m k v) k = some v := by
  induction m with
  | nil => simp [put, find]
  | cons h t ih =>
    obtain ⟨j, u⟩ := h
    unfold put
    split
    · simp [find]
    · split
      · simp [find]
      · rename_i hne
        simp [find, hne, ih]
theorem find_put_other {α : Type} (v : α) (m : Sparse α) {k l : Nat} (h : l ≠ k) : find (put m k v) l = find m l := by
  induction m with
  | nil => simp [put, find, h]
  | cons c t ih =>
    obtain ⟨j, u⟩ := c
    unfold put
    split
    · simp [find, h]
    · split
      · rename_i hk
        subst hk
        simp [find, h]
      · simp [find, ih]

/-! ## Rising keys -/

/-- Keys strictly rising. -/
abbrev Rising {α : Type} (m : Sparse α) : Prop := m.Pairwise fun a b => a.1 < b.1
theorem mem_put {α : Type} {m : Sparse α} {k : Nat} {v : α} {c : Nat × α} (h : c ∈ put m k v) : c = (k, v) ∨ c ∈ m := by
  induction m with
  | nil => exact .inl (by simpa [put] using h)
  | cons b t ih =>
    obtain ⟨j, u⟩ := b
    unfold put at h
    split at h
    · simpa using h
    · split at h
      · rcases List.mem_cons.1 h with h | h
        · exact .inl h
        · exact .inr (List.mem_cons_of_mem _ h)
      · rcases List.mem_cons.1 h with h | h
        · exact .inr (by simp [h])
        · rcases ih h with h | h
          · exact .inl h
          · exact .inr (List.mem_cons_of_mem _ h)
theorem mem_del {α : Type} {m : Sparse α} {k : Nat} {c : Nat × α} (h : c ∈ del m k) : c ∈ m := by
  induction m with
  | nil => simp [del] at h
  | cons b t ih =>
    obtain ⟨j, u⟩ := b
    unfold del at h
    split at h
    · exact List.mem_cons_of_mem _ (ih h)
    · rcases List.mem_cons.1 h with h | h
      · simp [h]
      · exact List.mem_cons_of_mem _ (ih h)
theorem Rising.put {α : Type} {m : Sparse α} (h : Rising m) (k : Nat) (v : α) : Rising (put m k v) := by
  induction m with
  | nil => simp [Machine.put]
  | cons b t ih =>
    obtain ⟨j, u⟩ := b
    have ht := List.pairwise_cons.1 h
    unfold Machine.put
    split
    · rename_i hk
      refine List.pairwise_cons.2 ⟨fun c hc => ?_, h⟩
      rcases List.mem_cons.1 hc with hc | hc
      · simpa [hc] using hk
      · exact Nat.lt_trans hk (ht.1 c hc)
    · split
      · rename_i hk
        subst hk
        exact List.pairwise_cons.2 ⟨ht.1, ht.2⟩
      · rename_i h1 h2
        refine List.pairwise_cons.2 ⟨fun c hc => ?_, ih ht.2⟩
        rcases mem_put hc with hc | hc
        · simp only [hc]
          omega
        · exact ht.1 c hc
theorem Rising.del {α : Type} {m : Sparse α} (h : Rising m) (k : Nat) : Rising (del m k) := by
  induction m with
  | nil => simp [Machine.del]
  | cons b t ih =>
    obtain ⟨j, u⟩ := b
    have ht := List.pairwise_cons.1 h
    unfold Machine.del
    split
    · exact ih ht.2
    · exact List.pairwise_cons.2 ⟨fun c hc => ht.1 c (mem_del hc), ih ht.2⟩

/-! ## Memories -/

/-- A memory with nothing listed has the canonical form. -/
theorem Memory.wf_nil : Memory.wf [] := ⟨List.Pairwise.nil, by simp⟩
/-- A byte's write keeps the canonical form. -/
theorem Memory.wf_set {m : List Host.Cell} (h : Memory.wf m) (a : Nat) (b : Byte) : Memory.wf (memSet m a b) := by
  unfold memSet
  split
  · exact ⟨Rising.del h.1 a, fun c hc => h.2 c (mem_del hc)⟩
  · rename_i hb
    refine ⟨Rising.put h.1 a b, fun c hc => ?_⟩
    rcases mem_put hc with hc | hc
    · simpa [hc] using hb
    · exact h.2 c hc
/-- A number's write keeps the canonical form. -/
theorem Memory.wf_write {m : List Host.Cell} (h : Memory.wf m) (a n v : Nat) : Memory.wf (memWrite m a n v) := by
  induction n generalizing m a v with
  | zero => exact h
  | succ n ih => exact ih (Memory.wf_set h a _) (a + 1) (v / 256)
/-- The write of bytes keeps the canonical form. -/
theorem Memory.wf_putBytes {m : List Host.Cell} (h : Memory.wf m) (a : Nat) (bs : List Byte) :
    Memory.wf (memPutBytes m a bs) := by
  induction bs generalizing m a with
  | nil => exact h
  | cons b t ih => exact ih (Memory.wf_set h a b) (a + 1)
@[simp] theorem memGet_set_same (m : List Host.Cell) (a : Nat) (b : Byte) : memGet (memSet m a b) a = b := by
  unfold memGet memSet
  split
  · rename_i h
    simp [h]
  · simp
theorem memGet_set_other (m : List Host.Cell) {a c : Nat} (b : Byte) (h : c ≠ a) : memGet (memSet m a b) c = memGet m c := by
  unfold memGet memSet
  split
  · exact look_del_other 0 m h
  · exact look_put_other 0 b m h
/-- A write leaves every byte outside its range alone. -/
theorem memGet_write_other (m : List Host.Cell) (a n v c : Nat) (h : c < a ∨ a + n ≤ c) :
    memGet (memWrite m a n v) c = memGet m c := by
  induction n generalizing m a v with
  | zero => rfl
  | succ n ih =>
    unfold memWrite
    rw [ih (memSet m a _) (a + 1) (v / 256) (by omega), memGet_set_other m _ (by omega)]
/-- A byte of the range of a write is that byte of the value. -/
theorem memGet_write_in (m : List Host.Cell) (a n v i : Nat) (h : i < n) :
    memGet (memWrite m a n v) (a + i) = BitVec.ofNat 8 (v / 256 ^ i) := by
  induction n generalizing m a v i with
  | zero => omega
  | succ n ih =>
    unfold memWrite
    cases i with
    | zero => rw [memGet_write_other _ _ _ _ _ (by omega)]; simp
    | succ i =>
      have := ih (memSet m a (BitVec.ofNat 8 v)) (a + 1) (v / 256) i (by omega)
      rw [show a + (i + 1) = a + 1 + i by omega, this, Nat.div_div_eq_div_mul, Nat.pow_succ, Nat.mul_comm 256]
/-- A read of bytes that two memories share gives the same number. -/
theorem memRead_congr {m k : List Host.Cell} (a n : Nat) (h : ∀ i, i < n → memGet m (a + i) = memGet k (a + i)) :
    memRead m a n = memRead k a n := by
  induction n generalizing a with
  | zero => rfl
  | succ n ih =>
    unfold memRead
    rw [show memGet m a = memGet k a from by simpa using h 0 (by omega),
      ih (a + 1) fun i hi => by simpa [Nat.add_assoc, Nat.add_comm 1] using h (i + 1) (by omega)]
/-- A read after a write to the same place gives the value written. -/
theorem memRead_write_same (m : List Host.Cell) (a n v : Nat) : memRead (memWrite m a n v) a n = v % 256 ^ n := by
  induction n generalizing m a v with
  | zero => simp [memRead, Nat.mod_one]
  | succ n ih =>
    unfold memRead
    have h0 : memGet (memWrite m a (n + 1) v) a = BitVec.ofNat 8 v := by
      simpa using memGet_write_in m a (n + 1) v 0 (by omega)
    have h1 : memRead (memWrite m a (n + 1) v) (a + 1) n = v / 256 % 256 ^ n := ih _ _ _
    rw [h0, h1, Nat.pow_succ, Nat.mul_comm (256 ^ n), Nat.mod_mul]
    simp
/-- A write leaves a read of other bytes alone. -/
theorem memRead_write_other (m : List Host.Cell) (a n v b k : Nat) (h : b + k ≤ a ∨ a + n ≤ b) :
    memRead (memWrite m a n v) b k = memRead m b k :=
  memRead_congr b k fun i hi => memGet_write_other m a n v (b + i) (by omega)

end Sys2Proof.Machine
end

