-- ==== Sys2Proof/Laws/State.lean ====
section
/-! SUPPORT. One lemma per field and update of State and of Core: what the update leaves alone, and what the changed field holds. Each is true by rfl. -/
namespace Sys2Proof.Machine

/-! ## State.setCore: a core replaced -/

@[simp] theorem State.setCore_now (s : State) (p : Nat) (c : Core) : (s.setCore p c).now = s.now := rfl
@[simp] theorem State.setCore_cores (s : State) (p : Nat) (c : Core) : (s.setCore p c).cores = put s.cores p c := rfl
@[simp] theorem State.setCore_barriers (s : State) (p : Nat) (c : Core) : (s.setCore p c).barriers = s.barriers := rfl
@[simp] theorem State.setCore_coves (s : State) (p : Nat) (c : Core) : (s.setCore p c).coves = s.coves := rfl
@[simp] theorem State.setCore_cliff (s : State) (p : Nat) (c : Core) : (s.setCore p c).cliff = s.cliff := rfl
@[simp] theorem State.setCore_cliffBad (s : State) (p : Nat) (c : Core) : (s.setCore p c).cliffBad = s.cliffBad := rfl
@[simp] theorem State.setCore_quays (s : State) (p : Nat) (c : Core) : (s.setCore p c).quays = s.quays := rfl
@[simp] theorem State.setCore_linkChans (s : State) (p : Nat) (c : Core) : (s.setCore p c).linkChans = s.linkChans := rfl
@[simp] theorem State.setCore_packets (s : State) (p : Nat) (c : Core) : (s.setCore p c).packets = s.packets := rfl
@[simp] theorem State.setCore_eddyOuts (s : State) (p : Nat) (c : Core) : (s.setCore p c).eddyOuts = s.eddyOuts := rfl
@[simp] theorem State.setCore_eddyCredits (s : State) (p : Nat) (c : Core) : (s.setCore p c).eddyCredits = s.eddyCredits := rfl
@[simp] theorem State.setCore_copies (s : State) (p : Nat) (c : Core) : (s.setCore p c).copies = s.copies := rfl
@[simp] theorem State.setCore_walks (s : State) (p : Nat) (c : Core) : (s.setCore p c).walks = s.walks := rfl
@[simp] theorem State.setCore_linkOut (s : State) (p : Nat) (c : Core) : (s.setCore p c).linkOut = s.linkOut := rfl
@[simp] theorem State.setCore_hub (s : State) (p : Nat) (c : Core) : (s.setCore p c).hub = s.hub := rfl
@[simp] theorem State.setCore_ids (s : State) (p : Nat) (c : Core) : (s.setCore p c).ids = s.ids := rfl
@[simp] theorem State.setCore_free (s : State) (p : Nat) (c : Core) : (s.setCore p c).free = s.free := rfl
@[simp] theorem State.setCore_frame (s : State) (p : Nat) (c : Core) : (s.setCore p c).frame = s.frame := rfl
@[simp] theorem State.setCore_todo (s : State) (p : Nat) (c : Core) : (s.setCore p c).todo = s.todo := rfl
@[simp] theorem State.setCore_inputs (s : State) (p : Nat) (c : Core) : (s.setCore p c).inputs = s.inputs := rfl
@[simp] theorem State.setCore_linkRound (s : State) (p : Nat) (c : Core) : (s.setCore p c).linkRound = s.linkRound := rfl
@[simp] theorem State.setCore_happenings (s : State) (p : Nat) (c : Core) : (s.setCore p c).happenings = s.happenings := rfl
@[simp] theorem State.setCore_emSent (s : State) (p : Nat) (c : Core) : (s.setCore p c).emSent = s.emSent := rfl
@[simp] theorem State.setCore_emDecls (s : State) (p : Nat) (c : Core) : (s.setCore p c).emDecls = s.emDecls := rfl

/-! ## State.onCore: a core changed -/

@[simp] theorem State.onCore_now (s : State) (p : Nat) (f : Core → Core) : (s.onCore p f).now = s.now := rfl
@[simp] theorem State.onCore_cores (s : State) (p : Nat) (f : Core → Core) : (s.onCore p f).cores = put s.cores p (f (s.core p)) := rfl
@[simp] theorem State.onCore_barriers (s : State) (p : Nat) (f : Core → Core) : (s.onCore p f).barriers = s.barriers := rfl
@[simp] theorem State.onCore_coves (s : State) (p : Nat) (f : Core → Core) : (s.onCore p f).coves = s.coves := rfl
@[simp] theorem State.onCore_cliff (s : State) (p : Nat) (f : Core → Core) : (s.onCore p f).cliff = s.cliff := rfl
@[simp] theorem State.onCore_cliffBad (s : State) (p : Nat) (f : Core → Core) : (s.onCore p f).cliffBad = s.cliffBad := rfl
@[simp] theorem State.onCore_quays (s : State) (p : Nat) (f : Core → Core) : (s.onCore p f).quays = s.quays := rfl
@[simp] theorem State.onCore_linkChans (s : State) (p : Nat) (f : Core → Core) : (s.onCore p f).linkChans = s.linkChans := rfl
@[simp] theorem State.onCore_packets (s : State) (p : Nat) (f : Core → Core) : (s.onCore p f).packets = s.packets := rfl
@[simp] theorem State.onCore_eddyOuts (s : State) (p : Nat) (f : Core → Core) : (s.onCore p f).eddyOuts = s.eddyOuts := rfl
@[simp] theorem State.onCore_eddyCredits (s : State) (p : Nat) (f : Core → Core) : (s.onCore p f).eddyCredits = s.eddyCredits := rfl
@[simp] theorem State.onCore_copies (s : State) (p : Nat) (f : Core → Core) : (s.onCore p f).copies = s.copies := rfl
@[simp] theorem State.onCore_walks (s : State) (p : Nat) (f : Core → Core) : (s.onCore p f).walks = s.walks := rfl
@[simp] theorem State.onCore_linkOut (s : State) (p : Nat) (f : Core → Core) : (s.onCore p f).linkOut = s.linkOut := rfl
@[simp] theorem State.onCore_hub (s : State) (p : Nat) (f : Core → Core) : (s.onCore p f).hub = s.hub := rfl
@[simp] theorem State.onCore_ids (s : State) (p : Nat) (f : Core → Core) : (s.onCore p f).ids = s.ids := rfl
@[simp] theorem State.onCore_free (s : State) (p : Nat) (f : Core → Core) : (s.onCore p f).free = s.free := rfl
@[simp] theorem State.onCore_frame (s : State) (p : Nat) (f : Core → Core) : (s.onCore p f).frame = s.frame := rfl
@[simp] theorem State.onCore_todo (s : State) (p : Nat) (f : Core → Core) : (s.onCore p f).todo = s.todo := rfl
@[simp] theorem State.onCore_inputs (s : State) (p : Nat) (f : Core → Core) : (s.onCore p f).inputs = s.inputs := rfl
@[simp] theorem State.onCore_linkRound (s : State) (p : Nat) (f : Core → Core) : (s.onCore p f).linkRound = s.linkRound := rfl
@[simp] theorem State.onCore_happenings (s : State) (p : Nat) (f : Core → Core) : (s.onCore p f).happenings = s.happenings := rfl
@[simp] theorem State.onCore_emSent (s : State) (p : Nat) (f : Core → Core) : (s.onCore p f).emSent = s.emSent := rfl
@[simp] theorem State.onCore_emDecls (s : State) (p : Nat) (f : Core → Core) : (s.onCore p f).emDecls = s.emDecls := rfl

/-! ## State.onCtx: a context changed -/

@[simp] theorem State.onCtx_now (s : State) (p n : Nat) (f : Ctx → Ctx) : (s.onCtx p n f).now = s.now := rfl
@[simp] theorem State.onCtx_cores (s : State) (p n : Nat) (f : Ctx → Ctx) : (s.onCtx p n f).cores = put s.cores p ((s.core p).onCtx n f) := rfl
@[simp] theorem State.onCtx_barriers (s : State) (p n : Nat) (f : Ctx → Ctx) : (s.onCtx p n f).barriers = s.barriers := rfl
@[simp] theorem State.onCtx_coves (s : State) (p n : Nat) (f : Ctx → Ctx) : (s.onCtx p n f).coves = s.coves := rfl
@[simp] theorem State.onCtx_cliff (s : State) (p n : Nat) (f : Ctx → Ctx) : (s.onCtx p n f).cliff = s.cliff := rfl
@[simp] theorem State.onCtx_cliffBad (s : State) (p n : Nat) (f : Ctx → Ctx) : (s.onCtx p n f).cliffBad = s.cliffBad := rfl
@[simp] theorem State.onCtx_quays (s : State) (p n : Nat) (f : Ctx → Ctx) : (s.onCtx p n f).quays = s.quays := rfl
@[simp] theorem State.onCtx_linkChans (s : State) (p n : Nat) (f : Ctx → Ctx) : (s.onCtx p n f).linkChans = s.linkChans := rfl
@[simp] theorem State.onCtx_packets (s : State) (p n : Nat) (f : Ctx → Ctx) : (s.onCtx p n f).packets = s.packets := rfl
@[simp] theorem State.onCtx_eddyOuts (s : State) (p n : Nat) (f : Ctx → Ctx) : (s.onCtx p n f).eddyOuts = s.eddyOuts := rfl
@[simp] theorem State.onCtx_eddyCredits (s : State) (p n : Nat) (f : Ctx → Ctx) : (s.onCtx p n f).eddyCredits = s.eddyCredits := rfl
@[simp] theorem State.onCtx_copies (s : State) (p n : Nat) (f : Ctx → Ctx) : (s.onCtx p n f).copies = s.copies := rfl
@[simp] theorem State.onCtx_walks (s : State) (p n : Nat) (f : Ctx → Ctx) : (s.onCtx p n f).walks = s.walks := rfl
@[simp] theorem State.onCtx_linkOut (s : State) (p n : Nat) (f : Ctx → Ctx) : (s.onCtx p n f).linkOut = s.linkOut := rfl
@[simp] theorem State.onCtx_hub (s : State) (p n : Nat) (f : Ctx → Ctx) : (s.onCtx p n f).hub = s.hub := rfl
@[simp] theorem State.onCtx_ids (s : State) (p n : Nat) (f : Ctx → Ctx) : (s.onCtx p n f).ids = s.ids := rfl
@[simp] theorem State.onCtx_free (s : State) (p n : Nat) (f : Ctx → Ctx) : (s.onCtx p n f).free = s.free := rfl
@[simp] theorem State.onCtx_frame (s : State) (p n : Nat) (f : Ctx → Ctx) : (s.onCtx p n f).frame = s.frame := rfl
@[simp] theorem State.onCtx_todo (s : State) (p n : Nat) (f : Ctx → Ctx) : (s.onCtx p n f).todo = s.todo := rfl
@[simp] theorem State.onCtx_inputs (s : State) (p n : Nat) (f : Ctx → Ctx) : (s.onCtx p n f).inputs = s.inputs := rfl
@[simp] theorem State.onCtx_linkRound (s : State) (p n : Nat) (f : Ctx → Ctx) : (s.onCtx p n f).linkRound = s.linkRound := rfl
@[simp] theorem State.onCtx_happenings (s : State) (p n : Nat) (f : Ctx → Ctx) : (s.onCtx p n f).happenings = s.happenings := rfl
@[simp] theorem State.onCtx_emSent (s : State) (p n : Nat) (f : Ctx → Ctx) : (s.onCtx p n f).emSent = s.emSent := rfl
@[simp] theorem State.onCtx_emDecls (s : State) (p n : Nat) (f : Ctx → Ctx) : (s.onCtx p n f).emDecls = s.emDecls := rfl

/-! ## State.onHere: the issuing core changed -/

@[simp] theorem State.onHere_now (s : State) (f : Core → Core) : (s.onHere f).now = s.now := rfl
@[simp] theorem State.onHere_cores (s : State) (f : Core → Core) : (s.onHere f).cores = put s.cores s.frame.core (f s.here) := rfl
@[simp] theorem State.onHere_barriers (s : State) (f : Core → Core) : (s.onHere f).barriers = s.barriers := rfl
@[simp] theorem State.onHere_coves (s : State) (f : Core → Core) : (s.onHere f).coves = s.coves := rfl
@[simp] theorem State.onHere_cliff (s : State) (f : Core → Core) : (s.onHere f).cliff = s.cliff := rfl
@[simp] theorem State.onHere_cliffBad (s : State) (f : Core → Core) : (s.onHere f).cliffBad = s.cliffBad := rfl
@[simp] theorem State.onHere_quays (s : State) (f : Core → Core) : (s.onHere f).quays = s.quays := rfl
@[simp] theorem State.onHere_linkChans (s : State) (f : Core → Core) : (s.onHere f).linkChans = s.linkChans := rfl
@[simp] theorem State.onHere_packets (s : State) (f : Core → Core) : (s.onHere f).packets = s.packets := rfl
@[simp] theorem State.onHere_eddyOuts (s : State) (f : Core → Core) : (s.onHere f).eddyOuts = s.eddyOuts := rfl
@[simp] theorem State.onHere_eddyCredits (s : State) (f : Core → Core) : (s.onHere f).eddyCredits = s.eddyCredits := rfl
@[simp] theorem State.onHere_copies (s : State) (f : Core → Core) : (s.onHere f).copies = s.copies := rfl
@[simp] theorem State.onHere_walks (s : State) (f : Core → Core) : (s.onHere f).walks = s.walks := rfl
@[simp] theorem State.onHere_linkOut (s : State) (f : Core → Core) : (s.onHere f).linkOut = s.linkOut := rfl
@[simp] theorem State.onHere_hub (s : State) (f : Core → Core) : (s.onHere f).hub = s.hub := rfl
@[simp] theorem State.onHere_ids (s : State) (f : Core → Core) : (s.onHere f).ids = s.ids := rfl
@[simp] theorem State.onHere_free (s : State) (f : Core → Core) : (s.onHere f).free = s.free := rfl
@[simp] theorem State.onHere_frame (s : State) (f : Core → Core) : (s.onHere f).frame = s.frame := rfl
@[simp] theorem State.onHere_todo (s : State) (f : Core → Core) : (s.onHere f).todo = s.todo := rfl
@[simp] theorem State.onHere_inputs (s : State) (f : Core → Core) : (s.onHere f).inputs = s.inputs := rfl
@[simp] theorem State.onHere_linkRound (s : State) (f : Core → Core) : (s.onHere f).linkRound = s.linkRound := rfl
@[simp] theorem State.onHere_happenings (s : State) (f : Core → Core) : (s.onHere f).happenings = s.happenings := rfl
@[simp] theorem State.onHere_emSent (s : State) (f : Core → Core) : (s.onHere f).emSent = s.emSent := rfl
@[simp] theorem State.onHere_emDecls (s : State) (f : Core → Core) : (s.onHere f).emDecls = s.emDecls := rfl

/-! ## State.onCur: the issuing context changed -/

@[simp] theorem State.onCur_now (s : State) (f : Ctx → Ctx) : (s.onCur f).now = s.now := rfl
@[simp] theorem State.onCur_cores (s : State) (f : Ctx → Ctx) : (s.onCur f).cores = put s.cores s.frame.core (s.here.onCtx s.frame.ctx f) := rfl
@[simp] theorem State.onCur_barriers (s : State) (f : Ctx → Ctx) : (s.onCur f).barriers = s.barriers := rfl
@[simp] theorem State.onCur_coves (s : State) (f : Ctx → Ctx) : (s.onCur f).coves = s.coves := rfl
@[simp] theorem State.onCur_cliff (s : State) (f : Ctx → Ctx) : (s.onCur f).cliff = s.cliff := rfl
@[simp] theorem State.onCur_cliffBad (s : State) (f : Ctx → Ctx) : (s.onCur f).cliffBad = s.cliffBad := rfl
@[simp] theorem State.onCur_quays (s : State) (f : Ctx → Ctx) : (s.onCur f).quays = s.quays := rfl
@[simp] theorem State.onCur_linkChans (s : State) (f : Ctx → Ctx) : (s.onCur f).linkChans = s.linkChans := rfl
@[simp] theorem State.onCur_packets (s : State) (f : Ctx → Ctx) : (s.onCur f).packets = s.packets := rfl
@[simp] theorem State.onCur_eddyOuts (s : State) (f : Ctx → Ctx) : (s.onCur f).eddyOuts = s.eddyOuts := rfl
@[simp] theorem State.onCur_eddyCredits (s : State) (f : Ctx → Ctx) : (s.onCur f).eddyCredits = s.eddyCredits := rfl
@[simp] theorem State.onCur_copies (s : State) (f : Ctx → Ctx) : (s.onCur f).copies = s.copies := rfl
@[simp] theorem State.onCur_walks (s : State) (f : Ctx → Ctx) : (s.onCur f).walks = s.walks := rfl
@[simp] theorem State.onCur_linkOut (s : State) (f : Ctx → Ctx) : (s.onCur f).linkOut = s.linkOut := rfl
@[simp] theorem State.onCur_hub (s : State) (f : Ctx → Ctx) : (s.onCur f).hub = s.hub := rfl
@[simp] theorem State.onCur_ids (s : State) (f : Ctx → Ctx) : (s.onCur f).ids = s.ids := rfl
@[simp] theorem State.onCur_free (s : State) (f : Ctx → Ctx) : (s.onCur f).free = s.free := rfl
@[simp] theorem State.onCur_frame (s : State) (f : Ctx → Ctx) : (s.onCur f).frame = s.frame := rfl
@[simp] theorem State.onCur_todo (s : State) (f : Ctx → Ctx) : (s.onCur f).todo = s.todo := rfl
@[simp] theorem State.onCur_inputs (s : State) (f : Ctx → Ctx) : (s.onCur f).inputs = s.inputs := rfl
@[simp] theorem State.onCur_linkRound (s : State) (f : Ctx → Ctx) : (s.onCur f).linkRound = s.linkRound := rfl
@[simp] theorem State.onCur_happenings (s : State) (f : Ctx → Ctx) : (s.onCur f).happenings = s.happenings := rfl
@[simp] theorem State.onCur_emSent (s : State) (f : Ctx → Ctx) : (s.onCur f).emSent = s.emSent := rfl
@[simp] theorem State.onCur_emDecls (s : State) (f : Ctx → Ctx) : (s.onCur f).emDecls = s.emDecls := rfl

/-! ## State.bump: later free values are fresh -/

@[simp] theorem State.bump_now (s : State) : (s.bump).now = s.now := rfl
@[simp] theorem State.bump_cores (s : State) : (s.bump).cores = s.cores := rfl
@[simp] theorem State.bump_barriers (s : State) : (s.bump).barriers = s.barriers := rfl
@[simp] theorem State.bump_coves (s : State) : (s.bump).coves = s.coves := rfl
@[simp] theorem State.bump_cliff (s : State) : (s.bump).cliff = s.cliff := rfl
@[simp] theorem State.bump_cliffBad (s : State) : (s.bump).cliffBad = s.cliffBad := rfl
@[simp] theorem State.bump_quays (s : State) : (s.bump).quays = s.quays := rfl
@[simp] theorem State.bump_linkChans (s : State) : (s.bump).linkChans = s.linkChans := rfl
@[simp] theorem State.bump_packets (s : State) : (s.bump).packets = s.packets := rfl
@[simp] theorem State.bump_eddyOuts (s : State) : (s.bump).eddyOuts = s.eddyOuts := rfl
@[simp] theorem State.bump_eddyCredits (s : State) : (s.bump).eddyCredits = s.eddyCredits := rfl
@[simp] theorem State.bump_copies (s : State) : (s.bump).copies = s.copies := rfl
@[simp] theorem State.bump_walks (s : State) : (s.bump).walks = s.walks := rfl
@[simp] theorem State.bump_linkOut (s : State) : (s.bump).linkOut = s.linkOut := rfl
@[simp] theorem State.bump_hub (s : State) : (s.bump).hub = s.hub := rfl
@[simp] theorem State.bump_ids (s : State) : (s.bump).ids = s.ids := rfl
@[simp] theorem State.bump_free (s : State) : (s.bump).free = s.free + 1 := rfl
@[simp] theorem State.bump_frame (s : State) : (s.bump).frame = s.frame := rfl
@[simp] theorem State.bump_todo (s : State) : (s.bump).todo = s.todo := rfl
@[simp] theorem State.bump_inputs (s : State) : (s.bump).inputs = s.inputs := rfl
@[simp] theorem State.bump_linkRound (s : State) : (s.bump).linkRound = s.linkRound := rfl
@[simp] theorem State.bump_happenings (s : State) : (s.bump).happenings = s.happenings := rfl
@[simp] theorem State.bump_emSent (s : State) : (s.bump).emSent = s.emSent := rfl
@[simp] theorem State.bump_emDecls (s : State) : (s.bump).emDecls = s.emDecls := rfl

/-! ## State.atSlot: the frame turned to one slot -/

@[simp] theorem State.atSlot_now (s : State) (k : Nat) (w : DWord) : (s.atSlot k w).now = s.now := rfl
@[simp] theorem State.atSlot_cores (s : State) (k : Nat) (w : DWord) : (s.atSlot k w).cores = s.cores := rfl
@[simp] theorem State.atSlot_barriers (s : State) (k : Nat) (w : DWord) : (s.atSlot k w).barriers = s.barriers := rfl
@[simp] theorem State.atSlot_coves (s : State) (k : Nat) (w : DWord) : (s.atSlot k w).coves = s.coves := rfl
@[simp] theorem State.atSlot_cliff (s : State) (k : Nat) (w : DWord) : (s.atSlot k w).cliff = s.cliff := rfl
@[simp] theorem State.atSlot_cliffBad (s : State) (k : Nat) (w : DWord) : (s.atSlot k w).cliffBad = s.cliffBad := rfl
@[simp] theorem State.atSlot_quays (s : State) (k : Nat) (w : DWord) : (s.atSlot k w).quays = s.quays := rfl
@[simp] theorem State.atSlot_linkChans (s : State) (k : Nat) (w : DWord) : (s.atSlot k w).linkChans = s.linkChans := rfl
@[simp] theorem State.atSlot_packets (s : State) (k : Nat) (w : DWord) : (s.atSlot k w).packets = s.packets := rfl
@[simp] theorem State.atSlot_eddyOuts (s : State) (k : Nat) (w : DWord) : (s.atSlot k w).eddyOuts = s.eddyOuts := rfl
@[simp] theorem State.atSlot_eddyCredits (s : State) (k : Nat) (w : DWord) : (s.atSlot k w).eddyCredits = s.eddyCredits := rfl
@[simp] theorem State.atSlot_copies (s : State) (k : Nat) (w : DWord) : (s.atSlot k w).copies = s.copies := rfl
@[simp] theorem State.atSlot_walks (s : State) (k : Nat) (w : DWord) : (s.atSlot k w).walks = s.walks := rfl
@[simp] theorem State.atSlot_linkOut (s : State) (k : Nat) (w : DWord) : (s.atSlot k w).linkOut = s.linkOut := rfl
@[simp] theorem State.atSlot_hub (s : State) (k : Nat) (w : DWord) : (s.atSlot k w).hub = s.hub := rfl
@[simp] theorem State.atSlot_ids (s : State) (k : Nat) (w : DWord) : (s.atSlot k w).ids = s.ids := rfl
@[simp] theorem State.atSlot_free (s : State) (k : Nat) (w : DWord) : (s.atSlot k w).free = s.free := rfl
@[simp] theorem State.atSlot_frame (s : State) (k : Nat) (w : DWord) : (s.atSlot k w).frame = { s.frame with slot := k, words := w } := rfl
@[simp] theorem State.atSlot_todo (s : State) (k : Nat) (w : DWord) : (s.atSlot k w).todo = s.todo := rfl
@[simp] theorem State.atSlot_inputs (s : State) (k : Nat) (w : DWord) : (s.atSlot k w).inputs = s.inputs := rfl
@[simp] theorem State.atSlot_linkRound (s : State) (k : Nat) (w : DWord) : (s.atSlot k w).linkRound = s.linkRound := rfl
@[simp] theorem State.atSlot_happenings (s : State) (k : Nat) (w : DWord) : (s.atSlot k w).happenings = s.happenings := rfl
@[simp] theorem State.atSlot_emSent (s : State) (k : Nat) (w : DWord) : (s.atSlot k w).emSent = s.emSent := rfl
@[simp] theorem State.atSlot_emDecls (s : State) (k : Nat) (w : DWord) : (s.atSlot k w).emDecls = s.emDecls := rfl

/-! ## State.jump: a branch performed -/

@[simp] theorem State.jump_now (s : State) (t : DWord) : (s.jump t).now = s.now := rfl
@[simp] theorem State.jump_cores (s : State) (t : DWord) : (s.jump t).cores = s.cores := rfl
@[simp] theorem State.jump_barriers (s : State) (t : DWord) : (s.jump t).barriers = s.barriers := rfl
@[simp] theorem State.jump_coves (s : State) (t : DWord) : (s.jump t).coves = s.coves := rfl
@[simp] theorem State.jump_cliff (s : State) (t : DWord) : (s.jump t).cliff = s.cliff := rfl
@[simp] theorem State.jump_cliffBad (s : State) (t : DWord) : (s.jump t).cliffBad = s.cliffBad := rfl
@[simp] theorem State.jump_quays (s : State) (t : DWord) : (s.jump t).quays = s.quays := rfl
@[simp] theorem State.jump_linkChans (s : State) (t : DWord) : (s.jump t).linkChans = s.linkChans := rfl
@[simp] theorem State.jump_packets (s : State) (t : DWord) : (s.jump t).packets = s.packets := rfl
@[simp] theorem State.jump_eddyOuts (s : State) (t : DWord) : (s.jump t).eddyOuts = s.eddyOuts := rfl
@[simp] theorem State.jump_eddyCredits (s : State) (t : DWord) : (s.jump t).eddyCredits = s.eddyCredits := rfl
@[simp] theorem State.jump_copies (s : State) (t : DWord) : (s.jump t).copies = s.copies := rfl
@[simp] theorem State.jump_walks (s : State) (t : DWord) : (s.jump t).walks = s.walks := rfl
@[simp] theorem State.jump_linkOut (s : State) (t : DWord) : (s.jump t).linkOut = s.linkOut := rfl
@[simp] theorem State.jump_hub (s : State) (t : DWord) : (s.jump t).hub = s.hub := rfl
@[simp] theorem State.jump_ids (s : State) (t : DWord) : (s.jump t).ids = s.ids := rfl
@[simp] theorem State.jump_free (s : State) (t : DWord) : (s.jump t).free = s.free := rfl
@[simp] theorem State.jump_frame (s : State) (t : DWord) : (s.jump t).frame = { s.frame with target := some t } := rfl
@[simp] theorem State.jump_todo (s : State) (t : DWord) : (s.jump t).todo = s.todo := rfl
@[simp] theorem State.jump_inputs (s : State) (t : DWord) : (s.jump t).inputs = s.inputs := rfl
@[simp] theorem State.jump_linkRound (s : State) (t : DWord) : (s.jump t).linkRound = s.linkRound := rfl
@[simp] theorem State.jump_happenings (s : State) (t : DWord) : (s.jump t).happenings = s.happenings := rfl
@[simp] theorem State.jump_emSent (s : State) (t : DWord) : (s.jump t).emSent = s.emSent := rfl
@[simp] theorem State.jump_emDecls (s : State) (t : DWord) : (s.jump t).emDecls = s.emDecls := rfl

/-! ## State.endFrame: the frame put away -/

@[simp] theorem State.endFrame_now (s : State) : (s.endFrame).now = s.now := rfl
@[simp] theorem State.endFrame_cores (s : State) : (s.endFrame).cores = s.cores := rfl
@[simp] theorem State.endFrame_barriers (s : State) : (s.endFrame).barriers = s.barriers := rfl
@[simp] theorem State.endFrame_coves (s : State) : (s.endFrame).coves = s.coves := rfl
@[simp] theorem State.endFrame_cliff (s : State) : (s.endFrame).cliff = s.cliff := rfl
@[simp] theorem State.endFrame_cliffBad (s : State) : (s.endFrame).cliffBad = s.cliffBad := rfl
@[simp] theorem State.endFrame_quays (s : State) : (s.endFrame).quays = s.quays := rfl
@[simp] theorem State.endFrame_linkChans (s : State) : (s.endFrame).linkChans = s.linkChans := rfl
@[simp] theorem State.endFrame_packets (s : State) : (s.endFrame).packets = s.packets := rfl
@[simp] theorem State.endFrame_eddyOuts (s : State) : (s.endFrame).eddyOuts = s.eddyOuts := rfl
@[simp] theorem State.endFrame_eddyCredits (s : State) : (s.endFrame).eddyCredits = s.eddyCredits := rfl
@[simp] theorem State.endFrame_copies (s : State) : (s.endFrame).copies = s.copies := rfl
@[simp] theorem State.endFrame_walks (s : State) : (s.endFrame).walks = s.walks := rfl
@[simp] theorem State.endFrame_linkOut (s : State) : (s.endFrame).linkOut = s.linkOut := rfl
@[simp] theorem State.endFrame_hub (s : State) : (s.endFrame).hub = s.hub := rfl
@[simp] theorem State.endFrame_ids (s : State) : (s.endFrame).ids = s.ids := rfl
@[simp] theorem State.endFrame_free (s : State) : (s.endFrame).free = s.free + 1 := rfl
@[simp] theorem State.endFrame_frame (s : State) : (s.endFrame).frame = Frame.reset := rfl
@[simp] theorem State.endFrame_todo (s : State) : (s.endFrame).todo = s.todo := rfl
@[simp] theorem State.endFrame_inputs (s : State) : (s.endFrame).inputs = s.inputs := rfl
@[simp] theorem State.endFrame_linkRound (s : State) : (s.endFrame).linkRound = s.linkRound := rfl
@[simp] theorem State.endFrame_happenings (s : State) : (s.endFrame).happenings = s.happenings := rfl
@[simp] theorem State.endFrame_emSent (s : State) : (s.endFrame).emSent = s.emSent := rfl
@[simp] theorem State.endFrame_emDecls (s : State) : (s.endFrame).emDecls = s.emDecls := rfl

/-! ## State.write: a register write issued -/

@[simp] theorem State.write_now (s : State) (d : Dest) (v : Val) (lat : Nat) : (s.write d v lat).now = s.now := rfl
@[simp] theorem State.write_cores (s : State) (d : Dest) (v : Val) (lat : Nat) : (s.write d v lat).cores = put s.cores s.frame.core { s.here with writes := s.here.writes ++ [⟨d, v, s.frame.ctx, s.now, some (s.now + 16 * lat - 1), 0, []⟩] } := rfl
@[simp] theorem State.write_barriers (s : State) (d : Dest) (v : Val) (lat : Nat) : (s.write d v lat).barriers = s.barriers := rfl
@[simp] theorem State.write_coves (s : State) (d : Dest) (v : Val) (lat : Nat) : (s.write d v lat).coves = s.coves := rfl
@[simp] theorem State.write_cliff (s : State) (d : Dest) (v : Val) (lat : Nat) : (s.write d v lat).cliff = s.cliff := rfl
@[simp] theorem State.write_cliffBad (s : State) (d : Dest) (v : Val) (lat : Nat) : (s.write d v lat).cliffBad = s.cliffBad := rfl
@[simp] theorem State.write_quays (s : State) (d : Dest) (v : Val) (lat : Nat) : (s.write d v lat).quays = s.quays := rfl
@[simp] theorem State.write_linkChans (s : State) (d : Dest) (v : Val) (lat : Nat) : (s.write d v lat).linkChans = s.linkChans := rfl
@[simp] theorem State.write_packets (s : State) (d : Dest) (v : Val) (lat : Nat) : (s.write d v lat).packets = s.packets := rfl
@[simp] theorem State.write_eddyOuts (s : State) (d : Dest) (v : Val) (lat : Nat) : (s.write d v lat).eddyOuts = s.eddyOuts := rfl
@[simp] theorem State.write_eddyCredits (s : State) (d : Dest) (v : Val) (lat : Nat) : (s.write d v lat).eddyCredits = s.eddyCredits := rfl
@[simp] theorem State.write_copies (s : State) (d : Dest) (v : Val) (lat : Nat) : (s.write d v lat).copies = s.copies := rfl
@[simp] theorem State.write_walks (s : State) (d : Dest) (v : Val) (lat : Nat) : (s.write d v lat).walks = s.walks := rfl
@[simp] theorem State.write_linkOut (s : State) (d : Dest) (v : Val) (lat : Nat) : (s.write d v lat).linkOut = s.linkOut := rfl
@[simp] theorem State.write_hub (s : State) (d : Dest) (v : Val) (lat : Nat) : (s.write d v lat).hub = s.hub := rfl
@[simp] theorem State.write_ids (s : State) (d : Dest) (v : Val) (lat : Nat) : (s.write d v lat).ids = s.ids := rfl
@[simp] theorem State.write_free (s : State) (d : Dest) (v : Val) (lat : Nat) : (s.write d v lat).free = s.free := rfl
@[simp] theorem State.write_frame (s : State) (d : Dest) (v : Val) (lat : Nat) : (s.write d v lat).frame = s.frame := rfl
@[simp] theorem State.write_todo (s : State) (d : Dest) (v : Val) (lat : Nat) : (s.write d v lat).todo = s.todo := rfl
@[simp] theorem State.write_inputs (s : State) (d : Dest) (v : Val) (lat : Nat) : (s.write d v lat).inputs = s.inputs := rfl
@[simp] theorem State.write_linkRound (s : State) (d : Dest) (v : Val) (lat : Nat) : (s.write d v lat).linkRound = s.linkRound := rfl
@[simp] theorem State.write_happenings (s : State) (d : Dest) (v : Val) (lat : Nat) : (s.write d v lat).happenings = s.happenings := rfl
@[simp] theorem State.write_emSent (s : State) (d : Dest) (v : Val) (lat : Nat) : (s.write d v lat).emSent = s.emSent := rfl
@[simp] theorem State.write_emDecls (s : State) (d : Dest) (v : Val) (lat : Nat) : (s.write d v lat).emDecls = s.emDecls := rfl

/-! ## State.owe: a result owed -/

@[simp] theorem State.owe_now (s : State) (d : Dest) (id : Nat) : (s.owe d id).now = s.now := rfl
@[simp] theorem State.owe_barriers (s : State) (d : Dest) (id : Nat) : (s.owe d id).barriers = s.barriers := rfl
@[simp] theorem State.owe_coves (s : State) (d : Dest) (id : Nat) : (s.owe d id).coves = s.coves := rfl
@[simp] theorem State.owe_cliff (s : State) (d : Dest) (id : Nat) : (s.owe d id).cliff = s.cliff := rfl
@[simp] theorem State.owe_cliffBad (s : State) (d : Dest) (id : Nat) : (s.owe d id).cliffBad = s.cliffBad := rfl
@[simp] theorem State.owe_quays (s : State) (d : Dest) (id : Nat) : (s.owe d id).quays = s.quays := rfl
@[simp] theorem State.owe_linkChans (s : State) (d : Dest) (id : Nat) : (s.owe d id).linkChans = s.linkChans := rfl
@[simp] theorem State.owe_packets (s : State) (d : Dest) (id : Nat) : (s.owe d id).packets = s.packets := rfl
@[simp] theorem State.owe_eddyOuts (s : State) (d : Dest) (id : Nat) : (s.owe d id).eddyOuts = s.eddyOuts := rfl
@[simp] theorem State.owe_eddyCredits (s : State) (d : Dest) (id : Nat) : (s.owe d id).eddyCredits = s.eddyCredits := rfl
@[simp] theorem State.owe_copies (s : State) (d : Dest) (id : Nat) : (s.owe d id).copies = s.copies := rfl
@[simp] theorem State.owe_walks (s : State) (d : Dest) (id : Nat) : (s.owe d id).walks = s.walks := rfl
@[simp] theorem State.owe_linkOut (s : State) (d : Dest) (id : Nat) : (s.owe d id).linkOut = s.linkOut := rfl
@[simp] theorem State.owe_hub (s : State) (d : Dest) (id : Nat) : (s.owe d id).hub = s.hub := rfl
@[simp] theorem State.owe_ids (s : State) (d : Dest) (id : Nat) : (s.owe d id).ids = s.ids := rfl
@[simp] theorem State.owe_free (s : State) (d : Dest) (id : Nat) : (s.owe d id).free = s.free := rfl
@[simp] theorem State.owe_frame (s : State) (d : Dest) (id : Nat) : (s.owe d id).frame = s.frame := rfl
@[simp] theorem State.owe_todo (s : State) (d : Dest) (id : Nat) : (s.owe d id).todo = s.todo := rfl
@[simp] theorem State.owe_inputs (s : State) (d : Dest) (id : Nat) : (s.owe d id).inputs = s.inputs := rfl
@[simp] theorem State.owe_linkRound (s : State) (d : Dest) (id : Nat) : (s.owe d id).linkRound = s.linkRound := rfl
@[simp] theorem State.owe_happenings (s : State) (d : Dest) (id : Nat) : (s.owe d id).happenings = s.happenings := rfl
@[simp] theorem State.owe_emSent (s : State) (d : Dest) (id : Nat) : (s.owe d id).emSent = s.emSent := rfl
@[simp] theorem State.owe_emDecls (s : State) (d : Dest) (id : Nat) : (s.owe d id).emDecls = s.emDecls := rfl

/-! ## State.dropPacket: a packet gone -/

@[simp] theorem State.dropPacket_now (s : State) (id : Nat) : (s.dropPacket id).now = s.now := rfl
@[simp] theorem State.dropPacket_cores (s : State) (id : Nat) : (s.dropPacket id).cores = s.cores := rfl
@[simp] theorem State.dropPacket_barriers (s : State) (id : Nat) : (s.dropPacket id).barriers = s.barriers := rfl
@[simp] theorem State.dropPacket_coves (s : State) (id : Nat) : (s.dropPacket id).coves = s.coves := rfl
@[simp] theorem State.dropPacket_cliff (s : State) (id : Nat) : (s.dropPacket id).cliff = s.cliff := rfl
@[simp] theorem State.dropPacket_cliffBad (s : State) (id : Nat) : (s.dropPacket id).cliffBad = s.cliffBad := rfl
@[simp] theorem State.dropPacket_quays (s : State) (id : Nat) : (s.dropPacket id).quays = s.quays := rfl
@[simp] theorem State.dropPacket_linkChans (s : State) (id : Nat) : (s.dropPacket id).linkChans = s.linkChans := rfl
@[simp] theorem State.dropPacket_packets (s : State) (id : Nat) : (s.dropPacket id).packets = s.packets.filter fun k => k.id != id := rfl
@[simp] theorem State.dropPacket_eddyOuts (s : State) (id : Nat) : (s.dropPacket id).eddyOuts = s.eddyOuts := rfl
@[simp] theorem State.dropPacket_eddyCredits (s : State) (id : Nat) : (s.dropPacket id).eddyCredits = s.eddyCredits := rfl
@[simp] theorem State.dropPacket_copies (s : State) (id : Nat) : (s.dropPacket id).copies = s.copies := rfl
@[simp] theorem State.dropPacket_walks (s : State) (id : Nat) : (s.dropPacket id).walks = s.walks := rfl
@[simp] theorem State.dropPacket_linkOut (s : State) (id : Nat) : (s.dropPacket id).linkOut = s.linkOut := rfl
@[simp] theorem State.dropPacket_hub (s : State) (id : Nat) : (s.dropPacket id).hub = s.hub := rfl
@[simp] theorem State.dropPacket_ids (s : State) (id : Nat) : (s.dropPacket id).ids = s.ids := rfl
@[simp] theorem State.dropPacket_free (s : State) (id : Nat) : (s.dropPacket id).free = s.free := rfl
@[simp] theorem State.dropPacket_frame (s : State) (id : Nat) : (s.dropPacket id).frame = s.frame := rfl
@[simp] theorem State.dropPacket_todo (s : State) (id : Nat) : (s.dropPacket id).todo = s.todo := rfl
@[simp] theorem State.dropPacket_inputs (s : State) (id : Nat) : (s.dropPacket id).inputs = s.inputs := rfl
@[simp] theorem State.dropPacket_linkRound (s : State) (id : Nat) : (s.dropPacket id).linkRound = s.linkRound := rfl
@[simp] theorem State.dropPacket_happenings (s : State) (id : Nat) : (s.dropPacket id).happenings = s.happenings := rfl
@[simp] theorem State.dropPacket_emSent (s : State) (id : Nat) : (s.dropPacket id).emSent = s.emSent := rfl
@[simp] theorem State.dropPacket_emDecls (s : State) (id : Nat) : (s.dropPacket id).emDecls = s.emDecls := rfl

/-! ## State.onPacket: a packet changed -/

@[simp] theorem State.onPacket_now (s : State) (id : Nat) (f : Packet → Packet) : (s.onPacket id f).now = s.now := rfl
@[simp] theorem State.onPacket_cores (s : State) (id : Nat) (f : Packet → Packet) : (s.onPacket id f).cores = s.cores := rfl
@[simp] theorem State.onPacket_barriers (s : State) (id : Nat) (f : Packet → Packet) : (s.onPacket id f).barriers = s.barriers := rfl
@[simp] theorem State.onPacket_coves (s : State) (id : Nat) (f : Packet → Packet) : (s.onPacket id f).coves = s.coves := rfl
@[simp] theorem State.onPacket_cliff (s : State) (id : Nat) (f : Packet → Packet) : (s.onPacket id f).cliff = s.cliff := rfl
@[simp] theorem State.onPacket_cliffBad (s : State) (id : Nat) (f : Packet → Packet) : (s.onPacket id f).cliffBad = s.cliffBad := rfl
@[simp] theorem State.onPacket_quays (s : State) (id : Nat) (f : Packet → Packet) : (s.onPacket id f).quays = s.quays := rfl
@[simp] theorem State.onPacket_linkChans (s : State) (id : Nat) (f : Packet → Packet) : (s.onPacket id f).linkChans = s.linkChans := rfl
@[simp] theorem State.onPacket_packets (s : State) (id : Nat) (f : Packet → Packet) : (s.onPacket id f).packets = s.packets.map fun k => if k.id = id then f k else k := rfl
@[simp] theorem State.onPacket_eddyOuts (s : State) (id : Nat) (f : Packet → Packet) : (s.onPacket id f).eddyOuts = s.eddyOuts := rfl
@[simp] theorem State.onPacket_eddyCredits (s : State) (id : Nat) (f : Packet → Packet) : (s.onPacket id f).eddyCredits = s.eddyCredits := rfl
@[simp] theorem State.onPacket_copies (s : State) (id : Nat) (f : Packet → Packet) : (s.onPacket id f).copies = s.copies := rfl
@[simp] theorem State.onPacket_walks (s : State) (id : Nat) (f : Packet → Packet) : (s.onPacket id f).walks = s.walks := rfl
@[simp] theorem State.onPacket_linkOut (s : State) (id : Nat) (f : Packet → Packet) : (s.onPacket id f).linkOut = s.linkOut := rfl
@[simp] theorem State.onPacket_hub (s : State) (id : Nat) (f : Packet → Packet) : (s.onPacket id f).hub = s.hub := rfl
@[simp] theorem State.onPacket_ids (s : State) (id : Nat) (f : Packet → Packet) : (s.onPacket id f).ids = s.ids := rfl
@[simp] theorem State.onPacket_free (s : State) (id : Nat) (f : Packet → Packet) : (s.onPacket id f).free = s.free := rfl
@[simp] theorem State.onPacket_frame (s : State) (id : Nat) (f : Packet → Packet) : (s.onPacket id f).frame = s.frame := rfl
@[simp] theorem State.onPacket_todo (s : State) (id : Nat) (f : Packet → Packet) : (s.onPacket id f).todo = s.todo := rfl
@[simp] theorem State.onPacket_inputs (s : State) (id : Nat) (f : Packet → Packet) : (s.onPacket id f).inputs = s.inputs := rfl
@[simp] theorem State.onPacket_linkRound (s : State) (id : Nat) (f : Packet → Packet) : (s.onPacket id f).linkRound = s.linkRound := rfl
@[simp] theorem State.onPacket_happenings (s : State) (id : Nat) (f : Packet → Packet) : (s.onPacket id f).happenings = s.happenings := rfl
@[simp] theorem State.onPacket_emSent (s : State) (id : Nat) (f : Packet → Packet) : (s.onPacket id f).emSent = s.emSent := rfl
@[simp] theorem State.onPacket_emDecls (s : State) (id : Nat) (f : Packet → Packet) : (s.onPacket id f).emDecls = s.emDecls := rfl

/-! ## State.onHub: the hub changed -/

@[simp] theorem State.onHub_now (s : State) (f : Hub → Hub) : (s.onHub f).now = s.now := rfl
@[simp] theorem State.onHub_cores (s : State) (f : Hub → Hub) : (s.onHub f).cores = s.cores := rfl
@[simp] theorem State.onHub_barriers (s : State) (f : Hub → Hub) : (s.onHub f).barriers = s.barriers := rfl
@[simp] theorem State.onHub_coves (s : State) (f : Hub → Hub) : (s.onHub f).coves = s.coves := rfl
@[simp] theorem State.onHub_cliff (s : State) (f : Hub → Hub) : (s.onHub f).cliff = s.cliff := rfl
@[simp] theorem State.onHub_cliffBad (s : State) (f : Hub → Hub) : (s.onHub f).cliffBad = s.cliffBad := rfl
@[simp] theorem State.onHub_quays (s : State) (f : Hub → Hub) : (s.onHub f).quays = s.quays := rfl
@[simp] theorem State.onHub_linkChans (s : State) (f : Hub → Hub) : (s.onHub f).linkChans = s.linkChans := rfl
@[simp] theorem State.onHub_packets (s : State) (f : Hub → Hub) : (s.onHub f).packets = s.packets := rfl
@[simp] theorem State.onHub_eddyOuts (s : State) (f : Hub → Hub) : (s.onHub f).eddyOuts = s.eddyOuts := rfl
@[simp] theorem State.onHub_eddyCredits (s : State) (f : Hub → Hub) : (s.onHub f).eddyCredits = s.eddyCredits := rfl
@[simp] theorem State.onHub_copies (s : State) (f : Hub → Hub) : (s.onHub f).copies = s.copies := rfl
@[simp] theorem State.onHub_walks (s : State) (f : Hub → Hub) : (s.onHub f).walks = s.walks := rfl
@[simp] theorem State.onHub_linkOut (s : State) (f : Hub → Hub) : (s.onHub f).linkOut = s.linkOut := rfl
@[simp] theorem State.onHub_hub (s : State) (f : Hub → Hub) : (s.onHub f).hub = f s.hub := rfl
@[simp] theorem State.onHub_ids (s : State) (f : Hub → Hub) : (s.onHub f).ids = s.ids := rfl
@[simp] theorem State.onHub_free (s : State) (f : Hub → Hub) : (s.onHub f).free = s.free := rfl
@[simp] theorem State.onHub_frame (s : State) (f : Hub → Hub) : (s.onHub f).frame = s.frame := rfl
@[simp] theorem State.onHub_todo (s : State) (f : Hub → Hub) : (s.onHub f).todo = s.todo := rfl
@[simp] theorem State.onHub_inputs (s : State) (f : Hub → Hub) : (s.onHub f).inputs = s.inputs := rfl
@[simp] theorem State.onHub_linkRound (s : State) (f : Hub → Hub) : (s.onHub f).linkRound = s.linkRound := rfl
@[simp] theorem State.onHub_happenings (s : State) (f : Hub → Hub) : (s.onHub f).happenings = s.happenings := rfl
@[simp] theorem State.onHub_emSent (s : State) (f : Hub → Hub) : (s.onHub f).emSent = s.emSent := rfl
@[simp] theorem State.onHub_emDecls (s : State) (f : Hub → Hub) : (s.onHub f).emDecls = s.emDecls := rfl

/-! ## State.onQueue: a queue changed -/

@[simp] theorem State.onQueue_now (s : State) (q : Nat) (f : Queue → Queue) : (s.onQueue q f).now = s.now := rfl
@[simp] theorem State.onQueue_cores (s : State) (q : Nat) (f : Queue → Queue) : (s.onQueue q f).cores = s.cores := rfl
@[simp] theorem State.onQueue_barriers (s : State) (q : Nat) (f : Queue → Queue) : (s.onQueue q f).barriers = s.barriers := rfl
@[simp] theorem State.onQueue_coves (s : State) (q : Nat) (f : Queue → Queue) : (s.onQueue q f).coves = s.coves := rfl
@[simp] theorem State.onQueue_cliff (s : State) (q : Nat) (f : Queue → Queue) : (s.onQueue q f).cliff = s.cliff := rfl
@[simp] theorem State.onQueue_cliffBad (s : State) (q : Nat) (f : Queue → Queue) : (s.onQueue q f).cliffBad = s.cliffBad := rfl
@[simp] theorem State.onQueue_quays (s : State) (q : Nat) (f : Queue → Queue) : (s.onQueue q f).quays = s.quays := rfl
@[simp] theorem State.onQueue_linkChans (s : State) (q : Nat) (f : Queue → Queue) : (s.onQueue q f).linkChans = s.linkChans := rfl
@[simp] theorem State.onQueue_packets (s : State) (q : Nat) (f : Queue → Queue) : (s.onQueue q f).packets = s.packets := rfl
@[simp] theorem State.onQueue_eddyOuts (s : State) (q : Nat) (f : Queue → Queue) : (s.onQueue q f).eddyOuts = s.eddyOuts := rfl
@[simp] theorem State.onQueue_eddyCredits (s : State) (q : Nat) (f : Queue → Queue) : (s.onQueue q f).eddyCredits = s.eddyCredits := rfl
@[simp] theorem State.onQueue_copies (s : State) (q : Nat) (f : Queue → Queue) : (s.onQueue q f).copies = s.copies := rfl
@[simp] theorem State.onQueue_walks (s : State) (q : Nat) (f : Queue → Queue) : (s.onQueue q f).walks = s.walks := rfl
@[simp] theorem State.onQueue_linkOut (s : State) (q : Nat) (f : Queue → Queue) : (s.onQueue q f).linkOut = s.linkOut := rfl
@[simp] theorem State.onQueue_ids (s : State) (q : Nat) (f : Queue → Queue) : (s.onQueue q f).ids = s.ids := rfl
@[simp] theorem State.onQueue_free (s : State) (q : Nat) (f : Queue → Queue) : (s.onQueue q f).free = s.free := rfl
@[simp] theorem State.onQueue_frame (s : State) (q : Nat) (f : Queue → Queue) : (s.onQueue q f).frame = s.frame := rfl
@[simp] theorem State.onQueue_todo (s : State) (q : Nat) (f : Queue → Queue) : (s.onQueue q f).todo = s.todo := rfl
@[simp] theorem State.onQueue_inputs (s : State) (q : Nat) (f : Queue → Queue) : (s.onQueue q f).inputs = s.inputs := rfl
@[simp] theorem State.onQueue_linkRound (s : State) (q : Nat) (f : Queue → Queue) : (s.onQueue q f).linkRound = s.linkRound := rfl
@[simp] theorem State.onQueue_happenings (s : State) (q : Nat) (f : Queue → Queue) : (s.onQueue q f).happenings = s.happenings := rfl
@[simp] theorem State.onQueue_emSent (s : State) (q : Nat) (f : Queue → Queue) : (s.onQueue q f).emSent = s.emSent := rfl
@[simp] theorem State.onQueue_emDecls (s : State) (q : Nat) (f : Queue → Queue) : (s.onQueue q f).emDecls = s.emDecls := rfl

/-! ## Core.setCtx: a context replaced -/

@[simp] theorem Core.setCtx_ctxs (c : Core) (n : Nat) (x : Ctx) : (c.setCtx n x).ctxs = put c.ctxs n x := rfl
@[simp] theorem Core.setCtx_ks (c : Core) (n : Nat) (x : Ctx) : (c.setCtx n x).ks = c.ks := rfl
@[simp] theorem Core.setCtx_ws (c : Core) (n : Nat) (x : Ctx) : (c.setCtx n x).ws = c.ws := rfl
@[simp] theorem Core.setCtx_writes (c : Core) (n : Nat) (x : Ctx) : (c.setCtx n x).writes = c.writes := rfl
@[simp] theorem Core.setCtx_tvec (c : Core) (n : Nat) (x : Ctx) : (c.setCtx n x).tvec = c.tvec := rfl
@[simp] theorem Core.setCtx_deleg (c : Core) (n : Nat) (x : Ctx) : (c.setCtx n x).deleg = c.deleg := rfl
@[simp] theorem Core.setCtx_timer (c : Core) (n : Nat) (x : Ctx) : (c.setCtx n x).timer = c.timer := rfl
@[simp] theorem Core.setCtx_csel (c : Core) (n : Nat) (x : Ctx) : (c.setCtx n x).csel = c.csel := rfl
@[simp] theorem Core.setCtx_qarb (c : Core) (n : Nat) (x : Ctx) : (c.setCtx n x).qarb = c.qarb := rfl
@[simp] theorem Core.setCtx_ls (c : Core) (n : Nat) (x : Ctx) : (c.setCtx n x).ls = c.ls := rfl
@[simp] theorem Core.setCtx_empties (c : Core) (n : Nat) (x : Ctx) : (c.setCtx n x).empties = c.empties := rfl
@[simp] theorem Core.setCtx_code (c : Core) (n : Nat) (x : Ctx) : (c.setCtx n x).code = c.code := rfl
@[simp] theorem Core.setCtx_accs (c : Core) (n : Nat) (x : Ctx) : (c.setCtx n x).accs = c.accs := rfl
@[simp] theorem Core.setCtx_claims (c : Core) (n : Nat) (x : Ctx) : (c.setCtx n x).claims = c.claims := rfl
@[simp] theorem Core.setCtx_mwait (c : Core) (n : Nat) (x : Ctx) : (c.setCtx n x).mwait = c.mwait := rfl
@[simp] theorem Core.setCtx_ewait (c : Core) (n : Nat) (x : Ctx) : (c.setCtx n x).ewait = c.ewait := rfl
@[simp] theorem Core.setCtx_mq (c : Core) (n : Nat) (x : Ctx) : (c.setCtx n x).mq = c.mq := rfl
@[simp] theorem Core.setCtx_mflight (c : Core) (n : Nat) (x : Ctx) : (c.setCtx n x).mflight = c.mflight := rfl
@[simp] theorem Core.setCtx_munit (c : Core) (n : Nat) (x : Ctx) : (c.setCtx n x).munit = c.munit := rfl
@[simp] theorem Core.setCtx_mtaken (c : Core) (n : Nat) (x : Ctx) : (c.setCtx n x).mtaken = c.mtaken := rfl
@[simp] theorem Core.setCtx_mwrites (c : Core) (n : Nat) (x : Ctx) : (c.setCtx n x).mwrites = c.mwrites := rfl
@[simp] theorem Core.setCtx_mdone (c : Core) (n : Nat) (x : Ctx) : (c.setCtx n x).mdone = c.mdone := rfl
@[simp] theorem Core.setCtx_eq (c : Core) (n : Nat) (x : Ctx) : (c.setCtx n x).eq = c.eq := rfl
@[simp] theorem Core.setCtx_eflight (c : Core) (n : Nat) (x : Ctx) : (c.setCtx n x).eflight = c.eflight := rfl
@[simp] theorem Core.setCtx_hazards (c : Core) (n : Nat) (x : Ctx) : (c.setCtx n x).hazards = c.hazards := rfl
@[simp] theorem Core.setCtx_cmdOrder (c : Core) (n : Nat) (x : Ctx) : (c.setCtx n x).cmdOrder = c.cmdOrder := rfl
@[simp] theorem Core.setCtx_pool (c : Core) (n : Nat) (x : Ctx) : (c.setCtx n x).pool = c.pool := rfl
@[simp] theorem Core.setCtx_deque (c : Core) (n : Nat) (x : Ctx) : (c.setCtx n x).deque = c.deque := rfl
@[simp] theorem Core.setCtx_chain (c : Core) (n : Nat) (x : Ctx) : (c.setCtx n x).chain = c.chain := rfl
@[simp] theorem Core.setCtx_zeroSpilled (c : Core) (n : Nat) (x : Ctx) : (c.setCtx n x).zeroSpilled = c.zeroSpilled := rfl
@[simp] theorem Core.setCtx_ready (c : Core) (n : Nat) (x : Ctx) : (c.setCtx n x).ready = c.ready := rfl
@[simp] theorem Core.setCtx_rings (c : Core) (n : Nat) (x : Ctx) : (c.setCtx n x).rings = c.rings := rfl
@[simp] theorem Core.setCtx_ringTold (c : Core) (n : Nat) (x : Ctx) : (c.setCtx n x).ringTold = c.ringTold := rfl
@[simp] theorem Core.setCtx_msgs (c : Core) (n : Nat) (x : Ctx) : (c.setCtx n x).msgs = c.msgs := rfl
@[simp] theorem Core.setCtx_watches (c : Core) (n : Nat) (x : Ctx) : (c.setCtx n x).watches = c.watches := rfl
@[simp] theorem Core.setCtx_turnOps (c : Core) (n : Nat) (x : Ctx) : (c.setCtx n x).turnOps = c.turnOps := rfl
@[simp] theorem Core.setCtx_changes (c : Core) (n : Nat) (x : Ctx) : (c.setCtx n x).changes = c.changes := rfl
@[simp] theorem Core.setCtx_handler (c : Core) (n : Nat) (x : Ctx) : (c.setCtx n x).handler = c.handler := rfl
@[simp] theorem Core.setCtx_pending (c : Core) (n : Nat) (x : Ctx) : (c.setCtx n x).pending = c.pending := rfl
@[simp] theorem Core.setCtx_delivered (c : Core) (n : Nat) (x : Ctx) : (c.setCtx n x).delivered = c.delivered := rfl
@[simp] theorem Core.setCtx_routes (c : Core) (n : Nat) (x : Ctx) : (c.setCtx n x).routes = c.routes := rfl
@[simp] theorem Core.setCtx_shadow (c : Core) (n : Nat) (x : Ctx) : (c.setCtx n x).shadow = c.shadow := rfl
@[simp] theorem Core.setCtx_period (c : Core) (n : Nat) (x : Ctx) : (c.setCtx n x).period = c.period := rfl
@[simp] theorem Core.setCtx_tideBase (c : Core) (n : Nat) (x : Ctx) : (c.setCtx n x).tideBase = c.tideBase := rfl
@[simp] theorem Core.setCtx_retide (c : Core) (n : Nat) (x : Ctx) : (c.setCtx n x).retide = c.retide := rfl
@[simp] theorem Core.setCtx_flits (c : Core) (n : Nat) (x : Ctx) : (c.setCtx n x).flits = c.flits := rfl
@[simp] theorem Core.setCtx_used (c : Core) (n : Nat) (x : Ctx) : (c.setCtx n x).used = c.used := rfl
@[simp] theorem Core.setCtx_wrote (c : Core) (n : Nat) (x : Ctx) : (c.setCtx n x).wrote = c.wrote := rfl
@[simp] theorem Core.setCtx_migration (c : Core) (n : Nat) (x : Ctx) : (c.setCtx n x).migration = c.migration := rfl
@[simp] theorem Core.setCtx_forward (c : Core) (n : Nat) (x : Ctx) : (c.setCtx n x).forward = c.forward := rfl
@[simp] theorem Core.setCtx_launches (c : Core) (n : Nat) (x : Ctx) : (c.setCtx n x).launches = c.launches := rfl
@[simp] theorem Core.setCtx_latch (c : Core) (n : Nat) (x : Ctx) : (c.setCtx n x).latch = c.latch := rfl
@[simp] theorem Core.setCtx_logLaunch (c : Core) (n : Nat) (x : Ctx) : (c.setCtx n x).logLaunch = c.logLaunch := rfl
@[simp] theorem Core.setCtx_recvs (c : Core) (n : Nat) (x : Ctx) : (c.setCtx n x).recvs = c.recvs := rfl
@[simp] theorem Core.setCtx_traces (c : Core) (n : Nat) (x : Ctx) : (c.setCtx n x).traces = c.traces := rfl
@[simp] theorem Core.setCtx_lostLog (c : Core) (n : Nat) (x : Ctx) : (c.setCtx n x).lostLog = c.lostLog := rfl
@[simp] theorem Core.setCtx_replay (c : Core) (n : Nat) (x : Ctx) : (c.setCtx n x).replay = c.replay := rfl
@[simp] theorem Core.setCtx_replaying (c : Core) (n : Nat) (x : Ctx) : (c.setCtx n x).replaying = c.replaying := rfl
@[simp] theorem Core.setCtx_replayShift (c : Core) (n : Nat) (x : Ctx) : (c.setCtx n x).replayShift = c.replayShift := rfl
@[simp] theorem Core.setCtx_replayOf (c : Core) (n : Nat) (x : Ctx) : (c.setCtx n x).replayOf = c.replayOf := rfl
@[simp] theorem Core.setCtx_lastTenant (c : Core) (n : Nat) (x : Ctx) : (c.setCtx n x).lastTenant = c.lastTenant := rfl
@[simp] theorem Core.setCtx_degraded (c : Core) (n : Nat) (x : Ctx) : (c.setCtx n x).degraded = c.degraded := rfl
@[simp] theorem Core.setCtx_swapping (c : Core) (n : Nat) (x : Ctx) : (c.setCtx n x).swapping = c.swapping := rfl
@[simp] theorem Core.setCtx_resuming (c : Core) (n : Nat) (x : Ctx) : (c.setCtx n x).resuming = c.resuming := rfl
@[simp] theorem Core.setCtx_writers (c : Core) (n : Nat) (x : Ctx) : (c.setCtx n x).writers = c.writers := rfl
@[simp] theorem Core.setCtx_poison (c : Core) (n : Nat) (x : Ctx) : (c.setCtx n x).poison = c.poison := rfl
@[simp] theorem Core.setCtx_emonef (c : Core) (n : Nat) (x : Ctx) : (c.setCtx n x).emonef = c.emonef := rfl

/-! ## Core.onCtx: a context changed -/

@[simp] theorem Core.onCtx_ctxs (c : Core) (n : Nat) (f : Ctx → Ctx) : (c.onCtx n f).ctxs = put c.ctxs n (f (c.ctx n)) := rfl
@[simp] theorem Core.onCtx_ks (c : Core) (n : Nat) (f : Ctx → Ctx) : (c.onCtx n f).ks = c.ks := rfl
@[simp] theorem Core.onCtx_ws (c : Core) (n : Nat) (f : Ctx → Ctx) : (c.onCtx n f).ws = c.ws := rfl
@[simp] theorem Core.onCtx_writes (c : Core) (n : Nat) (f : Ctx → Ctx) : (c.onCtx n f).writes = c.writes := rfl
@[simp] theorem Core.onCtx_tvec (c : Core) (n : Nat) (f : Ctx → Ctx) : (c.onCtx n f).tvec = c.tvec := rfl
@[simp] theorem Core.onCtx_deleg (c : Core) (n : Nat) (f : Ctx → Ctx) : (c.onCtx n f).deleg = c.deleg := rfl
@[simp] theorem Core.onCtx_timer (c : Core) (n : Nat) (f : Ctx → Ctx) : (c.onCtx n f).timer = c.timer := rfl
@[simp] theorem Core.onCtx_csel (c : Core) (n : Nat) (f : Ctx → Ctx) : (c.onCtx n f).csel = c.csel := rfl
@[simp] theorem Core.onCtx_qarb (c : Core) (n : Nat) (f : Ctx → Ctx) : (c.onCtx n f).qarb = c.qarb := rfl
@[simp] theorem Core.onCtx_ls (c : Core) (n : Nat) (f : Ctx → Ctx) : (c.onCtx n f).ls = c.ls := rfl
@[simp] theorem Core.onCtx_empties (c : Core) (n : Nat) (f : Ctx → Ctx) : (c.onCtx n f).empties = c.empties := rfl
@[simp] theorem Core.onCtx_code (c : Core) (n : Nat) (f : Ctx → Ctx) : (c.onCtx n f).code = c.code := rfl
@[simp] theorem Core.onCtx_accs (c : Core) (n : Nat) (f : Ctx → Ctx) : (c.onCtx n f).accs = c.accs := rfl
@[simp] theorem Core.onCtx_claims (c : Core) (n : Nat) (f : Ctx → Ctx) : (c.onCtx n f).claims = c.claims := rfl
@[simp] theorem Core.onCtx_mwait (c : Core) (n : Nat) (f : Ctx → Ctx) : (c.onCtx n f).mwait = c.mwait := rfl
@[simp] theorem Core.onCtx_ewait (c : Core) (n : Nat) (f : Ctx → Ctx) : (c.onCtx n f).ewait = c.ewait := rfl
@[simp] theorem Core.onCtx_mq (c : Core) (n : Nat) (f : Ctx → Ctx) : (c.onCtx n f).mq = c.mq := rfl
@[simp] theorem Core.onCtx_mflight (c : Core) (n : Nat) (f : Ctx → Ctx) : (c.onCtx n f).mflight = c.mflight := rfl
@[simp] theorem Core.onCtx_munit (c : Core) (n : Nat) (f : Ctx → Ctx) : (c.onCtx n f).munit = c.munit := rfl
@[simp] theorem Core.onCtx_mtaken (c : Core) (n : Nat) (f : Ctx → Ctx) : (c.onCtx n f).mtaken = c.mtaken := rfl
@[simp] theorem Core.onCtx_mwrites (c : Core) (n : Nat) (f : Ctx → Ctx) : (c.onCtx n f).mwrites = c.mwrites := rfl
@[simp] theorem Core.onCtx_mdone (c : Core) (n : Nat) (f : Ctx → Ctx) : (c.onCtx n f).mdone = c.mdone := rfl
@[simp] theorem Core.onCtx_eq (c : Core) (n : Nat) (f : Ctx → Ctx) : (c.onCtx n f).eq = c.eq := rfl
@[simp] theorem Core.onCtx_eflight (c : Core) (n : Nat) (f : Ctx → Ctx) : (c.onCtx n f).eflight = c.eflight := rfl
@[simp] theorem Core.onCtx_hazards (c : Core) (n : Nat) (f : Ctx → Ctx) : (c.onCtx n f).hazards = c.hazards := rfl
@[simp] theorem Core.onCtx_cmdOrder (c : Core) (n : Nat) (f : Ctx → Ctx) : (c.onCtx n f).cmdOrder = c.cmdOrder := rfl
@[simp] theorem Core.onCtx_pool (c : Core) (n : Nat) (f : Ctx → Ctx) : (c.onCtx n f).pool = c.pool := rfl
@[simp] theorem Core.onCtx_deque (c : Core) (n : Nat) (f : Ctx → Ctx) : (c.onCtx n f).deque = c.deque := rfl
@[simp] theorem Core.onCtx_chain (c : Core) (n : Nat) (f : Ctx → Ctx) : (c.onCtx n f).chain = c.chain := rfl
@[simp] theorem Core.onCtx_zeroSpilled (c : Core) (n : Nat) (f : Ctx → Ctx) : (c.onCtx n f).zeroSpilled = c.zeroSpilled := rfl
@[simp] theorem Core.onCtx_ready (c : Core) (n : Nat) (f : Ctx → Ctx) : (c.onCtx n f).ready = c.ready := rfl
@[simp] theorem Core.onCtx_rings (c : Core) (n : Nat) (f : Ctx → Ctx) : (c.onCtx n f).rings = c.rings := rfl
@[simp] theorem Core.onCtx_ringTold (c : Core) (n : Nat) (f : Ctx → Ctx) : (c.onCtx n f).ringTold = c.ringTold := rfl
@[simp] theorem Core.onCtx_msgs (c : Core) (n : Nat) (f : Ctx → Ctx) : (c.onCtx n f).msgs = c.msgs := rfl
@[simp] theorem Core.onCtx_watches (c : Core) (n : Nat) (f : Ctx → Ctx) : (c.onCtx n f).watches = c.watches := rfl
@[simp] theorem Core.onCtx_turnOps (c : Core) (n : Nat) (f : Ctx → Ctx) : (c.onCtx n f).turnOps = c.turnOps := rfl
@[simp] theorem Core.onCtx_changes (c : Core) (n : Nat) (f : Ctx → Ctx) : (c.onCtx n f).changes = c.changes := rfl
@[simp] theorem Core.onCtx_handler (c : Core) (n : Nat) (f : Ctx → Ctx) : (c.onCtx n f).handler = c.handler := rfl
@[simp] theorem Core.onCtx_pending (c : Core) (n : Nat) (f : Ctx → Ctx) : (c.onCtx n f).pending = c.pending := rfl
@[simp] theorem Core.onCtx_delivered (c : Core) (n : Nat) (f : Ctx → Ctx) : (c.onCtx n f).delivered = c.delivered := rfl
@[simp] theorem Core.onCtx_routes (c : Core) (n : Nat) (f : Ctx → Ctx) : (c.onCtx n f).routes = c.routes := rfl
@[simp] theorem Core.onCtx_shadow (c : Core) (n : Nat) (f : Ctx → Ctx) : (c.onCtx n f).shadow = c.shadow := rfl
@[simp] theorem Core.onCtx_period (c : Core) (n : Nat) (f : Ctx → Ctx) : (c.onCtx n f).period = c.period := rfl
@[simp] theorem Core.onCtx_tideBase (c : Core) (n : Nat) (f : Ctx → Ctx) : (c.onCtx n f).tideBase = c.tideBase := rfl
@[simp] theorem Core.onCtx_retide (c : Core) (n : Nat) (f : Ctx → Ctx) : (c.onCtx n f).retide = c.retide := rfl
@[simp] theorem Core.onCtx_flits (c : Core) (n : Nat) (f : Ctx → Ctx) : (c.onCtx n f).flits = c.flits := rfl
@[simp] theorem Core.onCtx_used (c : Core) (n : Nat) (f : Ctx → Ctx) : (c.onCtx n f).used = c.used := rfl
@[simp] theorem Core.onCtx_wrote (c : Core) (n : Nat) (f : Ctx → Ctx) : (c.onCtx n f).wrote = c.wrote := rfl
@[simp] theorem Core.onCtx_migration (c : Core) (n : Nat) (f : Ctx → Ctx) : (c.onCtx n f).migration = c.migration := rfl
@[simp] theorem Core.onCtx_forward (c : Core) (n : Nat) (f : Ctx → Ctx) : (c.onCtx n f).forward = c.forward := rfl
@[simp] theorem Core.onCtx_launches (c : Core) (n : Nat) (f : Ctx → Ctx) : (c.onCtx n f).launches = c.launches := rfl
@[simp] theorem Core.onCtx_latch (c : Core) (n : Nat) (f : Ctx → Ctx) : (c.onCtx n f).latch = c.latch := rfl
@[simp] theorem Core.onCtx_logLaunch (c : Core) (n : Nat) (f : Ctx → Ctx) : (c.onCtx n f).logLaunch = c.logLaunch := rfl
@[simp] theorem Core.onCtx_recvs (c : Core) (n : Nat) (f : Ctx → Ctx) : (c.onCtx n f).recvs = c.recvs := rfl
@[simp] theorem Core.onCtx_traces (c : Core) (n : Nat) (f : Ctx → Ctx) : (c.onCtx n f).traces = c.traces := rfl
@[simp] theorem Core.onCtx_lostLog (c : Core) (n : Nat) (f : Ctx → Ctx) : (c.onCtx n f).lostLog = c.lostLog := rfl
@[simp] theorem Core.onCtx_replay (c : Core) (n : Nat) (f : Ctx → Ctx) : (c.onCtx n f).replay = c.replay := rfl
@[simp] theorem Core.onCtx_replaying (c : Core) (n : Nat) (f : Ctx → Ctx) : (c.onCtx n f).replaying = c.replaying := rfl
@[simp] theorem Core.onCtx_replayShift (c : Core) (n : Nat) (f : Ctx → Ctx) : (c.onCtx n f).replayShift = c.replayShift := rfl
@[simp] theorem Core.onCtx_replayOf (c : Core) (n : Nat) (f : Ctx → Ctx) : (c.onCtx n f).replayOf = c.replayOf := rfl
@[simp] theorem Core.onCtx_lastTenant (c : Core) (n : Nat) (f : Ctx → Ctx) : (c.onCtx n f).lastTenant = c.lastTenant := rfl
@[simp] theorem Core.onCtx_degraded (c : Core) (n : Nat) (f : Ctx → Ctx) : (c.onCtx n f).degraded = c.degraded := rfl
@[simp] theorem Core.onCtx_swapping (c : Core) (n : Nat) (f : Ctx → Ctx) : (c.onCtx n f).swapping = c.swapping := rfl
@[simp] theorem Core.onCtx_resuming (c : Core) (n : Nat) (f : Ctx → Ctx) : (c.onCtx n f).resuming = c.resuming := rfl
@[simp] theorem Core.onCtx_writers (c : Core) (n : Nat) (f : Ctx → Ctx) : (c.onCtx n f).writers = c.writers := rfl
@[simp] theorem Core.onCtx_poison (c : Core) (n : Nat) (f : Ctx → Ctx) : (c.onCtx n f).poison = c.poison := rfl
@[simp] theorem Core.onCtx_emonef (c : Core) (n : Nat) (f : Ctx → Ctx) : (c.onCtx n f).emonef = c.emonef := rfl

end Sys2Proof.Machine
end

