-- ==== Sys2Proof/Laws/Operations.lean ====
section
/-! SUPPORT. What each shared operation over State can do: cores and contexts, operands and results, the shape of an operation's meaning, taking an exception and returning from one. Provers cite these and do not unfold the operations. -/
namespace Sys2Proof.Machine

/-! ## Cores and contexts -/

@[simp] theorem State.core_setCore_same (s : State) (p : Nat) (c : Core) : (s.setCore p c).core p = c :=
  look_put_same _ _ _ _
theorem State.core_setCore_other (s : State) {p q : Nat} (c : Core) (h : q ≠ p) : (s.setCore p c).core q = s.core q :=
  look_put_other _ _ _ h
@[simp] theorem State.core_onCore_same (s : State) (p : Nat) (f : Core → Core) : (s.onCore p f).core p = f (s.core p) :=
  look_put_same _ _ _ _
theorem State.core_onCore_other (s : State) {p q : Nat} (f : Core → Core) (h : q ≠ p) : (s.onCore p f).core q = s.core q :=
  look_put_other _ _ _ h
@[simp] theorem Core.ctx_setCtx_same (c : Core) (n : Nat) (x : Ctx) : (c.setCtx n x).ctx n = x := look_put_same _ _ _ _
theorem Core.ctx_setCtx_other (c : Core) {n m : Nat} (x : Ctx) (h : m ≠ n) : (c.setCtx n x).ctx m = c.ctx m :=
  look_put_other _ _ _ h
@[simp] theorem Core.ctx_onCtx_same (c : Core) (n : Nat) (f : Ctx → Ctx) : (c.onCtx n f).ctx n = f (c.ctx n) :=
  look_put_same _ _ _ _
theorem Core.ctx_onCtx_other (c : Core) {n m : Nat} (f : Ctx → Ctx) (h : m ≠ n) : (c.onCtx n f).ctx m = c.ctx m :=
  look_put_other _ _ _ h
@[simp] theorem State.here_onHere (s : State) (f : Core → Core) : (s.onHere f).here = f s.here := look_put_same _ _ _ _
@[simp] theorem State.cur_onCur (s : State) (f : Ctx → Ctx) : (s.onCur f).cur = f s.cur := by
  simp [State.onCur, State.onCtx, State.cur, State.ctx]
/-- Every core but the issuing one is left alone by a change of it. -/
theorem State.core_onHere_other (s : State) {q : Nat} (f : Core → Core) (h : q ≠ s.frame.core) : (s.onHere f).core q = s.core q :=
  look_put_other _ _ _ h

/-! ## Operands and results -/

/-- x0 reads as 0 (R15). -/
@[simp] theorem State.rx_zero (s : State) : s.rx 0 = 0 := rfl
/-- q0 reads as 1 (R15). -/
@[simp] theorem State.rq_zero (s : State) : s.rq 0 = true := rfl
/-- A write to x0 is discarded (R15). -/
@[simp] theorem State.wx_zero (s : State) (v : DWord) (lat : Nat) : s.wx 0 v lat = s := rfl
/-- A write to q0 is discarded (R15). -/
@[simp] theorem State.wq_zero (s : State) (b : Bool) (lat : Nat) : s.wq 0 b lat = s := rfl
/-- A result adds one write to the issuing core and changes nothing else. -/
theorem State.wx_eq (s : State) {r : SReg} (h : r ≠ 0) (v : DWord) (lat : Nat) :
    s.wx r v lat = s.write (xDest s.frame.ctx r) (.word v) lat := if_neg h
/-- The frame after a scalar result. -/
@[simp] theorem State.wx_frame (s : State) (r : SReg) (v : DWord) (lat : Nat) : (s.wx r v lat).frame = s.frame := by
  unfold State.wx; split <;> rfl
/-- The local store after a scalar result. -/
@[simp] theorem State.wx_ls (s : State) (r : SReg) (v : DWord) (lat p : Nat) : ((s.wx r v lat).core p).ls = (s.core p).ls := by
  unfold State.wx
  split
  · rfl
  · unfold State.write
    by_cases h : p = s.frame.core
    · subst h
      simp [State.onHere]
    · rw [State.core_onHere_other s _ h]
/-- The registers that have landed are as before a scalar result. -/
theorem State.wx_ctx (s : State) (r : SReg) (v : DWord) (lat p n : Nat) : (s.wx r v lat).ctx p n = s.ctx p n := by
  unfold State.wx
  split
  · rfl
  · unfold State.write State.ctx
    by_cases h : p = s.frame.core
    · subst h
      simp [State.onHere, Core.ctx]
    · rw [State.core_onHere_other s _ h]

/-! ## The shape of an operation -/

/-- Checking an operation only notes its first failed check. -/
theorem operation_check {i : Instr} {chk : State → Option Trap} {perf : State → State} {s : State}
    (h : s.frame.phase = .check) : operation i chk perf s = .next (s.note (s.firstTrap i chk)) := by
  simp [operation, h]
/-- An operation whose bundle's checks have passed has its effect. -/
theorem operation_perform {i : Instr} {chk : State → Option Trap} {perf : State → State} {s : State}
    (h : s.frame.phase = .perform) : operation i chk perf s = .next (perf s) := by
  simp [operation, h]
/-- An operation on its own has its effect where no check fails. -/
theorem operation_whole {i : Instr} {chk : State → Option Trap} {perf : State → State} {s : State}
    (h : s.frame.phase = .whole) (hc : s.firstTrap i chk = none) : operation i chk perf s = .next (perf s) := by
  simp [operation, h, hc]
/-- An operation on its own traps where a check fails. -/
theorem operation_traps {i : Instr} {chk : State → Option Trap} {perf : State → State} {s : State} {t : Trap}
    (h : s.frame.phase = .whole) (hc : s.firstTrap i chk = some t) :
    operation i chk perf s = .next (s.issueTrap t.cause t.tval) := by
  simp [operation, h, hc]
/-- With CHECK.LV = 0 an operation meets no trap whose encoding and operands are in order (R61). -/
theorem State.firstTrap_none {s : State} {i : Instr} {chk : State → Option Trap} (hf : s.fieldTrap i = none)
    (hl : s.cur.lv = false) (hc : chk s = none) : s.firstTrap i chk = none := by
  simp [State.firstTrap, hf, State.earlyTrap, hl, hc]
/-- An operation has its effect where its bundle's checks have passed, and on its own where its checks pass. -/
theorem operation_issues {i : Instr} {chk : State → Option Trap} {perf : State → State} {s : State}
    (h : s.frame.phase = .perform ∨ (s.frame.phase = .whole ∧ s.cur.lv = false)) (hf : s.fieldTrap i = none)
    (hc : chk s = none) : operation i chk perf s = .next (perf s) := by
  rcases h with h | ⟨h, hl⟩
  · exact operation_perform h
  · exact operation_whole h (State.firstTrap_none hf hl hc)
/-- An operation always answers a next state. -/
theorem operation_next (i : Instr) (chk : State → Option Trap) (perf : State → State) (s : State) :
    ∃ t, operation i chk perf s = .next t := by
  unfold operation
  split
  · exact ⟨_, rfl⟩
  · exact ⟨_, rfl⟩
  · split <;> exact ⟨_, rfl⟩
/-- Noting a failed check changes only the frame. -/
theorem State.note_eq (s : State) (t : Option Trap) : ∃ n, s.note t = { s with frame := { s.frame with noted := n } } := by
  cases t with
  | none => exact ⟨s.frame.noted, rfl⟩
  | some t =>
    have h (b : Bool) : ∃ n, (if b = true then { s with frame := { s.frame with noted := some (s.frame.slot, t) } } else s) =
        { s with frame := { s.frame with noted := n } } := by
      cases b
      · exact ⟨s.frame.noted, rfl⟩
      · exact ⟨_, rfl⟩
    exact h _
/-- An event changes the state by its function, and later free values are fresh. -/
theorem event_next (f : State → State) (s : State) : event f s = .next (f s).bump := rfl

/-! ## Taking an exception and returning from one -/

/-- A worker's trap leaves every other core alone (R280). -/
theorem State.takeTrap_other (s : State) {p q n : Nat} (epc cause tval : DWord) (h : q ≠ p) :
    (s.takeTrap p n epc cause tval).core q = s.core q := by
  unfold State.takeTrap State.c0Trap State.workerError
  split
  · dsimp only
    split <;> exact look_put_other _ _ _ h
  · split
    · exact look_put_other _ _ _ h
    · exact State.core_onCore_other s _ h
/-- A worker's trap: EPC, CAUSE with SRC, TVAL, and STOP at the trapped bundle (R22, R280). -/
theorem Core.workerTrap_ctx (c : Core) (n : Nat) (epc cause tval : DWord) :
    (c.workerTrap n epc cause tval).ctx n =
      { c.ctx n with epc := epc, cause := withSrc n cause, tval := tval, next := epc, st := .stop, hold := none, nextWritten := false } := by
  unfold Core.workerTrap
  exact look_put_same _ _ _ _
/-- A worker's trap leaves the other contexts of its core alone. -/
theorem Core.workerTrap_other (c : Core) {n m : Nat} (epc cause tval : DWord) (h : m ≠ n) :
    (c.workerTrap n epc cause tval).ctx m = c.ctx m := by
  unfold Core.workerTrap
  exact look_put_other _ _ _ h
/-- A worker's trap leaves the local store alone. -/
@[simp] theorem Core.workerTrap_ls (c : Core) (n : Nat) (epc cause tval : DWord) : (c.workerTrap n epc cause tval).ls = c.ls := rfl
/-- C0's entry: EPC is the bundle it would have issued, CAUSE and TVAL are the first pending trap's, TVEC is next, and the flag is set (R281). -/
theorem Core.c0Entry_ctx {c : Core} {cause tval : DWord} {p : Pending} (h : c.nextPending = some (cause, tval, p)) :
    c.c0Entry.handler = true ∧ (c.c0Entry.ctx 0).epc = (c.ctx 0).next ∧ (c.c0Entry.ctx 0).cause = cause ∧
      (c.c0Entry.ctx 0).tval = tval ∧ (c.c0Entry.ctx 0).next = c.tvec ∧ c.c0Entry.pending = p := by
  unfold Core.c0Entry
  rw [h]
  dsimp only
  refine ⟨rfl, ?_, ?_, ?_, ?_, rfl⟩ <;> (unfold Core.onCtx Core.setCtx; simp only [Core.ctx, look_put_same])
/-- C0's return: EPC is next and the flag is clear (R282). -/
theorem Core.rett_ctx (c : Core) : c.rett.handler = false ∧ (c.rett.ctx 0).next = (c.ctx 0).epc := by
  unfold Core.rett
  refine ⟨rfl, ?_⟩
  unfold Core.onCtx Core.setCtx
  simp only [Core.ctx, look_put_same]

/-! ## Memories that operations change -/

/-- Every local store and the stack has the canonical form. -/
def State.memories (s : State) : Prop := Memory.wf s.cliff ∧ ∀ p, Memory.wf (s.core p).ls
/-- Reset has it. -/
theorem State.memories_reset : State.reset.memories := ⟨Memory.wf_nil, fun _ => Memory.wf_nil⟩
/-- A store keeps the local store's canonical form. -/
theorem Core.storeBytes_wf {c : Core} (h : Memory.wf c.ls) (a n v : Nat) : Memory.wf (c.storeBytes a n v).ls :=
  Memory.wf_write h a n v
/-- A store leaves every byte outside its range alone. -/
theorem Core.storeBytes_other (c : Core) (a n v b : Nat) (h : b < a ∨ a + n ≤ b) :
    memGet (c.storeBytes a n v).ls b = memGet c.ls b := memGet_write_other _ _ _ _ _ h
/-- A word's write keeps the local store's canonical form. -/
theorem Core.setWord_wf {c : Core} (h : Memory.wf c.ls) (a : Nat) (v : DWord) : Memory.wf (c.setWord a v).ls :=
  Memory.wf_write h a 8 _
/-- A word reads as it was written. -/
@[simp] theorem Core.word_setWord (c : Core) (a : Nat) (v : DWord) : (c.setWord a v).word a = v := by
  unfold Core.word Core.setWord
  rw [memRead_write_same]
  apply BitVec.eq_of_toNat_eq
  simp only [BitVec.toNat_ofNat]
  have := v.isLt
  omega

end Sys2Proof.Machine
end

