-- ==== Sys2Proof/Laws/Checks.lean ====
section
/-! SUPPORT. When no check of decode steps 3 to 9 fails (R61), by what an operation names. -/
namespace Sys2Proof.Machine

theorem Trap.orIf_false {b : Bool} (h : b = false) (t : Trap) (rest : Option Trap) : Trap.orIf b t rest = rest := by
  simp [Trap.orIf, h]
theorem Trap.orIf_true {b : Bool} (h : b = true) (t : Trap) (rest : Option Trap) : Trap.orIf b t rest = some t := by
  simp [Trap.orIf, h]
theorem hasDup_short {α : Type} [DecidableEq α] {l : List α} (h : l.length ≤ 1) : hasDup l = false := by
  match l, h with
  | [], _ => rfl
  | [_], _ => rfl
theorem Instr.destsOf_short {i : Instr} (n : Nat) (h : (Instr.dests i).length ≤ 1) : hasDup (Instr.destsOf i n) = false :=
  hasDup_short (Nat.le_trans (List.length_filterMap_le _ _) h)

/-- An operation that reads or writes a special register. -/
def Instr.special : Instr → Bool
  | .mts _ _ | .mfs _ _ | .timerWrite _ | .xvalWrite _ => true
  | _ => false

/-- No field check fails for an operation of the S, L or N slot that is present on this core, that this kind of context may issue, that names no vector register of C0 and no special register, and that writes no register twice. -/
theorem State.fieldTrap_none {s : State} {i : Instr} (hx : Instr.special i = false)
    (h3 : s.frame.ctx = 0 → Instr.isV i = false ∧ Instr.isM i = false)
    (h4 : Instr.absent i s.frame.core (s.core s.frame.core).emonef = false)
    (h6 : s.frame.ctx = 0 → Instr.workerOnly i = false)
    (h7 : s.frame.ctx ≠ 0 → Instr.c0Only i = false)
    (h8 : s.frame.ctx = 0 → ((Instr.dests i).any fun r => match r with | .v _ => true | _ => false) = false ∧
      ((Instr.srcs i).any fun r => match r with | .v r => r.toNat < 32 | _ => false) = false)
    (h9 : hasDup (Instr.destsOf i s.frame.ctx) = false) : s.fieldTrap i = none := by
  unfold State.fieldTrap
  dsimp only
  refine (Trap.orIf_false ?_ _ _).trans <| (Trap.orIf_false h4 _ _).trans <| (Trap.orIf_false ?_ _ _).trans <|
    (Trap.orIf_false ?_ _ _).trans <| (Trap.orIf_false ?_ _ _).trans <| (Trap.orIf_false ?_ _ _).trans <|
    (Trap.orIf_false ?_ _ _).trans <| (Trap.orIf_false h9 _ _).trans rfl
  · by_cases h : s.frame.ctx = 0
    · simp [h3 h]
    · simp [h]
  · by_cases h : s.frame.ctx = 0
    · simp [h6 h]
    · simp [h]
  · split
    · cases hx
    · cases hx
    · rfl
  · by_cases h : s.frame.ctx = 0
    · simp [h]
    · simp [h7 h]
  · refine Bool.and_eq_false_iff.2 (Or.inr ?_)
    split
    · cases hx
    · cases hx
    · cases hx
    · cases hx
    · rfl
  · by_cases h : s.frame.ctx = 0
    · exact Bool.and_eq_false_iff.2 (Or.inr (Bool.or_eq_false_iff.2 (h8 h)))
    · simp [h]

/-- As fieldTrap_none, for an operation that every context of every core may issue. -/
theorem State.fieldTrap_open {s : State} {i : Instr} (hx : Instr.special i = false) (h3 : Instr.isV i = false) (h3' : Instr.isM i = false)
    (h4 : ∀ p e, Instr.absent i p e = false) (h6 : Instr.workerOnly i = false) (h7 : Instr.c0Only i = false)
    (h8 : ((Instr.dests i).any fun r => match r with | .v _ => true | _ => false) = false)
    (h8' : ((Instr.srcs i).any fun r => match r with | .v r => r.toNat < 32 | _ => false) = false)
    (h9 : (Instr.dests i).length ≤ 1) : s.fieldTrap i = none :=
  State.fieldTrap_none hx (fun _ => ⟨h3, h3'⟩) (h4 _ _) (fun _ => h6) (fun _ => h7) (fun _ => ⟨h8, h8'⟩) (Instr.destsOf_short _ h9)

end Sys2Proof.Machine
end

