-- ==== Sys2Proof/Laws/Dispatch.lean ====
section
/-! SUPPORT. What every arm of exec is: an operation's checks and effect, or an event. -/
namespace Sys2Proof.Machine

/-- Every operation that a bundle can hold has a check and an effect (R61). -/
theorem exec_operation (i : Instr) (h : i.isOp = true) :
    ∃ chk perf, ∀ s, exec i s = operation i chk perf s := by
  cases i
  case pureWaitBundle => apply Exists.intro; apply Exists.intro; intro s; dsimp only [exec, execPureWaitBundle]; try rfl
  case add => apply Exists.intro; apply Exists.intro; intro s; dsimp only [exec, execAdd]; try rfl
  case sub => apply Exists.intro; apply Exists.intro; intro s; dsimp only [exec, execSub]; try rfl
  case and => apply Exists.intro; apply Exists.intro; intro s; dsimp only [exec, execAnd]; try rfl
  case or => apply Exists.intro; apply Exists.intro; intro s; dsimp only [exec, execOr]; try rfl
  case xor => apply Exists.intro; apply Exists.intro; intro s; dsimp only [exec, execXor]; try rfl
  case sll => apply Exists.intro; apply Exists.intro; intro s; dsimp only [exec, execSll]; try rfl
  case srl => apply Exists.intro; apply Exists.intro; intro s; dsimp only [exec, execSrl]; try rfl
  case sra => apply Exists.intro; apply Exists.intro; intro s; dsimp only [exec, execSra]; try rfl
  case mul => apply Exists.intro; apply Exists.intro; intro s; dsimp only [exec, execMul]; try rfl
  case mulh => apply Exists.intro; apply Exists.intro; intro s; dsimp only [exec, execMulh]; try rfl
  case div => apply Exists.intro; apply Exists.intro; intro s; dsimp only [exec, execDiv]; try rfl
  case rem => apply Exists.intro; apply Exists.intro; intro s; dsimp only [exec, execRem]; try rfl
  case minmax => apply Exists.intro; apply Exists.intro; intro s; dsimp only [exec, execMinmax]; try rfl
  case cmp => apply Exists.intro; apply Exists.intro; intro s; dsimp only [exec, execCmp]; try rfl
  case sel => apply Exists.intro; apply Exists.intro; intro s; dsimp only [exec, execSel]; try rfl
  case addi => apply Exists.intro; apply Exists.intro; intro s; dsimp only [exec, execAddi]; try rfl
  case andi => apply Exists.intro; apply Exists.intro; intro s; dsimp only [exec, execAndi]; try rfl
  case ori => apply Exists.intro; apply Exists.intro; intro s; dsimp only [exec, execOri]; try rfl
  case xori => apply Exists.intro; apply Exists.intro; intro s; dsimp only [exec, execXori]; try rfl
  case shi => apply Exists.intro; apply Exists.intro; intro s; dsimp only [exec, execShi]; try rfl
  case lui => apply Exists.intro; apply Exists.intro; intro s; dsimp only [exec, execLui]; try rfl
  case cmpi => apply Exists.intro; apply Exists.intro; intro s; dsimp only [exec, execCmpi]; try rfl
  case bfx => apply Exists.intro; apply Exists.intro; intro s; dsimp only [exec, execBfx]; try rfl
  case bfi => apply Exists.intro; apply Exists.intro; intro s; dsimp only [exec, execBfi]; try rfl
  case bitc => apply Exists.intro; apply Exists.intro; intro s; dsimp only [exec, execBitc]; try rfl
  case adda => apply Exists.intro; apply Exists.intro; intro s; dsimp only [exec, execAdda]; try rfl
  case br => apply Exists.intro; apply Exists.intro; intro s; dsimp only [exec, execBr]; try rfl
  case jal => apply Exists.intro; apply Exists.intro; intro s; dsimp only [exec, execJal]; try rfl
  case jalr => apply Exists.intro; apply Exists.intro; intro s; dsimp only [exec, execJalr]; try rfl
  case loop => apply Exists.intro; apply Exists.intro; intro s; dsimp only [exec, execLoop]; try rfl
  case loopx => apply Exists.intro; apply Exists.intro; intro s; dsimp only [exec, execLoopx]; try rfl
  case mfs => apply Exists.intro; apply Exists.intro; intro s; dsimp only [exec, execMfs]; try rfl
  case mts => apply Exists.intro; apply Exists.intro; intro s; dsimp only [exec, execMts]; try rfl
  case timerWrite => apply Exists.intro; apply Exists.intro; intro s; dsimp only [exec, execTimerWrite]; try rfl
  case xvalWrite => apply Exists.intro; apply Exists.intro; intro s; dsimp only [exec, execXvalWrite]; try rfl
  case fop => apply Exists.intro; apply Exists.intro; intro s; dsimp only [exec, execFop]; try rfl
  case ffma => apply Exists.intro; apply Exists.intro; intro s; dsimp only [exec, execFfma]; try rfl
  case fcmp => apply Exists.intro; apply Exists.intro; intro s; dsimp only [exec, execFcmp]; try rfl
  case fcvt => apply Exists.intro; apply Exists.intro; intro s; dsimp only [exec, execFcvt]; try rfl
  case trap => apply Exists.intro; apply Exists.intro; intro s; dsimp only [exec, execTrap]; try rfl
  case brk => apply Exists.intro; apply Exists.intro; intro s; dsimp only [exec, execBrk]; try rfl
  case rett => apply Exists.intro; apply Exists.intro; intro s; dsimp only [exec, execRett]; try rfl
  case rettW => apply Exists.intro; apply Exists.intro; intro s; dsimp only [exec, execRettW]; try rfl
  case halt => apply Exists.intro; apply Exists.intro; intro s; dsimp only [exec, execHalt]; try rfl
  case phase => apply Exists.intro; apply Exists.intro; intro s; dsimp only [exec, execPhase]; try rfl
  case start => apply Exists.intro; apply Exists.intro; intro s; dsimp only [exec, execStart]; try rfl
  case stop => apply Exists.intro; apply Exists.intro; intro s; dsimp only [exec, execStop]; try rfl
  case swap => apply Exists.intro; apply Exists.intro; intro s; dsimp only [exec, execSwap]; try rfl
  case resume => apply Exists.intro; apply Exists.intro; intro s; dsimp only [exec, execResume]; try rfl
  case migrArm => apply Exists.intro; apply Exists.intro; intro s; dsimp only [exec, execMigrArm]; try rfl
  case migrFreeze => apply Exists.intro; apply Exists.intro; intro s; dsimp only [exec, execMigrFreeze]; try rfl
  case migrCommit => apply Exists.intro; apply Exists.intro; intro s; dsimp only [exec, execMigrCommit]; try rfl
  case migrAbort => apply Exists.intro; apply Exists.intro; intro s; dsimp only [exec, execMigrAbort]; try rfl
  case ld8 => apply Exists.intro; apply Exists.intro; intro s; dsimp only [exec, execLd8]; try rfl
  case ld8z => apply Exists.intro; apply Exists.intro; intro s; dsimp only [exec, execLd8z]; try rfl
  case ld16 => apply Exists.intro; apply Exists.intro; intro s; dsimp only [exec, execLd16]; try rfl
  case ld16z => apply Exists.intro; apply Exists.intro; intro s; dsimp only [exec, execLd16z]; try rfl
  case ld32 => apply Exists.intro; apply Exists.intro; intro s; dsimp only [exec, execLd32]; try rfl
  case ld32z => apply Exists.intro; apply Exists.intro; intro s; dsimp only [exec, execLd32z]; try rfl
  case ld64 => apply Exists.intro; apply Exists.intro; intro s; dsimp only [exec, execLd64]; try rfl
  case st8 => apply Exists.intro; apply Exists.intro; intro s; dsimp only [exec, execSt8]; try rfl
  case st16 => apply Exists.intro; apply Exists.intro; intro s; dsimp only [exec, execSt16]; try rfl
  case st32 => apply Exists.intro; apply Exists.intro; intro s; dsimp only [exec, execSt32]; try rfl
  case st64 => apply Exists.intro; apply Exists.intro; intro s; dsimp only [exec, execSt64]; try rfl
  case ldv => apply Exists.intro; apply Exists.intro; intro s; dsimp only [exec, execLdv]; try rfl
  case stv => apply Exists.intro; apply Exists.intro; intro s; dsimp only [exec, execStv]; try rfl
  case ldbit => apply Exists.intro; apply Exists.intro; intro s; dsimp only [exec, execLdbit]; try rfl
  case stbit => apply Exists.intro; apply Exists.intro; intro s; dsimp only [exec, execStbit]; try rfl
  case ldf => apply Exists.intro; apply Exists.intro; intro s; dsimp only [exec, execLdf]; try rfl
  case ldff => apply Exists.intro; apply Exists.intro; intro s; dsimp only [exec, execLdff]; try rfl
  case ste => apply Exists.intro; apply Exists.intro; intro s; dsimp only [exec, execSte]; try rfl
  case stf => apply Exists.intro; apply Exists.intro; intro s; dsimp only [exec, execStf]; try rfl
  case aswp => apply Exists.intro; apply Exists.intro; intro s; dsimp only [exec, execAswp]; try rfl
  case acas => apply Exists.intro; apply Exists.intro; intro s; dsimp only [exec, execAcas]; try rfl
  case aadd => apply Exists.intro; apply Exists.intro; intro s; dsimp only [exec, execAadd]; try rfl
  case alog => apply Exists.intro; apply Exists.intro; intro s; dsimp only [exec, execAlog]; try rfl
  case aminmax => apply Exists.intro; apply Exists.intro; intro s; dsimp only [exec, execAminmax]; try rfl
  case afadd => apply Exists.intro; apply Exists.intro; intro s; dsimp only [exec, execAfadd]; try rfl
  case fence => apply Exists.intro; apply Exists.intro; intro s; dsimp only [exec, execFence]; try rfl
  case waitm => apply Exists.intro; apply Exists.intro; intro s; dsimp only [exec, execWaitm]; try rfl
  case ldgv => apply Exists.intro; apply Exists.intro; intro s; dsimp only [exec, execLdgv]; try rfl
  case stsv => apply Exists.intro; apply Exists.intro; intro s; dsimp only [exec, execStsv]; try rfl
  case febit => apply Exists.intro; apply Exists.intro; intro s; dsimp only [exec, execFebit]; try rfl
  case sigw => apply Exists.intro; apply Exists.intro; intro s; dsimp only [exec, execSigw]; try rfl
  case vadd => apply Exists.intro; apply Exists.intro; intro s; dsimp only [exec, execVadd]; try rfl
  case vsub => apply Exists.intro; apply Exists.intro; intro s; dsimp only [exec, execVsub]; try rfl
  case vmul => apply Exists.intro; apply Exists.intro; intro s; dsimp only [exec, execVmul]; try rfl
  case vfma => apply Exists.intro; apply Exists.intro; intro s; dsimp only [exec, execVfma]; try rfl
  case vfms => apply Exists.intro; apply Exists.intro; intro s; dsimp only [exec, execVfms]; try rfl
  case vmin => apply Exists.intro; apply Exists.intro; intro s; dsimp only [exec, execVmin]; try rfl
  case vmax => apply Exists.intro; apply Exists.intro; intro s; dsimp only [exec, execVmax]; try rfl
  case vabsn => apply Exists.intro; apply Exists.intro; intro s; dsimp only [exec, execVabsn]; try rfl
  case viadd => apply Exists.intro; apply Exists.intro; intro s; dsimp only [exec, execViadd]; try rfl
  case visub => apply Exists.intro; apply Exists.intro; intro s; dsimp only [exec, execVisub]; try rfl
  case vimul => apply Exists.intro; apply Exists.intro; intro s; dsimp only [exec, execVimul]; try rfl
  case vimad => apply Exists.intro; apply Exists.intro; intro s; dsimp only [exec, execVimad]; try rfl
  case vand => apply Exists.intro; apply Exists.intro; intro s; dsimp only [exec, execVand]; try rfl
  case vor => apply Exists.intro; apply Exists.intro; intro s; dsimp only [exec, execVor]; try rfl
  case vxor => apply Exists.intro; apply Exists.intro; intro s; dsimp only [exec, execVxor]; try rfl
  case vshl => apply Exists.intro; apply Exists.intro; intro s; dsimp only [exec, execVshl]; try rfl
  case vshr => apply Exists.intro; apply Exists.intro; intro s; dsimp only [exec, execVshr]; try rfl
  case vsar => apply Exists.intro; apply Exists.intro; intro s; dsimp only [exec, execVsar]; try rfl
  case vcmp => apply Exists.intro; apply Exists.intro; intro s; dsimp only [exec, execVcmp]; try rfl
  case vicmp => apply Exists.intro; apply Exists.intro; intro s; dsimp only [exec, execVicmp]; try rfl
  case vsel => apply Exists.intro; apply Exists.intro; intro s; dsimp only [exec, execVsel]; try rfl
  case vpermb => apply Exists.intro; apply Exists.intro; intro s; dsimp only [exec, execVpermb]; try rfl
  case vshuf => apply Exists.intro; apply Exists.intro; intro s; dsimp only [exec, execVshuf]; try rfl
  case vslide => apply Exists.intro; apply Exists.intro; intro s; dsimp only [exec, execVslide]; try rfl
  case vbcast => apply Exists.intro; apply Exists.intro; intro s; dsimp only [exec, execVbcast]; try rfl
  case vext => apply Exists.intro; apply Exists.intro; intro s; dsimp only [exec, execVext]; try rfl
  case vins => apply Exists.intro; apply Exists.intro; intro s; dsimp only [exec, execVins]; try rfl
  case vred => apply Exists.intro; apply Exists.intro; intro s; dsimp only [exec, execVred]; try rfl
  case vsfu => apply Exists.intro; apply Exists.intro; intro s; dsimp only [exec, execVsfu]; try rfl
  case vcvt => apply Exists.intro; apply Exists.intro; intro s; dsimp only [exec, execVcvt]; try rfl
  case vcvti => apply Exists.intro; apply Exists.intro; intro s; dsimp only [exec, execVcvti]; try rfl
  case vqmx => apply Exists.intro; apply Exists.intro; intro s; dsimp only [exec, execVqmx]; try rfl
  case vdqmx => apply Exists.intro; apply Exists.intro; intro s; dsimp only [exec, execVdqmx]; try rfl
  case vcmpr => apply Exists.intro; apply Exists.intro; intro s; dsimp only [exec, execVcmpr]; try rfl
  case vpack => apply Exists.intro; apply Exists.intro; intro s; dsimp only [exec, execVpack]; try rfl
  case vunpk => apply Exists.intro; apply Exists.intro; intro s; dsimp only [exec, execVunpk]; try rfl
  case vrng => apply Exists.intro; apply Exists.intro; intro s; dsimp only [exec, execVrng]; try rfl
  case vdot => apply Exists.intro; apply Exists.intro; intro s; dsimp only [exec, execVdot]; try rfl
  case vbitc => apply Exists.intro; apply Exists.intro; intro s; dsimp only [exec, execVbitc]; try rfl
  case vsatn => apply Exists.intro; apply Exists.intro; intro s; dsimp only [exec, execVsatn]; try rfl
  case vmaskq => apply Exists.intro; apply Exists.intro; intro s; dsimp only [exec, execVmaskq]; try rfl
  case viota => apply Exists.intro; apply Exists.intro; intro s; dsimp only [exec, execViota]; try rfl
  case vscl => apply Exists.intro; apply Exists.intro; intro s; dsimp only [exec, execVscl]; try rfl
  case mma => apply Exists.intro; apply Exists.intro; intro s; dsimp only [exec, execMma]; try rfl
  case mmas => apply Exists.intro; apply Exists.intro; intro s; dsimp only [exec, execMmas]; try rfl
  case mmaz => apply Exists.intro; apply Exists.intro; intro s; dsimp only [exec, execMmaz]; try rfl
  case mclr => apply Exists.intro; apply Exists.intro; intro s; dsimp only [exec, execMclr]; try rfl
  case mrd => apply Exists.intro; apply Exists.intro; intro s; dsimp only [exec, execMrd]; try rfl
  case mwr => apply Exists.intro; apply Exists.intro; intro s; dsimp only [exec, execMwr]; try rfl
  case mrdv => apply Exists.intro; apply Exists.intro; intro s; dsimp only [exec, execMrdv]; try rfl
  case mscl => apply Exists.intro; apply Exists.intro; intro s; dsimp only [exec, execMscl]; try rfl
  case mtrn => apply Exists.intro; apply Exists.intro; intro s; dsimp only [exec, execMtrn]; try rfl
  case mseq => apply Exists.intro; apply Exists.intro; intro s; dsimp only [exec, execMseq]; try rfl
  case msync => apply Exists.intro; apply Exists.intro; intro s; dsimp only [exec, execMsync]; try rfl
  case cpyi => apply Exists.intro; apply Exists.intro; intro s; dsimp only [exec, execCpyi]; try rfl
  case cpyo => apply Exists.intro; apply Exists.intro; intro s; dsimp only [exec, execCpyo]; try rfl
  case cpyl => apply Exists.intro; apply Exists.intro; intro s; dsimp only [exec, execCpyl]; try rfl
  case foot => apply Exists.intro; apply Exists.intro; intro s; dsimp only [exec, execFoot]; try rfl
  case twait => apply Exists.intro; apply Exists.intro; intro s; dsimp only [exec, execTwait]; try rfl
  case tany => apply Exists.intro; apply Exists.intro; intro s; dsimp only [exec, execTany]; try rfl
  case tffr => apply Exists.intro; apply Exists.intro; intro s; dsimp only [exec, execTffr]; try rfl
  case tclr => apply Exists.intro; apply Exists.intro; intro s; dsimp only [exec, execTclr]; try rfl
  case tsnd => apply Exists.intro; apply Exists.intro; intro s; dsimp only [exec, execTsnd]; try rfl
  case trcv => apply Exists.intro; apply Exists.intro; intro s; dsimp only [exec, execTrcv]; try rfl
  case esnd => apply Exists.intro; apply Exists.intro; intro s; dsimp only [exec, execEsnd]; try rfl
  case ercv => apply Exists.intro; apply Exists.intro; intro s; dsimp only [exec, execErcv]; try rfl
  case bari => apply Exists.intro; apply Exists.intro; intro s; dsimp only [exec, execBari]; try rfl
  case barw => apply Exists.intro; apply Exists.intro; intro s; dsimp only [exec, execBarw]; try rfl
  case bara => apply Exists.intro; apply Exists.intro; intro s; dsimp only [exec, execBara]; try rfl
  case spawn => apply Exists.intro; apply Exists.intro; intro s; dsimp only [exec, execSpawn]; try rfl
  case quit => apply Exists.intro; apply Exists.intro; intro s; dsimp only [exec, execQuit]; try rfl
  case fork => apply Exists.intro; apply Exists.intro; intro s; dsimp only [exec, execFork]; try rfl
  case join => apply Exists.intro; apply Exists.intro; intro s; dsimp only [exec, execJoin]; try rfl
  case popd => apply Exists.intro; apply Exists.intro; intro s; dsimp only [exec, execPopd]; try rfl
  case steal => apply Exists.intro; apply Exists.intro; intro s; dsimp only [exec, execSteal]; try rfl
  case rpsh => apply Exists.intro; apply Exists.intro; intro s; dsimp only [exec, execRpsh]; try rfl
  case rpop => apply Exists.intro; apply Exists.intro; intro s; dsimp only [exec, execRpop]; try rfl
  case sdldCell => apply Exists.intro; apply Exists.intro; intro s; dsimp only [exec, execSdldCell]; try rfl
  case sdldCoup => apply Exists.intro; apply Exists.intro; intro s; dsimp only [exec, execSdldCoup]; try rfl
  case sdldBridge => apply Exists.intro; apply Exists.intro; intro s; dsimp only [exec, execSdldBridge]; try rfl
  case sdldClear => apply Exists.intro; apply Exists.intro; intro s; dsimp only [exec, execSdldClear]; try rfl
  case sdclpClamp => apply Exists.intro; apply Exists.intro; intro s; dsimp only [exec, execSdclpClamp]; try rfl
  case sdclpRelease => apply Exists.intro; apply Exists.intro; intro s; dsimp only [exec, execSdclpRelease]; try rfl
  case sdclpSet => apply Exists.intro; apply Exists.intro; intro s; dsimp only [exec, execSdclpSet]; try rfl
  case sdswp => apply Exists.intro; apply Exists.intro; intro s; dsimp only [exec, execSdswp]; try rfl
  case sdrd => apply Exists.intro; apply Exists.intro; intro s; dsimp only [exec, execSdrd]; try rfl
  case sdcnt => apply Exists.intro; apply Exists.intro; intro s; dsimp only [exec, execSdcnt]; try rfl
  case sdseed => apply Exists.intro; apply Exists.intro; intro s; dsimp only [exec, execSdseed]; try rfl
  case sdseedStore => apply Exists.intro; apply Exists.intro; intro s; dsimp only [exec, execSdseedStore]; try rfl
  case sdtbl => apply Exists.intro; apply Exists.intro; intro s; dsimp only [exec, execSdtbl]; try rfl
  case sdbeta => apply Exists.intro; apply Exists.intro; intro s; dsimp only [exec, execSdbeta]; try rfl
  case sigs => apply Exists.intro; apply Exists.intro; intro s; dsimp only [exec, execSigs]; try rfl
  case swait => apply Exists.intro; apply Exists.intro; intro s; dsimp only [exec, execSwait]; try rfl
  case codel => apply Exists.intro; apply Exists.intro; intro s; dsimp only [exec, execCodel]; try rfl
  case codei => apply Exists.intro; apply Exists.intro; intro s; dsimp only [exec, execCodei]; try rfl
  case bankr => apply Exists.intro; apply Exists.intro; intro s; dsimp only [exec, execBankr]; try rfl
  case bankw => apply Exists.intro; apply Exists.intro; intro s; dsimp only [exec, execBankw]; try rfl
  case lsnd => apply Exists.intro; apply Exists.intro; intro s; dsimp only [exec, execLsnd]; try rfl
  case lrcv => apply Exists.intro; apply Exists.intro; intro s; dsimp only [exec, execLrcv]; try rfl
  case lred => apply Exists.intro; apply Exists.intro; intro s; dsimp only [exec, execLred]; try rfl
  case hnfy => apply Exists.intro; apply Exists.intro; intro s; dsimp only [exec, execHnfy]; try rfl
  case movc => apply Exists.intro; apply Exists.intro; intro s; dsimp only [exec, execMovc]; try rfl
  case tide => apply Exists.intro; apply Exists.intro; intro s; dsimp only [exec, execTide]; try rfl
  case tideRetide => apply Exists.intro; apply Exists.intro; intro s; dsimp only [exec, execTideRetide]; try rfl
  case rdyqPush => apply Exists.intro; apply Exists.intro; intro s; dsimp only [exec, execRdyqPush]; try rfl
  case rdyqPushh => apply Exists.intro; apply Exists.intro; intro s; dsimp only [exec, execRdyqPushh]; try rfl
  case rdyqPop => apply Exists.intro; apply Exists.intro; intro s; dsimp only [exec, execRdyqPop]; try rfl
  case rdyqCount => apply Exists.intro; apply Exists.intro; intro s; dsimp only [exec, execRdyqCount]; try rfl
  case rdyqSpill => apply Exists.intro; apply Exists.intro; intro s; dsimp only [exec, execRdyqSpill]; try rfl
  case rdyqRefill => apply Exists.intro; apply Exists.intro; intro s; dsimp only [exec, execRdyqRefill]; try rfl
  case rdyqFlush => apply Exists.intro; apply Exists.intro; intro s; dsimp only [exec, execRdyqFlush]; try rfl
  case rdyqRpst => apply Exists.intro; apply Exists.intro; intro s; dsimp only [exec, execRdyqRpst]; try rfl
  case send => apply Exists.intro; apply Exists.intro; intro s; dsimp only [exec, execSend]; try rfl
  case recv => apply Exists.intro; apply Exists.intro; intro s; dsimp only [exec, execRecv]; try rfl
  all_goals exact Bool.noConfusion (show false = true from h)

/-- Every other constructor is an event, which answers a next state with the counter of free values advanced (log 3). -/
theorem exec_event (i : Instr) (h : i.isOp = false) : ∃ f : State → State, ∀ s, exec i s = .next (f s).bump := by
  cases i
  case relaxedAccessPerform => apply Exists.intro; intro s; dsimp only [exec, execRelaxedAccessPerform]; try rfl
  case remoteAccessPerform => apply Exists.intro; intro s; dsimp only [exec, execRemoteAccessPerform]; try rfl
  case remoteResponseArrival => apply Exists.intro; intro s; dsimp only [exec, execRemoteResponseArrival]; try rfl
  case retryResend => apply Exists.intro; intro s; dsimp only [exec, execRetryResend]; try rfl
  case watchSlotRetest => apply Exists.intro; intro s; dsimp only [exec, execWatchSlotRetest]; try rfl
  case localRetry => apply Exists.intro; intro s; dsimp only [exec, execLocalRetry]; try rfl
  case felimExpiry => apply Exists.intro; intro s; dsimp only [exec, execFelimExpiry]; try rfl
  case rpopLimitExpiry => apply Exists.intro; intro s; dsimp only [exec, execRpopLimitExpiry]; try rfl
  case matrixQueueEnter => apply Exists.intro; intro s; dsimp only [exec, execMatrixQueueEnter]; try rfl
  case matrixCommandStart => apply Exists.intro; intro s; dsimp only [exec, execMatrixCommandStart]; try rfl
  case matrixStartRefused => apply Exists.intro; intro s; dsimp only [exec, execMatrixStartRefused]; try rfl
  case mseqStepStart => apply Exists.intro; intro s; dsimp only [exec, execMseqStepStart]; try rfl
  case matrixCommandComplete => apply Exists.intro; intro s; dsimp only [exec, execMatrixCommandComplete]; try rfl
  case engineQueueEnter => apply Exists.intro; intro s; dsimp only [exec, execEngineQueueEnter]; try rfl
  case engineCommandStart => apply Exists.intro; intro s; dsimp only [exec, execEngineCommandStart]; try rfl
  case engineStartRefused => apply Exists.intro; intro s; dsimp only [exec, execEngineStartRefused]; try rfl
  case copyServiceRequest => apply Exists.intro; intro s; dsimp only [exec, execCopyServiceRequest]; try rfl
  case copyTranslate => apply Exists.intro; intro s; dsimp only [exec, execCopyTranslate]; try rfl
  case translationWalk => apply Exists.intro; intro s; dsimp only [exec, execTranslationWalk]; try rfl
  case pieceServe => apply Exists.intro; intro s; dsimp only [exec, execPieceServe]; try rfl
  case stagingWriteback => apply Exists.intro; intro s; dsimp only [exec, execStagingWriteback]; try rfl
  case channelPairRound => apply Exists.intro; intro s; dsimp only [exec, execChannelPairRound]; try rfl
  case copyWordWrite => apply Exists.intro; intro s; dsimp only [exec, execCopyWordWrite]; try rfl
  case copyComplete => apply Exists.intro; intro s; dsimp only [exec, execCopyComplete]; try rfl
  case copyFault => apply Exists.intro; intro s; dsimp only [exec, execCopyFault]; try rfl
  case tidalFlitHop => apply Exists.intro; intro s; dsimp only [exec, execTidalFlitHop]; try rfl
  case tidalFlitDelivery => apply Exists.intro; intro s; dsimp only [exec, execTidalFlitDelivery]; try rfl
  case strayFlitDiscard => apply Exists.intro; intro s; dsimp only [exec, execStrayFlitDiscard]; try rfl
  case esndMessageArrival => apply Exists.intro; intro s; dsimp only [exec, execEsndMessageArrival]; try rfl
  case ercvDelivery => apply Exists.intro; intro s; dsimp only [exec, execErcvDelivery]; try rfl
  case barrierRequest => apply Exists.intro; intro s; dsimp only [exec, execBarrierRequest]; try rfl
  case ringRemoteOp => apply Exists.intro; intro s; dsimp only [exec, execRingRemoteOp]; try rfl
  case signalWordPerform => apply Exists.intro; intro s; dsimp only [exec, execSignalWordPerform]; try rfl
  case linkFlitSend => apply Exists.intro; intro s; dsimp only [exec, execLinkFlitSend]; try rfl
  case linkFlitArrival => apply Exists.intro; intro s; dsimp only [exec, execLinkFlitArrival]; try rfl
  case linkCreditReturn => apply Exists.intro; intro s; dsimp only [exec, execLinkCreditReturn]; try rfl
  case bankHandover => apply Exists.intro; intro s; dsimp only [exec, execBankHandover]; try rfl
  case stealRequest => apply Exists.intro; intro s; dsimp only [exec, execStealRequest]; try rfl
  case stealResponse => apply Exists.intro; intro s; dsimp only [exec, execStealResponse]; try rfl
  case spawnRequest => apply Exists.intro; intro s; dsimp only [exec, execSpawnRequest]; try rfl
  case remoteJoin => apply Exists.intro; intro s; dsimp only [exec, execRemoteJoin]; try rfl
  case swapComplete => apply Exists.intro; intro s; dsimp only [exec, execSwapComplete]; try rfl
  case resumeComplete => apply Exists.intro; intro s; dsimp only [exec, execResumeComplete]; try rfl
  case movcComplete => apply Exists.intro; intro s; dsimp only [exec, execMovcComplete]; try rfl
  case haltDrainComplete => apply Exists.intro; intro s; dsimp only [exec, execHaltDrainComplete]; try rfl
  case workerTrapTaken => apply Exists.intro; intro s; dsimp only [exec, execWorkerTrapTaken]; try rfl
  case c0TrapEntry => apply Exists.intro; intro s; dsimp only [exec, execC0TrapEntry]; try rfl
  case c0TrapToLighthouse => apply Exists.intro; intro s; dsimp only [exec, execC0TrapToLighthouse]; try rfl
  case c0TimerExpiry => apply Exists.intro; intro s; dsimp only [exec, execC0TimerExpiry]; try rfl
  case uncorrectableLsError => apply Exists.intro; intro s; dsimp only [exec, execUncorrectableLsError]; try rfl
  case retideInstant => apply Exists.intro; intro s; dsimp only [exec, execRetideInstant]; try rfl
  case codelLineWrite => apply Exists.intro; intro s; dsimp only [exec, execCodelLineWrite]; try rfl
  case sdldRecordApply => apply Exists.intro; intro s; dsimp only [exec, execSdldRecordApply]; try rfl
  case spindriftSweep => apply Exists.intro; intro s; dsimp only [exec, execSpindriftSweep]; try rfl
  case spindriftCommandComplete => apply Exists.intro; intro s; dsimp only [exec, execSpindriftCommandComplete]; try rfl
  case migrationStateCopy => apply Exists.intro; intro s; dsimp only [exec, execMigrationStateCopy]; try rfl
  case launchPacket => apply Exists.intro; intro s; dsimp only [exec, execLaunchPacket]; try rfl
  case launchResourceGrant => apply Exists.intro; intro s; dsimp only [exec, execLaunchResourceGrant]; try rfl
  case hnfyNoticeAccept => apply Exists.intro; intro s; dsimp only [exec, execHnfyNoticeAccept]; try rfl
  case launchLatchWrite => apply Exists.intro; intro s; dsimp only [exec, execLaunchLatchWrite]; try rfl
  case launchDeadlineExpiry => apply Exists.intro; intro s; dsimp only [exec, execLaunchDeadlineExpiry]; try rfl
  case launchInstant => apply Exists.intro; intro s; dsimp only [exec, execLaunchInstant]; try rfl
  case slackWaterSample => apply Exists.intro; intro s; dsimp only [exec, execSlackWaterSample]; try rfl
  case barrierAnd => apply Exists.intro; intro s; dsimp only [exec, execBarrierAnd]; try rfl
  case barrierAndRecheck => apply Exists.intro; intro s; dsimp only [exec, execBarrierAndRecheck]; try rfl
  case signalPacket => apply Exists.intro; intro s; dsimp only [exec, execSignalPacket]; try rfl
  case armPacket => apply Exists.intro; intro s; dsimp only [exec, execArmPacket]; try rfl
  case disarmPacket => apply Exists.intro; intro s; dsimp only [exec, execDisarmPacket]; try rfl
  case resetqPacket => apply Exists.intro; intro s; dsimp only [exec, execResetqPacket]; try rfl
  case ebbWheelTick => apply Exists.intro; intro s; dsimp only [exec, execEbbWheelTick]; try rfl
  case queueNotify => apply Exists.intro; intro s; dsimp only [exec, execQueueNotify]; try rfl
  case peerWrite => apply Exists.intro; intro s; dsimp only [exec, execPeerWrite]; try rfl
  case peerRead => apply Exists.intro; intro s; dsimp only [exec, execPeerRead]; try rfl
  case queueCreate => apply Exists.intro; intro s; dsimp only [exec, execQueueCreate]; try rfl
  case queueReset => apply Exists.intro; intro s; dsimp only [exec, execQueueReset]; try rfl
  case resetAcknowledge => apply Exists.intro; intro s; dsimp only [exec, execResetAcknowledge]; try rfl
  case queueDestroy => apply Exists.intro; intro s; dsimp only [exec, execQueueDestroy]; try rfl
  case wridxWrite => apply Exists.intro; intro s; dsimp only [exec, execWridxWrite]; try rfl
  case queueKeyWrite => apply Exists.intro; intro s; dsimp only [exec, execQueueKeyWrite]; try rfl
  case coreControlRestartEpc => apply Exists.intro; intro s; dsimp only [exec, execCoreControlRestartEpc]; try rfl
  case coreControlRestartData => apply Exists.intro; intro s; dsimp only [exec, execCoreControlRestartData]; try rfl
  case coreControlSetDeleg => apply Exists.intro; intro s; dsimp only [exec, execCoreControlSetDeleg]; try rfl
  case coreControlMigration => apply Exists.intro; intro s; dsimp only [exec, execCoreControlMigration]; try rfl
  case shootdownGo => apply Exists.intro; intro s; dsimp only [exec, execShootdownGo]; try rfl
  case shootdownComplete => apply Exists.intro; intro s; dsimp only [exec, execShootdownComplete]; try rfl
  case hubRegisterWrite => apply Exists.intro; intro s; dsimp only [exec, execHubRegisterWrite]; try rfl
  case dieParkRequest => apply Exists.intro; intro s; dsimp only [exec, execDieParkRequest]; try rfl
  case diePark => apply Exists.intro; intro s; dsimp only [exec, execDiePark]; try rfl
  case dieUnpark => apply Exists.intro; intro s; dsimp only [exec, execDieUnpark]; try rfl
  case clockStepRequest => apply Exists.intro; intro s; dsimp only [exec, execClockStepRequest]; try rfl
  case heartbeat => apply Exists.intro; intro s; dsimp only [exec, execHeartbeat]; try rfl
  case watchFailure => apply Exists.intro; intro s; dsimp only [exec, execWatchFailure]; try rfl
  case packageReset => apply Exists.intro; intro s; dsimp only [exec, execPackageReset]; try rfl
  case watchBoot => apply Exists.intro; intro s; dsimp only [exec, execWatchBoot]; try rfl
  case linkTraining => apply Exists.intro; intro s; dsimp only [exec, execLinkTraining]; try rfl
  case linkFailure => apply Exists.intro; intro s; dsimp only [exec, execLinkFailure]; try rfl
  case thermalSample => apply Exists.intro; intro s; dsimp only [exec, execThermalSample]; try rfl
  case degradedCoreDetect => apply Exists.intro; intro s; dsimp only [exec, execDegradedCoreDetect]; try rfl
  case attestationReport => apply Exists.intro; intro s; dsimp only [exec, execAttestationReport]; try rfl
  case debugToken => apply Exists.intro; intro s; dsimp only [exec, execDebugToken]; try rfl
  case ownerKeyFuse => apply Exists.intro; intro s; dsimp only [exec, execOwnerKeyFuse]; try rfl
  case tenantLock => apply Exists.intro; intro s; dsimp only [exec, execTenantLock]; try rfl
  case tenantUnlock => apply Exists.intro; intro s; dsimp only [exec, execTenantUnlock]; try rfl
  case cliffstackScrub => apply Exists.intro; intro s; dsimp only [exec, execCliffstackScrub]; try rfl
  case logDrain => apply Exists.intro; intro s; dsimp only [exec, execLogDrain]; try rfl
  case hubSnapshot => apply Exists.intro; intro s; dsimp only [exec, execHubSnapshot]; try rfl
  case replayReceive => apply Exists.intro; intro s; dsimp only [exec, execReplayReceive]; try rfl
  case mtimecmpMatch => apply Exists.intro; intro s; dsimp only [exec, execMtimecmpMatch]; try rfl
  case lighthouseLoadStore => apply Exists.intro; intro s; dsimp only [exec, execLighthouseLoadStore]; try rfl
  case portAccess => apply Exists.intro; intro s; dsimp only [exec, execPortAccess]; try rfl
  case queueError => apply Exists.intro; intro s; dsimp only [exec, execQueueError]; try rfl
  case vbcast t d src => cases src <;> exact Bool.noConfusion (show true = false from h)
  case vred op t d a => cases t <;> exact Bool.noConfusion (show true = false from h)
  case vmaskq t d a => cases d <;> exact Bool.noConfusion (show true = false from h)
  all_goals exact Bool.noConfusion (show true = false from h)

/-- In its check phase an operation changes nothing but what is noted (R61). -/
theorem exec_check {i : Instr} (h : i.isOp = true) {s : State} (hs : s.frame.phase = .check) :
    ∃ chk, exec i s = .next (s.note (s.firstTrap i chk)) := by
  obtain ⟨c, p, e⟩ := exec_operation i h
  exact ⟨c, (e s).trans (operation_check hs)⟩

end Sys2Proof.Machine
end

