-- ==== Sys2Proof/Laws/Fields.lean ====
section
/-! SUPPORT. Each field of an encoded word reads as it was written, for the word forms of R47 to R51; codes and flags read back. -/
namespace Sys2Proof

/-! ## Fields of appended words -/

/-- A field within the low part. -/
theorem extract_low {n m s k : Nat} (a : BitVec n) (b : BitVec m) (h : s + k ≤ m) :
    (a ++ b).extractLsb' s k = b.extractLsb' s k := by
  apply BitVec.eq_of_getLsbD_eq
  intro i hi
  simp [BitVec.getLsbD_append, hi, show s + i < m by omega]
/-- A field within the high part. -/
theorem extract_high {n m s k : Nat} (a : BitVec n) (b : BitVec m) (h : m ≤ s) :
    (a ++ b).extractLsb' s k = a.extractLsb' (s - m) k := by
  apply BitVec.eq_of_getLsbD_eq
  intro i hi
  simp [BitVec.getLsbD_append, hi, show ¬ s + i < m by omega, show s + i - m = s - m + i by omega]
/-- The whole of a value as a field. -/
theorem extract_all {n : Nat} (a : BitVec n) : a.extractLsb' 0 n = a := by
  apply BitVec.eq_of_getLsbD_eq
  intro i hi
  simp [hi]
/-- A bit within the low part. -/
theorem bit_low {n m i : Nat} (a : BitVec n) (b : BitVec m) (h : i < m) : (a ++ b).getLsbD i = b.getLsbD i := by
  simp [BitVec.getLsbD_append, h]
/-- A bit within the high part. -/
theorem bit_high {n m i : Nat} (a : BitVec n) (b : BitVec m) (h : m ≤ i) : (a ++ b).getLsbD i = a.getLsbD (i - m) := by
  simp [BitVec.getLsbD_append, show ¬ i < m by omega]

/-! ## RRR, RRI and RI words (R47) -/

variable (op : Nat) (d a b c : BitVec 6) (m : BitVec 8) (imm : BitVec 14) (imm20 : BitVec 20)

@[simp] theorem fOp_encRRR : fOp (encRRR op d a b m) = BitVec.ofNat 6 op := by
  simp (disch := decide) only [fOp, encRRR, extract_high, extract_all, Nat.reduceSub]
@[simp] theorem fD_encRRR : fD (encRRR op d a b m) = d := by
  simp (disch := decide) only [fD, encRRR, extract_high, extract_low, extract_all, Nat.reduceSub]
@[simp] theorem fA_encRRR : fA (encRRR op d a b m) = a := by
  simp (disch := decide) only [fA, encRRR, extract_high, extract_low, extract_all, Nat.reduceSub]
@[simp] theorem fB_encRRR : fB (encRRR op d a b m) = b := by
  simp (disch := decide) only [fB, encRRR, extract_high, extract_low, extract_all, Nat.reduceSub]
@[simp] theorem fMod_encRRR : fMod (encRRR op d a b m) = m := by
  simp (disch := decide) only [fMod, encRRR, extract_low, extract_all]
@[simp] theorem fOp_encRRI : fOp (encRRI op d a imm) = BitVec.ofNat 6 op := by
  simp (disch := decide) only [fOp, encRRI, extract_high, extract_all, Nat.reduceSub]
@[simp] theorem fD_encRRI : fD (encRRI op d a imm) = d := by
  simp (disch := decide) only [fD, encRRI, extract_high, extract_low, extract_all, Nat.reduceSub]
@[simp] theorem fA_encRRI : fA (encRRI op d a imm) = a := by
  simp (disch := decide) only [fA, encRRI, extract_high, extract_low, extract_all, Nat.reduceSub]
@[simp] theorem fImm14_encRRI : fImm14 (encRRI op d a imm) = imm := by
  simp (disch := decide) only [fImm14, encRRI, extract_low, extract_all]
@[simp] theorem fOp_encRI : fOp (encRI op d imm20) = BitVec.ofNat 6 op := by
  simp (disch := decide) only [fOp, encRI, extract_high, extract_all, Nat.reduceSub]
@[simp] theorem fD_encRI : fD (encRI op d imm20) = d := by
  simp (disch := decide) only [fD, encRI, extract_high, extract_low, extract_all, Nat.reduceSub]
@[simp] theorem fImm20_encRI : fImm20 (encRI op d imm20) = imm20 := by
  simp (disch := decide) only [fImm20, encRI, extract_low, extract_all]

/-! ## V words (R48) -/

variable (ty : Nat)

@[simp] theorem fOp_encV : fOp (encV op ty d a b c) = BitVec.ofNat 6 op := by
  simp (disch := decide) only [fOp, encV, extract_high, extract_all, Nat.reduceSub]
@[simp] theorem vTy_encV : vTy (encV op ty d a b c) = BitVec.ofNat 2 ty := by
  simp (disch := decide) only [vTy, encV, extract_high, extract_low, extract_all, Nat.reduceSub]
@[simp] theorem vD_encV : vD (encV op ty d a b c) = d := by
  simp (disch := decide) only [vD, encV, extract_high, extract_low, extract_all, Nat.reduceSub]
@[simp] theorem vA_encV : vA (encV op ty d a b c) = a := by
  simp (disch := decide) only [vA, encV, extract_high, extract_low, extract_all, Nat.reduceSub]
@[simp] theorem vB_encV : vB (encV op ty d a b c) = b := by
  simp (disch := decide) only [vB, encV, extract_high, extract_low, extract_all, Nat.reduceSub]
@[simp] theorem vC_encV : vC (encV op ty d a b c) = c := by
  simp (disch := decide) only [vC, encV, extract_low, extract_all]

/-! ## M words (R49) and N words (R50) -/

variable (acc : BitVec 3) (fa fb sf : Nat) (md : BitVec 5) (st : Start) (imm8 : BitVec 8) (imm7 : BitVec 7)

@[simp] theorem fOp_encM0 : fOp (encM0 op acc fa fb a b md) = BitVec.ofNat 6 op := by
  simp (disch := decide) only [fOp, encM0, extract_high, extract_all, Nat.reduceSub]
@[simp] theorem mAcc_encM0 : mAcc (encM0 op acc fa fb a b md) = acc := by
  simp (disch := decide) only [mAcc, encM0, extract_high, extract_low, extract_all, Nat.reduceSub]
@[simp] theorem mFa_encM0 : mFa (encM0 op acc fa fb a b md) = BitVec.ofNat 3 fa := by
  simp (disch := decide) only [mFa, encM0, extract_high, extract_low, extract_all, Nat.reduceSub]
@[simp] theorem mFb_encM0 : mFb (encM0 op acc fa fb a b md) = BitVec.ofNat 3 fb := by
  simp (disch := decide) only [mFb, encM0, extract_high, extract_low, extract_all, Nat.reduceSub]
@[simp] theorem mA_encM0 : mA (encM0 op acc fa fb a b md) = a := by
  simp (disch := decide) only [mA, encM0, extract_high, extract_low, extract_all, Nat.reduceSub]
@[simp] theorem mB_encM0 : mB (encM0 op acc fa fb a b md) = b := by
  simp (disch := decide) only [mB, encM0, extract_high, extract_low, extract_all, Nat.reduceSub]
@[simp] theorem mMod_encM0 : mMod (encM0 op acc fa fb a b md) = md := by
  simp (disch := decide) only [mMod, encM0, extract_low, extract_all]
@[simp] theorem w1Start_encM1 : w1Start (encM1 a sf st) = st := by
  simp (disch := decide) only [w1Start, w1F, w1Off, encM1, extract_low, extract_all, bit_high, Nat.reduceSub, bit]
  simp
@[simp] theorem m1S_encM1 : m1S (encM1 a sf st) = a := by
  simp (disch := decide) only [m1S, encM1, extract_high, extract_low, extract_all, Nat.reduceSub]
@[simp] theorem m1Sf_encM1 : m1Sf (encM1 a sf st) = BitVec.ofNat 1 sf := by
  simp (disch := decide) only [m1Sf, encM1, extract_high, extract_low, extract_all, Nat.reduceSub]
@[simp] theorem fOp_encN0 : fOp (encN0 op a b c imm8) = BitVec.ofNat 6 op := by
  simp (disch := decide) only [fOp, encN0, extract_high, extract_all, Nat.reduceSub]
@[simp] theorem fD_encN0 : fD (encN0 op a b c imm8) = a := by
  simp (disch := decide) only [fD, encN0, extract_high, extract_low, extract_all, Nat.reduceSub]
@[simp] theorem fA_encN0 : fA (encN0 op a b c imm8) = b := by
  simp (disch := decide) only [fA, encN0, extract_high, extract_low, extract_all, Nat.reduceSub]
@[simp] theorem fB_encN0 : fB (encN0 op a b c imm8) = c := by
  simp (disch := decide) only [fB, encN0, extract_high, extract_low, extract_all, Nat.reduceSub]
@[simp] theorem fMod_encN0 : fMod (encN0 op a b c imm8) = imm8 := by
  simp (disch := decide) only [fMod, encN0, extract_low, extract_all]
@[simp] theorem w1Start_encN1 : w1Start (encN1 imm7 st) = st := by
  simp (disch := decide) only [w1Start, w1F, w1Off, encN1, extract_low, extract_all, bit_high, Nat.reduceSub, bit]
  simp
@[simp] theorem n1Imm7_encN1 : n1Imm7 (encN1 imm7 st) = imm7 := by
  simp (disch := decide) only [n1Imm7, encN1, extract_high, extract_low, extract_all, Nat.reduceSub]
@[simp] theorem decDep_encDep (t : Option (BitVec 6)) : decDep (encDep t) = some t := by
  cases t with
  | none => rfl
  | some t =>
    simp (disch := decide) only [decDep, encDep, bit_high, extract_low, extract_all, Nat.sub_self]
    rfl

end Sys2Proof
end

