-- ==== Sys2Proof/Laws/PerInstr.lean ====
section
/-! SUPPORT. The per-instruction family Encoding: an operation has words in at most one slot, so its encoding names it once (spec/02_bundles_and_opcode_map.md R54 to R60); an event has none. -/
namespace Sys2Proof.Laws.Encoding

/-- How many slots have words for an operation. -/
def slotCount (i : Instr) : Nat :=
  (encS i).isSome.toNat + (encL i).isSome.toNat + (encVop i).isSome.toNat + (encM i).isSome.toNat + (encNop i).isSome.toNat
/-- An operation has words in at most one slot, and exactly those with words, and the pure wait bundle, are operations. -/
def Statement (i : Instr) : Prop := slotCount i ≤ 1 ∧ (i.isOp = false → slotCount i = 0)

theorem pureWaitBundle (w : BitVec 4) (g : BitVec 3) (n : Bool) : Statement (.pureWaitBundle w g n) := by exact ⟨Nat.zero_le _, fun _ => rfl⟩
theorem add (d a b : SReg) (w : Bool) : Statement (.add d a b w) := by exact ⟨Nat.le_refl _, nofun⟩
theorem sub (d a b : SReg) (w : Bool) : Statement (.sub d a b w) := by exact ⟨Nat.le_refl _, nofun⟩
theorem and (d a b : SReg) : Statement (.and d a b) := by exact ⟨Nat.le_refl _, nofun⟩
theorem or (d a b : SReg) : Statement (.or d a b) := by exact ⟨Nat.le_refl _, nofun⟩
theorem xor (d a b : SReg) : Statement (.xor d a b) := by exact ⟨Nat.le_refl _, nofun⟩
theorem sll (d a b : SReg) (w : Bool) : Statement (.sll d a b w) := by exact ⟨Nat.le_refl _, nofun⟩
theorem srl (d a b : SReg) (w : Bool) : Statement (.srl d a b w) := by exact ⟨Nat.le_refl _, nofun⟩
theorem sra (d a b : SReg) (w : Bool) : Statement (.sra d a b w) := by exact ⟨Nat.le_refl _, nofun⟩
theorem mul (d a b : SReg) (w : Bool) : Statement (.mul d a b w) := by exact ⟨Nat.le_refl _, nofun⟩
theorem mulh (d a b : SReg) (sg : MulSign) : Statement (.mulh d a b sg) := by exact ⟨Nat.le_refl _, nofun⟩
theorem div (d a b : SReg) (w u : Bool) : Statement (.div d a b w u) := by exact ⟨Nat.le_refl _, nofun⟩
theorem rem (d a b : SReg) (w u : Bool) : Statement (.rem d a b w u) := by exact ⟨Nat.le_refl _, nofun⟩
theorem minmax (d a b : SReg) (max u : Bool) : Statement (.minmax d a b max u) := by exact ⟨Nat.le_refl _, nofun⟩
theorem cmp (q : PReg) (a b : SReg) (c : Cond) : Statement (.cmp q a b c) := by exact ⟨Nat.le_refl _, nofun⟩
theorem sel (d a b : SReg) (q : PReg) (inv : Bool) : Statement (.sel d a b q inv) := by exact ⟨Nat.le_refl _, nofun⟩
theorem addi (d a : SReg) (imm : BitVec 14) : Statement (.addi d a imm) := by exact ⟨Nat.le_refl _, nofun⟩
theorem andi (d a : SReg) (imm : BitVec 14) : Statement (.andi d a imm) := by exact ⟨Nat.le_refl _, nofun⟩
theorem ori (d a : SReg) (imm : BitVec 14) : Statement (.ori d a imm) := by exact ⟨Nat.le_refl _, nofun⟩
theorem xori (d a : SReg) (imm : BitVec 14) : Statement (.xori d a imm) := by exact ⟨Nat.le_refl _, nofun⟩
theorem shi (d a : SReg) (kind : ShiftKind) (w : Bool) (amt : BitVec 6) : Statement (.shi d a kind w amt) := by exact ⟨Nat.le_refl _, nofun⟩
theorem lui (d : SReg) (imm : BitVec 20) : Statement (.lui d imm) := by exact ⟨Nat.le_refl _, nofun⟩
theorem cmpi (q : PReg) (a : SReg) (imm : BitVec 14) : Statement (.cmpi q a imm) := by exact ⟨Nat.le_refl _, nofun⟩
theorem bfx (d a : SReg) (sx : Bool) (wm1 pos : BitVec 6) : Statement (.bfx d a sx wm1 pos) := by exact ⟨Nat.le_refl _, nofun⟩
theorem bfi (d a : SReg) (wm1 pos : BitVec 6) : Statement (.bfi d a wm1 pos) := by exact ⟨Nat.le_refl _, nofun⟩
theorem bitc (d a : SReg) (kind : BitKind) : Statement (.bitc d a kind) := by exact ⟨Nat.le_refl _, nofun⟩
theorem adda (d a b : SReg) (s : BitVec 3) : Statement (.adda d a b s) := by exact ⟨Nat.le_refl _, nofun⟩
theorem br (imm : BitVec 20) : Statement (.br imm) := by exact ⟨Nat.le_refl _, nofun⟩
theorem jal (d : SReg) (imm : BitVec 20) : Statement (.jal d imm) := by exact ⟨Nat.le_refl _, nofun⟩
theorem jalr (d a : SReg) (imm : BitVec 14) : Statement (.jalr d a imm) := by exact ⟨Nat.le_refl _, nofun⟩
theorem loop (d a : SReg) (stride : BitVec 7) (lo fo : Bool) (len : BitVec 5) : Statement (.loop d a stride lo fo len) := by exact ⟨Nat.le_refl _, nofun⟩
theorem loopx (d a b : SReg) (lo fo : Bool) (len : BitVec 5) : Statement (.loopx d a b lo fo len) := by exact ⟨Nat.le_refl _, nofun⟩
theorem mfs (d : SReg) (spr : BitVec 6) : Statement (.mfs d spr) := by exact ⟨Nat.le_refl _, nofun⟩
theorem mts (spr : BitVec 6) (a : SReg) : Statement (.mts spr a) := by exact ⟨Nat.le_refl _, nofun⟩
theorem timerWrite (a : SReg) : Statement (.timerWrite a) := by exact ⟨Nat.le_refl _, nofun⟩
theorem xvalWrite (a : SReg) : Statement (.xvalWrite a) := by exact ⟨Nat.le_refl _, nofun⟩
theorem fop (op : FopKind) (t : FpTy) (d a b : SReg) : Statement (.fop op t d a b) := by exact ⟨Nat.le_refl _, nofun⟩
theorem ffma (form : FmaForm) (t : FpTy) (d a b : SReg) : Statement (.ffma form t d a b) := by exact ⟨Nat.le_refl _, nofun⟩
theorem fcmp (c : FCond) (t : FpTy) (q : PReg) (a b : SReg) : Statement (.fcmp c t q a b) := by exact ⟨Nat.le_refl _, nofun⟩
theorem fcvt (src dst : CvtTy) (m : CvtMode) (d a : SReg) : Statement (.fcvt src dst m d a) := by exact ⟨Nat.le_refl _, nofun⟩
theorem trap (imm : BitVec 20) : Statement (.trap imm) := by exact ⟨Nat.le_refl _, nofun⟩
theorem brk (imm : BitVec 20) : Statement (.brk imm) := by exact ⟨Nat.le_refl _, nofun⟩
theorem rett : Statement (.rett) := by exact ⟨Nat.le_refl _, nofun⟩
theorem rettW (a : SReg) : Statement (.rettW a) := by exact ⟨Nat.le_refl _, nofun⟩
theorem halt : Statement (.halt) := by exact ⟨Nat.le_refl _, nofun⟩
theorem phase : Statement (.phase) := by exact ⟨Nat.le_refl _, nofun⟩
theorem start (a b : SReg) : Statement (.start a b) := by exact ⟨Nat.le_refl _, nofun⟩
theorem stop (a : SReg) : Statement (.stop a) := by exact ⟨Nat.le_refl _, nofun⟩
theorem swap (d a b : SReg) (ph : Bool) : Statement (.swap d a b ph) := by exact ⟨Nat.le_refl _, nofun⟩
theorem resume (a : SReg) : Statement (.resume a) := by exact ⟨Nat.le_refl _, nofun⟩
theorem migrArm (d a : SReg) : Statement (.migrArm d a) := by exact ⟨Nat.le_refl _, nofun⟩
theorem migrFreeze : Statement (.migrFreeze) := by exact ⟨Nat.le_refl _, nofun⟩
theorem migrCommit (d a : SReg) : Statement (.migrCommit d a) := by exact ⟨Nat.le_refl _, nofun⟩
theorem migrAbort : Statement (.migrAbort) := by exact ⟨Nat.le_refl _, nofun⟩
theorem ld8 (d a : SReg) (imm : BitVec 14) : Statement (.ld8 d a imm) := by exact ⟨Nat.le_refl _, nofun⟩
theorem ld8z (d a : SReg) (imm : BitVec 14) : Statement (.ld8z d a imm) := by exact ⟨Nat.le_refl _, nofun⟩
theorem ld16 (d a : SReg) (imm : BitVec 14) : Statement (.ld16 d a imm) := by exact ⟨Nat.le_refl _, nofun⟩
theorem ld16z (d a : SReg) (imm : BitVec 14) : Statement (.ld16z d a imm) := by exact ⟨Nat.le_refl _, nofun⟩
theorem ld32 (d a : SReg) (imm : BitVec 14) : Statement (.ld32 d a imm) := by exact ⟨Nat.le_refl _, nofun⟩
theorem ld32z (d a : SReg) (imm : BitVec 14) : Statement (.ld32z d a imm) := by exact ⟨Nat.le_refl _, nofun⟩
theorem ld64 (d a : SReg) (imm : BitVec 14) : Statement (.ld64 d a imm) := by exact ⟨Nat.le_refl _, nofun⟩
theorem st8 (d a : SReg) (imm : BitVec 14) : Statement (.st8 d a imm) := by exact ⟨Nat.le_refl _, nofun⟩
theorem st16 (d a : SReg) (imm : BitVec 14) : Statement (.st16 d a imm) := by exact ⟨Nat.le_refl _, nofun⟩
theorem st32 (d a : SReg) (imm : BitVec 14) : Statement (.st32 d a imm) := by exact ⟨Nat.le_refl _, nofun⟩
theorem st64 (d a : SReg) (imm : BitVec 14) : Statement (.st64 d a imm) := by exact ⟨Nat.le_refl _, nofun⟩
theorem ldv (d : VReg) (a : SReg) (imm : BitVec 14) : Statement (.ldv d a imm) := by exact ⟨Nat.le_refl _, nofun⟩
theorem stv (d : VReg) (a : SReg) (imm : BitVec 14) : Statement (.stv d a imm) := by exact ⟨Nat.le_refl _, nofun⟩
theorem ldbit (d a b : SReg) (sx : Bool) (wm1 : BitVec 6) : Statement (.ldbit d a b sx wm1) := by exact ⟨Nat.le_refl _, nofun⟩
theorem stbit (d a b : SReg) (wm1 : BitVec 6) : Statement (.stbit d a b wm1) := by exact ⟨Nat.le_refl _, nofun⟩
theorem ldf (d a : SReg) (imm : BitVec 14) : Statement (.ldf d a imm) := by exact ⟨Nat.le_refl _, nofun⟩
theorem ldff (d a : SReg) (imm : BitVec 14) : Statement (.ldff d a imm) := by exact ⟨Nat.le_refl _, nofun⟩
theorem ste (d a : SReg) (imm : BitVec 14) : Statement (.ste d a imm) := by exact ⟨Nat.le_refl _, nofun⟩
theorem stf (d a : SReg) (imm : BitVec 14) : Statement (.stf d a imm) := by exact ⟨Nat.le_refl _, nofun⟩
theorem aswp (d a b : SReg) (w : Bool) : Statement (.aswp d a b w) := by exact ⟨Nat.le_refl _, nofun⟩
theorem acas (d a b : SReg) (w : Bool) : Statement (.acas d a b w) := by exact ⟨Nat.le_refl _, nofun⟩
theorem aadd (d a b : SReg) (w : Bool) : Statement (.aadd d a b w) := by exact ⟨Nat.le_refl _, nofun⟩
theorem alog (op : LogOp) (d a b : SReg) (w : Bool) : Statement (.alog op d a b w) := by exact ⟨Nat.le_refl _, nofun⟩
theorem aminmax (d a b : SReg) (max u w : Bool) : Statement (.aminmax d a b max u w) := by exact ⟨Nat.le_refl _, nofun⟩
theorem afadd (d a b : SReg) (bf16 : Bool) : Statement (.afadd d a b bf16) := by exact ⟨Nat.le_refl _, nofun⟩
theorem fence (s : Scope) : Statement (.fence s) := by exact ⟨Nat.le_refl _, nofun⟩
theorem waitm : Statement (.waitm) := by exact ⟨Nat.le_refl _, nofun⟩
theorem ldgv (d : VReg) (a : SReg) (b : VReg) (sz : GatherSize) (sh : BitVec 3) : Statement (.ldgv d a b sz sh) := by exact ⟨Nat.le_refl _, nofun⟩
theorem stsv (d : VReg) (a : SReg) (b : VReg) (sz : GatherSize) (sh : BitVec 3) : Statement (.stsv d a b sz sh) := by exact ⟨Nat.le_refl _, nofun⟩
theorem febit (a b : SReg) (full : Bool) : Statement (.febit a b full) := by exact ⟨Nat.le_refl _, nofun⟩
theorem sigw (d a b : SReg) (c : Cond) : Statement (.sigw d a b c) := by exact ⟨Nat.le_refl _, nofun⟩
theorem vadd (t : FpTy) (d a b : VReg) (m : Rmo) : Statement (.vadd t d a b m) := by exact ⟨Nat.le_refl _, nofun⟩
theorem vsub (t : FpTy) (d a b : VReg) (m : Rmo) : Statement (.vsub t d a b m) := by exact ⟨Nat.le_refl _, nofun⟩
theorem vmul (t : FpTy) (d a b : VReg) (m : Rmo) : Statement (.vmul t d a b m) := by exact ⟨Nat.le_refl _, nofun⟩
theorem vfma (t : FpTy) (d a b c : VReg) : Statement (.vfma t d a b c) := by exact ⟨Nat.le_refl _, nofun⟩
theorem vfms (t : FpTy) (d a b c : VReg) : Statement (.vfms t d a b c) := by exact ⟨Nat.le_refl _, nofun⟩
theorem vmin (t : FpTy) (d a b : VReg) : Statement (.vmin t d a b) := by exact ⟨Nat.le_refl _, nofun⟩
theorem vmax (t : FpTy) (d a b : VReg) : Statement (.vmax t d a b) := by exact ⟨Nat.le_refl _, nofun⟩
theorem vabsn (op : AbsOp) (t : FpTy) (d a : VReg) : Statement (.vabsn op t d a) := by exact ⟨Nat.le_refl _, nofun⟩
theorem viadd (t : IntTy) (s : SatMode) (d a b : VReg) : Statement (.viadd t s d a b) := by exact ⟨Nat.le_refl _, nofun⟩
theorem visub (t : IntTy) (s : SatMode) (d a b : VReg) : Statement (.visub t s d a b) := by exact ⟨Nat.le_refl _, nofun⟩
theorem vimul (t : IntTy) (h : HiMode) (d a b : VReg) : Statement (.vimul t h d a b) := by exact ⟨Nat.le_refl _, nofun⟩
theorem vimad (t : IntTy) (d a b c : VReg) : Statement (.vimad t d a b c) := by exact ⟨Nat.le_refl _, nofun⟩
theorem vand (d a b : VReg) (inv : Bool) : Statement (.vand d a b inv) := by exact ⟨Nat.le_refl _, nofun⟩
theorem vor (d a b : VReg) (inv : Bool) : Statement (.vor d a b inv) := by exact ⟨Nat.le_refl _, nofun⟩
theorem vxor (d a b : VReg) (inv : Bool) : Statement (.vxor d a b inv) := by exact ⟨Nat.le_refl _, nofun⟩
theorem vshl (t : IntTy) (d a : VReg) (n : ShiftAmt) : Statement (.vshl t d a n) := by exact ⟨Nat.le_refl _, nofun⟩
theorem vshr (t : IntTy) (d a : VReg) (n : ShiftAmt) : Statement (.vshr t d a n) := by exact ⟨Nat.le_refl _, nofun⟩
theorem vsar (t : IntTy) (d a : VReg) (n : ShiftAmt) : Statement (.vsar t d a n) := by exact ⟨Nat.le_refl _, nofun⟩
theorem vcmp (c : FCond) (t : FpTy) (d a b : VReg) : Statement (.vcmp c t d a b) := by exact ⟨Nat.le_refl _, nofun⟩
theorem vicmp (c : Cond) (t : IntTy) (d a b : VReg) : Statement (.vicmp c t d a b) := by exact ⟨Nat.le_refl _, nofun⟩
theorem vsel (d a b c : VReg) : Statement (.vsel d a b c) := by exact ⟨Nat.le_refl _, nofun⟩
theorem vpermb (d a b : VReg) (upper hi : Bool) : Statement (.vpermb d a b upper hi) := by exact ⟨Nat.le_refl _, nofun⟩
theorem vshuf (d a b c : VReg) : Statement (.vshuf d a b c) := by exact ⟨Nat.le_refl _, nofun⟩
theorem vslide (t : IntTy) (d a b : VReg) (n : BitVec 6) : Statement (.vslide t d a b n) := by exact ⟨Nat.le_refl _, nofun⟩
theorem vbcast (t : IntTy) (d : VReg) (src : BcastSrc) : Statement (.vbcast t d src) := by cases src <;> exact ⟨Nat.le_refl _, nofun⟩
theorem vext (t : IntTy) (d : SReg) (a : VReg) (i : LaneSel) : Statement (.vext t d a i) := by exact ⟨Nat.le_refl _, nofun⟩
theorem vins (t : IntTy) (d : VReg) (a : SReg) (i : LaneSel) : Statement (.vins t d a i) := by exact ⟨Nat.le_refl _, nofun⟩
theorem vred (op : RedOp) (t : RedTy) (d : RedDest) (a : VReg) : Statement (.vred op t d a) := by cases t <;> cases d <;> exact ⟨Nat.le_refl _, nofun⟩
theorem vsfu (fn : SfuFn) (t : FpTy) (d a : VReg) : Statement (.vsfu fn t d a) := by exact ⟨Nat.le_refl _, nofun⟩
theorem vcvt (t : FpTy) (other : Fmt) (into : Bool) (pos : BitVec 2) (sat : Bool) (m : Rmo) (d a : VReg) : Statement (.vcvt t other into pos sat m d a) := by exact ⟨Nat.le_refl _, nofun⟩
theorem vcvti (t : FpTy) (toFp u : Bool) (m : Rmo) (d a : VReg) : Statement (.vcvti t toFp u m d a) := by exact ⟨Nat.le_refl _, nofun⟩
theorem vqmx (f : Fmt) (sf : ScaleFmt) (r : QRnd) (d a : VReg) (c : SReg) : Statement (.vqmx f sf r d a c) := by exact ⟨Nat.le_refl _, nofun⟩
theorem vdqmx (t : FpTy) (f : Fmt) (sf : ScaleFmt) (pos : BitVec 2) (d a : VReg) (c : SReg) : Statement (.vdqmx t f sf pos d a c) := by exact ⟨Nat.le_refl _, nofun⟩
theorem vcmpr (k : CmprKind) (pos : Bool) (d a : VReg) (c : SReg) : Statement (.vcmpr k pos d a c) := by exact ⟨Nat.le_refl _, nofun⟩
theorem vpack (w4 : Bool) (d a : VReg) : Statement (.vpack w4 d a) := by exact ⟨Nat.le_refl _, nofun⟩
theorem vunpk (w4 : Bool) (d a : VReg) : Statement (.vunpk w4 d a) := by exact ⟨Nat.le_refl _, nofun⟩
theorem vrng (unif : Bool) (d : VReg) : Statement (.vrng unif d) := by exact ⟨Nat.le_refl _, nofun⟩
theorem vdot (f : DotTy) (d a b c : VReg) : Statement (.vdot f d a b c) := by exact ⟨Nat.le_refl _, nofun⟩
theorem vbitc (k : BitKind) (t : IntTy) (d a : VReg) : Statement (.vbitc k t d a) := by exact ⟨Nat.le_refl _, nofun⟩
theorem vsatn (t : NarrowTy) (m : NarrowMode) (d a b : VReg) : Statement (.vsatn t m d a b) := by exact ⟨Nat.le_refl _, nofun⟩
theorem vmaskq (t : IntTy) (d : MaskDest) (a : VReg) : Statement (.vmaskq t d a) := by cases d <;> exact ⟨Nat.le_refl _, nofun⟩
theorem viota (t : IntTy) (d : VReg) (a b : SReg) : Statement (.viota t d a b) := by exact ⟨Nat.le_refl _, nofun⟩
theorem vscl (t : FpTy) (sf : ScaleFmt) (pair : Bool) (m : Rmo) (d a : VReg) (c : SReg) : Statement (.vscl t sf pair m d a c) := by exact ⟨Nat.le_refl _, nofun⟩
theorem mma (m : Acc) (t : Tiles) (st : Start) : Statement (.mma m t st) := by exact ⟨Nat.le_refl _, nofun⟩
theorem mmas (m : Acc) (t : Tiles) (st : Start) : Statement (.mmas m t st) := by exact ⟨Nat.le_refl _, nofun⟩
theorem mmaz (m : Acc) (t : Tiles) (st : Start) : Statement (.mmaz m t st) := by exact ⟨Nat.le_refl _, nofun⟩
theorem mclr (m : Acc) (st : Start) : Statement (.mclr m st) := by exact ⟨Nat.le_refl _, nofun⟩
theorem mrd (m : Acc) (a b : SReg) (q : BitVec 2) (clr : Bool) (out : MemFmt) (st : Start) : Statement (.mrd m a b q clr out st) := by exact ⟨Nat.le_refl _, nofun⟩
theorem mwr (m : Acc) (a b : SReg) (q : BitVec 2) (addTo : Bool) (inp : MemFmt) (st : Start) : Statement (.mwr m a b q addTo inp st) := by exact ⟨Nat.le_refl _, nofun⟩
theorem mrdv (m : Acc) (a : SReg) (v : BitVec 5) (st : Start) : Statement (.mrdv m a v st) := by exact ⟨Nat.le_refl _, nofun⟩
theorem mscl (m : Acc) (a : SReg) (row : Bool) (st : Start) : Statement (.mscl m a row st) := by exact ⟨Nat.le_refl _, nofun⟩
theorem mtrn (m : Acc) (st : Start) : Statement (.mtrn m st) := by exact ⟨Nat.le_refl _, nofun⟩
theorem mseq (m : Acc) (t : Tiles) (z : Bool) (n : BitVec 4) (st : Start) : Statement (.mseq m t z n st) := by exact ⟨Nat.le_refl _, nofun⟩
theorem msync : Statement (.msync) := by exact ⟨Nat.le_refl _, nofun⟩
theorem cpyi (a b c : SReg) (p : Bool) (e : Eng) : Statement (.cpyi a b c p e) := by exact ⟨Nat.le_refl _, nofun⟩
theorem cpyo (a b c : SReg) (p : Bool) (e : Eng) : Statement (.cpyo a b c p e) := by exact ⟨Nat.le_refl _, nofun⟩
theorem cpyl (a b c : SReg) (e : Eng) : Statement (.cpyl a b c e) := by exact ⟨Nat.le_refl _, nofun⟩
theorem foot (a b : SReg) (wr : Bool) : Statement (.foot a b wr) := by exact ⟨Nat.le_refl _, nofun⟩
theorem twait (a : SReg) : Statement (.twait a) := by exact ⟨Nat.le_refl _, nofun⟩
theorem tany (a b : SReg) : Statement (.tany a b) := by exact ⟨Nat.le_refl _, nofun⟩
theorem tffr (a b : SReg) : Statement (.tffr a b) := by exact ⟨Nat.le_refl _, nofun⟩
theorem tclr (a : SReg) : Statement (.tclr a) := by exact ⟨Nat.le_refl _, nofun⟩
theorem tsnd (a : SReg) (ch : BitVec 8) (st : Start) : Statement (.tsnd a ch st) := by exact ⟨Nat.le_refl _, nofun⟩
theorem trcv (a : SReg) (ch : BitVec 8) (tag : Option (BitVec 6)) (st : Start) : Statement (.trcv a ch tag st) := by exact ⟨Nat.le_refl _, nofun⟩
theorem esnd (a b c : SReg) (mb : BitVec 7) (wake : Bool) (tag : BitVec 6) (st : Start) : Statement (.esnd a b c mb wake tag st) := by exact ⟨Nat.le_refl _, nofun⟩
theorem ercv (a b : SReg) (mb : BitVec 7) : Statement (.ercv a b mb) := by exact ⟨Nat.le_refl _, nofun⟩
theorem bari (a : SReg) (bar : BitVec 5) : Statement (.bari a bar) := by exact ⟨Nat.le_refl _, nofun⟩
theorem barw (a : SReg) (bar : BitVec 5) : Statement (.barw a bar) := by exact ⟨Nat.le_refl _, nofun⟩
theorem bara (b : SReg) (bar : BitVec 5) (wait : Bool) : Statement (.bara b bar wait) := by exact ⟨Nat.le_refl _, nofun⟩
theorem spawn (a b c : SReg) : Statement (.spawn a b c) := by exact ⟨Nat.le_refl _, nofun⟩
theorem quit : Statement (.quit) := by exact ⟨Nat.le_refl _, nofun⟩
theorem fork (a : SReg) : Statement (.fork a) := by exact ⟨Nat.le_refl _, nofun⟩
theorem join (a : SReg) : Statement (.join a) := by exact ⟨Nat.le_refl _, nofun⟩
theorem popd (q : PReg) : Statement (.popd q) := by exact ⟨Nat.le_refl _, nofun⟩
theorem steal (a : SReg) (q : PReg) : Statement (.steal a q) := by exact ⟨Nat.le_refl _, nofun⟩
theorem rpsh (a c : SReg) (ring : BitVec 5) : Statement (.rpsh a c ring) := by exact ⟨Nat.le_refl _, nofun⟩
theorem rpop (a b c : SReg) (ring : BitVec 5) : Statement (.rpop a b c ring) := by exact ⟨Nat.le_refl _, nofun⟩
theorem sdldCell (a b c : SReg) (e : Eng) : Statement (.sdldCell a b c e) := by exact ⟨Nat.le_refl _, nofun⟩
theorem sdldCoup (a b : SReg) (e : Eng) : Statement (.sdldCoup a b e) := by exact ⟨Nat.le_refl _, nofun⟩
theorem sdldBridge (a b : SReg) (e : Eng) : Statement (.sdldBridge a b e) := by exact ⟨Nat.le_refl _, nofun⟩
theorem sdldClear (e : Eng) : Statement (.sdldClear e) := by exact ⟨Nat.le_refl _, nofun⟩
theorem sdclpClamp (a b c : SReg) (e : Eng) : Statement (.sdclpClamp a b c e) := by exact ⟨Nat.le_refl _, nofun⟩
theorem sdclpRelease (a b c : SReg) (e : Eng) : Statement (.sdclpRelease a b c e) := by exact ⟨Nat.le_refl _, nofun⟩
theorem sdclpSet (a b c : SReg) (e : Eng) : Statement (.sdclpSet a b c e) := by exact ⟨Nat.le_refl _, nofun⟩
theorem sdswp (a b : SReg) (ent br : Bool) (e : Eng) : Statement (.sdswp a b ent br e) := by exact ⟨Nat.le_refl _, nofun⟩
theorem sdrd (a b c : SReg) (clp : Bool) (e : Eng) : Statement (.sdrd a b c clp e) := by exact ⟨Nat.le_refl _, nofun⟩
theorem sdcnt (a b c : SReg) (clr : Bool) (e : Eng) : Statement (.sdcnt a b c clr e) := by exact ⟨Nat.le_refl _, nofun⟩
theorem sdseed (a : SReg) (e : Eng) : Statement (.sdseed a e) := by exact ⟨Nat.le_refl _, nofun⟩
theorem sdseedStore (a : SReg) (e : Eng) : Statement (.sdseedStore a e) := by exact ⟨Nat.le_refl _, nofun⟩
theorem sdtbl (a : SReg) (e : Eng) : Statement (.sdtbl a e) := by exact ⟨Nat.le_refl _, nofun⟩
theorem sdbeta (a b : SReg) (e : Eng) : Statement (.sdbeta a b e) := by exact ⟨Nat.le_refl _, nofun⟩
theorem sigs (a b : SReg) (op : SigOp) (e : Eng) : Statement (.sigs a b op e) := by exact ⟨Nat.le_refl _, nofun⟩
theorem swait (a b c : SReg) (cond : Cond) : Statement (.swait a b c cond) := by exact ⟨Nat.le_refl _, nofun⟩
theorem codel (a b : SReg) (e : Eng) : Statement (.codel a b e) := by exact ⟨Nat.le_refl _, nofun⟩
theorem codei (a b : SReg) : Statement (.codei a b) := by exact ⟨Nat.le_refl _, nofun⟩
theorem bankr (a : SReg) : Statement (.bankr a) := by exact ⟨Nat.le_refl _, nofun⟩
theorem bankw (a : SReg) : Statement (.bankw a) := by exact ⟨Nat.le_refl _, nofun⟩
theorem lsnd (a c : SReg) (e : Eng) : Statement (.lsnd a c e) := by exact ⟨Nat.le_refl _, nofun⟩
theorem lrcv (a c : SReg) (e : Eng) : Statement (.lrcv a c e) := by exact ⟨Nat.le_refl _, nofun⟩
theorem lred (a c : SReg) (e : Eng) : Statement (.lred a c e) := by exact ⟨Nat.le_refl _, nofun⟩
theorem hnfy (a b : SReg) (e : Eng) : Statement (.hnfy a b e) := by exact ⟨Nat.le_refl _, nofun⟩
theorem movc (a b c : SReg) (e : Eng) : Statement (.movc a b c e) := by exact ⟨Nat.le_refl _, nofun⟩
theorem tide (a : SReg) (e : Eng) : Statement (.tide a e) := by exact ⟨Nat.le_refl _, nofun⟩
theorem tideRetide (a : SReg) : Statement (.tideRetide a) := by exact ⟨Nat.le_refl _, nofun⟩
theorem rdyqPush (a c : SReg) (p : BitVec 2) : Statement (.rdyqPush a c p) := by exact ⟨Nat.le_refl _, nofun⟩
theorem rdyqPushh (a c : SReg) (p : BitVec 2) : Statement (.rdyqPushh a c p) := by exact ⟨Nat.le_refl _, nofun⟩
theorem rdyqPop (b c : SReg) : Statement (.rdyqPop b c) := by exact ⟨Nat.le_refl _, nofun⟩
theorem rdyqCount (b : SReg) : Statement (.rdyqCount b) := by exact ⟨Nat.le_refl _, nofun⟩
theorem rdyqSpill (a c : SReg) : Statement (.rdyqSpill a c) := by exact ⟨Nat.le_refl _, nofun⟩
theorem rdyqRefill (b : SReg) : Statement (.rdyqRefill b) := by exact ⟨Nat.le_refl _, nofun⟩
theorem rdyqFlush (c : SReg) (p : BitVec 2) : Statement (.rdyqFlush c p) := by exact ⟨Nat.le_refl _, nofun⟩
theorem rdyqRpst (b : SReg) : Statement (.rdyqRpst b) := by exact ⟨Nat.le_refl _, nofun⟩
theorem send (a : SReg) (ch : BitVec 8) : Statement (.send a ch) := by exact ⟨Nat.le_refl _, nofun⟩
theorem recv (a : SReg) (ch : BitVec 8) : Statement (.recv a ch) := by exact ⟨Nat.le_refl _, nofun⟩
theorem relaxedAccessPerform (core ctx id : Nat) : Statement (.relaxedAccessPerform core ctx id) := by exact ⟨Nat.zero_le _, fun _ => rfl⟩
theorem remoteAccessPerform (pkt : Nat) : Statement (.remoteAccessPerform pkt) := by exact ⟨Nat.zero_le _, fun _ => rfl⟩
theorem remoteResponseArrival (pkt : Nat) : Statement (.remoteResponseArrival pkt) := by exact ⟨Nat.zero_le _, fun _ => rfl⟩
theorem retryResend (pkt : Nat) : Statement (.retryResend pkt) := by exact ⟨Nat.zero_le _, fun _ => rfl⟩
theorem watchSlotRetest (core slot : Nat) : Statement (.watchSlotRetest core slot) := by exact ⟨Nat.zero_le _, fun _ => rfl⟩
theorem localRetry (core ctx : Nat) : Statement (.localRetry core ctx) := by exact ⟨Nat.zero_le _, fun _ => rfl⟩
theorem felimExpiry (core ctx : Nat) : Statement (.felimExpiry core ctx) := by exact ⟨Nat.zero_le _, fun _ => rfl⟩
theorem rpopLimitExpiry (core ctx : Nat) : Statement (.rpopLimitExpiry core ctx) := by exact ⟨Nat.zero_le _, fun _ => rfl⟩
theorem matrixQueueEnter (core ctx : Nat) : Statement (.matrixQueueEnter core ctx) := by exact ⟨Nat.zero_le _, fun _ => rfl⟩
theorem matrixCommandStart (core cmd : Nat) : Statement (.matrixCommandStart core cmd) := by exact ⟨Nat.zero_le _, fun _ => rfl⟩
theorem matrixStartRefused (core cmd : Nat) : Statement (.matrixStartRefused core cmd) := by exact ⟨Nat.zero_le _, fun _ => rfl⟩
theorem mseqStepStart (core cmd : Nat) : Statement (.mseqStepStart core cmd) := by exact ⟨Nat.zero_le _, fun _ => rfl⟩
theorem matrixCommandComplete (core cmd : Nat) : Statement (.matrixCommandComplete core cmd) := by exact ⟨Nat.zero_le _, fun _ => rfl⟩
theorem engineQueueEnter (core ctx : Nat) : Statement (.engineQueueEnter core ctx) := by exact ⟨Nat.zero_le _, fun _ => rfl⟩
theorem engineCommandStart (core cmd : Nat) : Statement (.engineCommandStart core cmd) := by exact ⟨Nat.zero_le _, fun _ => rfl⟩
theorem engineStartRefused (core cmd : Nat) : Statement (.engineStartRefused core cmd) := by exact ⟨Nat.zero_le _, fun _ => rfl⟩
theorem copyServiceRequest (copy : Nat) : Statement (.copyServiceRequest copy) := by exact ⟨Nat.zero_le _, fun _ => rfl⟩
theorem copyTranslate (quay : Nat) : Statement (.copyTranslate quay) := by exact ⟨Nat.zero_le _, fun _ => rfl⟩
theorem translationWalk (id : Nat) : Statement (.translationWalk id) := by exact ⟨Nat.zero_le _, fun _ => rfl⟩
theorem pieceServe (quay : Nat) : Statement (.pieceServe quay) := by exact ⟨Nat.zero_le _, fun _ => rfl⟩
theorem stagingWriteback (quay : Nat) : Statement (.stagingWriteback quay) := by exact ⟨Nat.zero_le _, fun _ => rfl⟩
theorem channelPairRound (quay : Nat) : Statement (.channelPairRound quay) := by exact ⟨Nat.zero_le _, fun _ => rfl⟩
theorem copyWordWrite (copy : Nat) : Statement (.copyWordWrite copy) := by exact ⟨Nat.zero_le _, fun _ => rfl⟩
theorem copyComplete (copy : Nat) : Statement (.copyComplete copy) := by exact ⟨Nat.zero_le _, fun _ => rfl⟩
theorem copyFault (copy : Nat) : Statement (.copyFault copy) := by exact ⟨Nat.zero_le _, fun _ => rfl⟩
theorem tidalFlitHop (core : Nat) : Statement (.tidalFlitHop core) := by exact ⟨Nat.zero_le _, fun _ => rfl⟩
theorem tidalFlitDelivery (core : Nat) : Statement (.tidalFlitDelivery core) := by exact ⟨Nat.zero_le _, fun _ => rfl⟩
theorem strayFlitDiscard (core input : Nat) : Statement (.strayFlitDiscard core input) := by exact ⟨Nat.zero_le _, fun _ => rfl⟩
theorem esndMessageArrival (pkt : Nat) : Statement (.esndMessageArrival pkt) := by exact ⟨Nat.zero_le _, fun _ => rfl⟩
theorem ercvDelivery (core ctx : Nat) : Statement (.ercvDelivery core ctx) := by exact ⟨Nat.zero_le _, fun _ => rfl⟩
theorem barrierRequest (pkt : Nat) : Statement (.barrierRequest pkt) := by exact ⟨Nat.zero_le _, fun _ => rfl⟩
theorem ringRemoteOp (pkt : Nat) : Statement (.ringRemoteOp pkt) := by exact ⟨Nat.zero_le _, fun _ => rfl⟩
theorem signalWordPerform (core cmd : Nat) : Statement (.signalWordPerform core cmd) := by exact ⟨Nat.zero_le _, fun _ => rfl⟩
theorem linkFlitSend (port : Nat) : Statement (.linkFlitSend port) := by exact ⟨Nat.zero_le _, fun _ => rfl⟩
theorem linkFlitArrival (port ch : Nat) (data : List (BitVec 8)) : Statement (.linkFlitArrival port ch data) := by exact ⟨Nat.zero_le _, fun _ => rfl⟩
theorem linkCreditReturn (port ch : Nat) : Statement (.linkCreditReturn port ch) := by exact ⟨Nat.zero_le _, fun _ => rfl⟩
theorem bankHandover (core : Nat) : Statement (.bankHandover core) := by exact ⟨Nat.zero_le _, fun _ => rfl⟩
theorem stealRequest (pkt : Nat) : Statement (.stealRequest pkt) := by exact ⟨Nat.zero_le _, fun _ => rfl⟩
theorem stealResponse (pkt : Nat) : Statement (.stealResponse pkt) := by exact ⟨Nat.zero_le _, fun _ => rfl⟩
theorem spawnRequest (pkt : Nat) : Statement (.spawnRequest pkt) := by exact ⟨Nat.zero_le _, fun _ => rfl⟩
theorem remoteJoin (pkt : Nat) : Statement (.remoteJoin pkt) := by exact ⟨Nat.zero_le _, fun _ => rfl⟩
theorem swapComplete (core ctx : Nat) : Statement (.swapComplete core ctx) := by exact ⟨Nat.zero_le _, fun _ => rfl⟩
theorem resumeComplete (core entry : Nat) : Statement (.resumeComplete core entry) := by exact ⟨Nat.zero_le _, fun _ => rfl⟩
theorem movcComplete (core cmd : Nat) : Statement (.movcComplete core cmd) := by exact ⟨Nat.zero_le _, fun _ => rfl⟩
theorem haltDrainComplete (core ctx : Nat) : Statement (.haltDrainComplete core ctx) := by exact ⟨Nat.zero_le _, fun _ => rfl⟩
theorem workerTrapTaken (core ctx : Nat) : Statement (.workerTrapTaken core ctx) := by exact ⟨Nat.zero_le _, fun _ => rfl⟩
theorem c0TrapEntry (core : Nat) : Statement (.c0TrapEntry core) := by exact ⟨Nat.zero_le _, fun _ => rfl⟩
theorem c0TrapToLighthouse (core : Nat) : Statement (.c0TrapToLighthouse core) := by exact ⟨Nat.zero_le _, fun _ => rfl⟩
theorem c0TimerExpiry (core : Nat) : Statement (.c0TimerExpiry core) := by exact ⟨Nat.zero_le _, fun _ => rfl⟩
theorem uncorrectableLsError (core ctx addr : Nat) : Statement (.uncorrectableLsError core ctx addr) := by exact ⟨Nat.zero_le _, fun _ => rfl⟩
theorem retideInstant (core : Nat) : Statement (.retideInstant core) := by exact ⟨Nat.zero_le _, fun _ => rfl⟩
theorem codelLineWrite (copy : Nat) : Statement (.codelLineWrite copy) := by exact ⟨Nat.zero_le _, fun _ => rfl⟩
theorem sdldRecordApply (cove : Nat) : Statement (.sdldRecordApply cove) := by exact ⟨Nat.zero_le _, fun _ => rfl⟩
theorem spindriftSweep (cove : Nat) : Statement (.spindriftSweep cove) := by exact ⟨Nat.zero_le _, fun _ => rfl⟩
theorem spindriftCommandComplete (cove cmd : Nat) : Statement (.spindriftCommandComplete cove cmd) := by exact ⟨Nat.zero_le _, fun _ => rfl⟩
theorem migrationStateCopy (core : Nat) : Statement (.migrationStateCopy core) := by exact ⟨Nat.zero_le _, fun _ => rfl⟩
theorem launchPacket (q : Nat) : Statement (.launchPacket q) := by exact ⟨Nat.zero_le _, fun _ => rfl⟩
theorem launchResourceGrant (launch : Nat) : Statement (.launchResourceGrant launch) := by exact ⟨Nat.zero_le _, fun _ => rfl⟩
theorem hnfyNoticeAccept (pkt : Nat) : Statement (.hnfyNoticeAccept pkt) := by exact ⟨Nat.zero_le _, fun _ => rfl⟩
theorem launchLatchWrite (launch : Nat) : Statement (.launchLatchWrite launch) := by exact ⟨Nat.zero_le _, fun _ => rfl⟩
theorem launchDeadlineExpiry (launch : Nat) : Statement (.launchDeadlineExpiry launch) := by exact ⟨Nat.zero_le _, fun _ => rfl⟩
theorem launchInstant (launch : Nat) : Statement (.launchInstant launch) := by exact ⟨Nat.zero_le _, fun _ => rfl⟩
theorem slackWaterSample : Statement (.slackWaterSample) := by exact ⟨Nat.zero_le _, fun _ => rfl⟩
theorem barrierAnd (q : Nat) : Statement (.barrierAnd q) := by exact ⟨Nat.zero_le _, fun _ => rfl⟩
theorem barrierAndRecheck : Statement (.barrierAndRecheck) := by exact ⟨Nat.zero_le _, fun _ => rfl⟩
theorem signalPacket (q : Nat) : Statement (.signalPacket q) := by exact ⟨Nat.zero_le _, fun _ => rfl⟩
theorem armPacket (q : Nat) : Statement (.armPacket q) := by exact ⟨Nat.zero_le _, fun _ => rfl⟩
theorem disarmPacket (q : Nat) : Statement (.disarmPacket q) := by exact ⟨Nat.zero_le _, fun _ => rfl⟩
theorem resetqPacket (q : Nat) : Statement (.resetqPacket q) := by exact ⟨Nat.zero_le _, fun _ => rfl⟩
theorem ebbWheelTick : Statement (.ebbWheelTick) := by exact ⟨Nat.zero_le _, fun _ => rfl⟩
theorem queueNotify (port off : Nat) (data : List (BitVec 8)) : Statement (.queueNotify port off data) := by exact ⟨Nat.zero_le _, fun _ => rfl⟩
theorem peerWrite (port : Nat) (addr : BitVec 64) (data : List (BitVec 8)) : Statement (.peerWrite port addr data) := by exact ⟨Nat.zero_le _, fun _ => rfl⟩
theorem peerRead (port : Nat) (addr : BitVec 64) (bytes : Nat) : Statement (.peerRead port addr bytes) := by exact ⟨Nat.zero_le _, fun _ => rfl⟩
theorem queueCreate (q : Nat) : Statement (.queueCreate q) := by exact ⟨Nat.zero_le _, fun _ => rfl⟩
theorem queueReset (q : Nat) : Statement (.queueReset q) := by exact ⟨Nat.zero_le _, fun _ => rfl⟩
theorem resetAcknowledge (q core : Nat) : Statement (.resetAcknowledge q core) := by exact ⟨Nat.zero_le _, fun _ => rfl⟩
theorem queueDestroy (q : Nat) : Statement (.queueDestroy q) := by exact ⟨Nat.zero_le _, fun _ => rfl⟩
theorem wridxWrite (q : Nat) (v : BitVec 32) : Statement (.wridxWrite q v) := by exact ⟨Nat.zero_le _, fun _ => rfl⟩
theorem queueKeyWrite (q i : Nat) (v : BitVec 64) : Statement (.queueKeyWrite q i v) := by exact ⟨Nat.zero_le _, fun _ => rfl⟩
theorem coreControlRestartEpc (mode : HartMode) (core : Nat) : Statement (.coreControlRestartEpc mode core) := by exact ⟨Nat.zero_le _, fun _ => rfl⟩
theorem coreControlRestartData (mode : HartMode) (core : Nat) : Statement (.coreControlRestartData mode core) := by exact ⟨Nat.zero_le _, fun _ => rfl⟩
theorem coreControlSetDeleg (mode : HartMode) (core : Nat) : Statement (.coreControlSetDeleg mode core) := by exact ⟨Nat.zero_le _, fun _ => rfl⟩
theorem coreControlMigration (mode : HartMode) (core : Nat) : Statement (.coreControlMigration mode core) := by exact ⟨Nat.zero_le _, fun _ => rfl⟩
theorem shootdownGo : Statement (.shootdownGo) := by exact ⟨Nat.zero_le _, fun _ => rfl⟩
theorem shootdownComplete : Statement (.shootdownComplete) := by exact ⟨Nat.zero_le _, fun _ => rfl⟩
theorem hubRegisterWrite (mode : HartMode) (off : Nat) (v : BitVec 64) : Statement (.hubRegisterWrite mode off v) := by exact ⟨Nat.zero_le _, fun _ => rfl⟩
theorem dieParkRequest (park : BitVec 4) : Statement (.dieParkRequest park) := by exact ⟨Nat.zero_le _, fun _ => rfl⟩
theorem diePark (die : Nat) : Statement (.diePark die) := by exact ⟨Nat.zero_le _, fun _ => rfl⟩
theorem dieUnpark (die : Nat) : Statement (.dieUnpark die) := by exact ⟨Nat.zero_le _, fun _ => rfl⟩
theorem clockStepRequest (next : BitVec 2) : Statement (.clockStepRequest next) := by exact ⟨Nat.zero_le _, fun _ => rfl⟩
theorem heartbeat (hart : Nat) (v : BitVec 64) : Statement (.heartbeat hart v) := by exact ⟨Nat.zero_le _, fun _ => rfl⟩
theorem watchFailure (watch : Nat) : Statement (.watchFailure watch) := by exact ⟨Nat.zero_le _, fun _ => rfl⟩
theorem packageReset : Statement (.packageReset) := by exact ⟨Nat.zero_le _, fun _ => rfl⟩
theorem watchBoot (watch : Nat) (slot0 slot1 : List (BitVec 8)) : Statement (.watchBoot watch slot0 slot1) := by exact ⟨Nat.zero_le _, fun _ => rfl⟩
theorem linkTraining (k : Nat) (lats : List (BitVec 12)) (align : Option Nat) : Statement (.linkTraining k lats align) := by exact ⟨Nat.zero_le _, fun _ => rfl⟩
theorem linkFailure (k : Nat) : Statement (.linkFailure k) := by exact ⟨Nat.zero_le _, fun _ => rfl⟩
theorem thermalSample (temps : List (Nat × BitVec 8)) : Statement (.thermalSample temps) := by exact ⟨Nat.zero_le _, fun _ => rfl⟩
theorem degradedCoreDetect (core : Nat) : Statement (.degradedCoreDetect core) := by exact ⟨Nat.zero_le _, fun _ => rfl⟩
theorem attestationReport (nonce : List (BitVec 8)) : Statement (.attestationReport nonce) := by exact ⟨Nat.zero_le _, fun _ => rfl⟩
theorem debugToken (token : List (BitVec 8)) : Statement (.debugToken token) := by exact ⟨Nat.zero_le _, fun _ => rfl⟩
theorem ownerKeyFuse (hash : List (BitVec 8)) : Statement (.ownerKeyFuse hash) := by exact ⟨Nat.zero_le _, fun _ => rfl⟩
theorem tenantLock : Statement (.tenantLock) := by exact ⟨Nat.zero_le _, fun _ => rfl⟩
theorem tenantUnlock : Statement (.tenantUnlock) := by exact ⟨Nat.zero_le _, fun _ => rfl⟩
theorem cliffstackScrub (pa : Nat) : Statement (.cliffstackScrub pa) := by exact ⟨Nat.zero_le _, fun _ => rfl⟩
theorem logDrain (core : Nat) : Statement (.logDrain core) := by exact ⟨Nat.zero_le _, fun _ => rfl⟩
theorem hubSnapshot (core : Nat) : Statement (.hubSnapshot core) := by exact ⟨Nat.zero_le _, fun _ => rfl⟩
theorem replayReceive (core : Nat) : Statement (.replayReceive core) := by exact ⟨Nat.zero_le _, fun _ => rfl⟩
theorem mtimecmpMatch (hart : Nat) : Statement (.mtimecmpMatch hart) := by exact ⟨Nat.zero_le _, fun _ => rfl⟩
theorem lighthouseLoadStore (hart : Nat) (mode : HartMode) (pa : Nat) (op : HartOp) : Statement (.lighthouseLoadStore hart mode pa op) := by exact ⟨Nat.zero_le _, fun _ => rfl⟩
theorem portAccess (core : Nat) (op : PortOp) : Statement (.portAccess core op) := by exact ⟨Nat.zero_le _, fun _ => rfl⟩
theorem queueError (q : Nat) (err : BitVec 8) : Statement (.queueError q err) := by exact ⟨Nat.zero_le _, fun _ => rfl⟩

end Sys2Proof.Laws.Encoding
end

