-- ==== Sys2Proof/Tests/Slice0.lean ====
section
/-! SUPPORT. Tests: ill-formed terms, words written out from the encoding tables, one step of small states, and for every statement with hypotheses states and operands that meet them. -/
namespace Sys2Proof.Tests
set_option Elab.async false
open Sys2Proof Sys2Proof.Machine Sys2Proof.Claims

/-! ## WellFormed: an ill-formed term for each check -/

/-- One term for each check of a field, which the check refuses. -/
theorem test_wellFormed_fields :
    (Instr.wf (.shi 1 2 .sll true 32)) = false ∧
    (Instr.wf (.bfx 1 2 false 63 1)) = false ∧
    (Instr.wf (.bfi 1 2 0x20 0x20)) = false ∧
    (Instr.wf (.adda 1 2 3 6)) = false ∧
    (Instr.wf (.mfs 1 0x05)) = false ∧
    (Instr.wf (.mts 0x04 1)) = false ∧
    (Instr.wf (.fop .sqrt .f32 1 2 3)) = false ∧
    (Instr.wf (.fcvt .f32 .f32 .fcr 1 2)) = false ∧
    (Instr.wf (.fcvt .s32 .n64 .fcr 1 2)) = false ∧
    (Instr.wf (.ldgv 1 2 3 .n32 5)) = false ∧
    (Instr.wf (.stsv 1 2 3 .n16 5)) = false ∧
    (Instr.wf (.vshl .i16 1 2 (.imm 16))) = false ∧
    (Instr.wf (.vshr .i8 1 2 (.imm 8))) = false ∧
    (Instr.wf (.vsar .i32 1 2 (.imm 32))) = false ∧
    (Instr.wf (.vslide .i8 1 2 3 33)) = false ∧
    (Instr.wf (.vbcast .i64 1 (.lane 2 4))) = false ∧
    (Instr.wf (.vext .i32 1 2 (.imm 8))) = false ∧
    (Instr.wf (.vins .i16 1 2 (.imm 16))) = false ∧
    (Instr.wf (.vred .add (.int .i32 true) (.vec 1) 2)) = false ∧
    (Instr.wf (.vcvt .bf16 .bf16 false 0 false .fcr 1 2)) = false ∧
    (Instr.wf (.vcvt .f16 .bf16 false 0 false .fcr 1 2)) = false ∧
    (Instr.wf (.vcvt .bf16 .e4m3 false 2 false .fcr 1 2)) = false ∧
    (Instr.wf (.vcvt .f32 .e3m2 false 0 true .fcr 1 2)) = false ∧
    (Instr.wf (.vcvt .f32 .e4m3 true 0 false .rne 1 2)) = false ∧
    (Instr.wf (.vqmx .bf16 .e8m0 .fcr 1 0 3)) = false ∧
    (Instr.wf (.vqmx .e4m3 .e8m0 .fcr 1 29 3)) = false ∧
    (Instr.wf (.vdqmx .f32 .fp16 .e8m0 0 1 2 3)) = false ∧
    (Instr.wf (.vdqmx .bf16 .e4m3 .e8m0 2 1 2 3)) = false ∧
    (Instr.wf (.mma 0 ⟨.bf16, .fp16, 1, 2, 0, .e8m0⟩ ⟨false, 0⟩)) = false ∧
    (Instr.wf (.mma 0 ⟨.bf16, .bf16, 1, 2, 3, .e8m0⟩ ⟨false, 0⟩)) = false ∧
    (Instr.wf (.mma 0 ⟨.fp16, .fp16, 1, 2, 0, .e8m12⟩ ⟨false, 0⟩)) = false ∧
    (Instr.wf (.mmas 0 ⟨.bf16, .bf16, 1, 2, 0, .e8m0⟩ ⟨false, 0⟩)) = false ∧
    (Instr.wf (.mmaz 0 ⟨.mxint8, .e4m3, 1, 2, 3, .e8m0⟩ ⟨false, 0⟩)) = false ∧
    (Instr.wf (.mseq 0 ⟨.bf16, .fp16, 1, 2, 0, .e8m0⟩ false 0 ⟨false, 0⟩)) = false := ⟨rfl, rfl, rfl, rfl, rfl, rfl, rfl, rfl, rfl, rfl, rfl, rfl, rfl, rfl, rfl, rfl, rfl, rfl, rfl, rfl, rfl, rfl, rfl, rfl, rfl, rfl, rfl, rfl, rfl, rfl, rfl, rfl, rfl, rfl⟩

/-- With F = 0 an OFFSET that is not zero is refused in every operation that has a start (R51). -/
theorem test_wellFormed_starts :
    (Instr.wf (.mma 0 ⟨.e4m3, .e4m3, 1, 2, 3, .e8m0⟩ ⟨false, 1⟩)) = false ∧
    (Instr.wf (.mmas 0 ⟨.e4m3, .e4m3, 1, 2, 3, .e8m0⟩ ⟨false, 1⟩)) = false ∧
    (Instr.wf (.mmaz 0 ⟨.e4m3, .e4m3, 1, 2, 3, .e8m0⟩ ⟨false, 1⟩)) = false ∧
    (Instr.wf (.mclr 0 ⟨false, 1⟩)) = false ∧
    (Instr.wf (.mrd 0 1 2 0 false .f32 ⟨false, 1⟩)) = false ∧
    (Instr.wf (.mwr 0 1 2 0 false .f32 ⟨false, 1⟩)) = false ∧
    (Instr.wf (.mrdv 0 1 2 ⟨false, 1⟩)) = false ∧
    (Instr.wf (.mscl 0 1 false ⟨false, 1⟩)) = false ∧
    (Instr.wf (.mtrn 0 ⟨false, 1⟩)) = false ∧
    (Instr.wf (.mseq 0 ⟨.e4m3, .e4m3, 1, 2, 3, .e8m0⟩ false 0 ⟨false, 1⟩)) = false ∧
    (Instr.wf (.cpyi 1 2 3 false ⟨0, none, ⟨false, 1⟩⟩)) = false ∧
    (Instr.wf (.cpyo 1 2 3 false ⟨0, none, ⟨false, 1⟩⟩)) = false ∧
    (Instr.wf (.cpyl 1 2 3 ⟨0, none, ⟨false, 1⟩⟩)) = false ∧
    (Instr.wf (.tsnd 1 2 ⟨false, 1⟩)) = false ∧
    (Instr.wf (.trcv 1 2 none ⟨false, 1⟩)) = false ∧
    (Instr.wf (.esnd 1 2 3 4 false 5 ⟨false, 1⟩)) = false ∧
    (Instr.wf (.sdldCell 1 2 3 ⟨0, none, ⟨false, 1⟩⟩)) = false ∧
    (Instr.wf (.sdldCoup 1 2 ⟨0, none, ⟨false, 1⟩⟩)) = false ∧
    (Instr.wf (.sdldBridge 1 2 ⟨0, none, ⟨false, 1⟩⟩)) = false ∧
    (Instr.wf (.sdldClear ⟨0, none, ⟨false, 1⟩⟩)) = false ∧
    (Instr.wf (.sdclpClamp 1 2 3 ⟨0, none, ⟨false, 1⟩⟩)) = false ∧
    (Instr.wf (.sdclpRelease 1 2 3 ⟨0, none, ⟨false, 1⟩⟩)) = false ∧
    (Instr.wf (.sdclpSet 1 2 3 ⟨0, none, ⟨false, 1⟩⟩)) = false ∧
    (Instr.wf (.sdswp 1 2 false false ⟨0, none, ⟨false, 1⟩⟩)) = false ∧
    (Instr.wf (.sdrd 1 2 3 false ⟨0, none, ⟨false, 1⟩⟩)) = false ∧
    (Instr.wf (.sdcnt 1 2 3 false ⟨0, none, ⟨false, 1⟩⟩)) = false ∧
    (Instr.wf (.sdseed 1 ⟨0, none, ⟨false, 1⟩⟩)) = false ∧
    (Instr.wf (.sdseedStore 1 ⟨0, none, ⟨false, 1⟩⟩)) = false ∧
    (Instr.wf (.sdtbl 1 ⟨0, none, ⟨false, 1⟩⟩)) = false ∧
    (Instr.wf (.sdbeta 1 2 ⟨0, none, ⟨false, 1⟩⟩)) = false ∧
    (Instr.wf (.sigs 1 2 .set ⟨0, none, ⟨false, 1⟩⟩)) = false ∧
    (Instr.wf (.codel 1 2 ⟨0, none, ⟨false, 1⟩⟩)) = false ∧
    (Instr.wf (.lsnd 1 2 ⟨0, none, ⟨false, 1⟩⟩)) = false ∧
    (Instr.wf (.lrcv 1 2 ⟨0, none, ⟨false, 1⟩⟩)) = false ∧
    (Instr.wf (.lred 1 2 ⟨0, none, ⟨false, 1⟩⟩)) = false ∧
    (Instr.wf (.hnfy 1 2 ⟨0, none, ⟨false, 1⟩⟩)) = false ∧
    (Instr.wf (.movc 1 2 3 ⟨0, none, ⟨false, 1⟩⟩)) = false ∧
    (Instr.wf (.tide 1 ⟨0, none, ⟨false, 1⟩⟩)) = false := ⟨rfl, rfl, rfl, rfl, rfl, rfl, rfl, rfl, rfl, rfl, rfl, rfl, rfl, rfl, rfl, rfl, rfl, rfl, rfl, rfl, rfl, rfl, rfl, rfl, rfl, rfl, rfl, rfl, rfl, rfl, rfl, rfl, rfl, rfl, rfl, rfl, rfl, rfl⟩

/-- And well-formed terms at the limits of the same checks. -/
theorem test_wellFormed_admits :
    Instr.wf (.shi 1 2 .sll true 31) = true ∧ Instr.wf (.bfx 1 2 false 62 1) = true ∧ Instr.wf (.adda 1 2 3 5) = true ∧
    Instr.wf (.vslide .i8 1 2 3 32) = true ∧ Instr.wf (.vqmx .e4m3 .e8m0 .fcr 1 28 3) = true ∧
    Instr.wf (.mma 0 ⟨.fp16, .fp16, 1, 2, 0, .e8m0⟩ ⟨true, 1⟩) = true := ⟨rfl, rfl, rfl, rfl, rfl, rfl⟩

/-! ## Decoding: words written out from the encoding tables, not from the encoder -/

/-- S-slot words written out from R47, R55, R98 to R128 and R261 decode to their operations. -/
theorem test_decode_s0 :
    decodeS 0x0458C701 = .ok (.add 5 35 7 true) ∧
    decodeS 0x0858C700 = .ok (.sub 5 35 7 false) ∧
    decodeS 0x0C58C700 = .ok (.and 5 35 7) ∧
    decodeS 0x1058C700 = .ok (.or 5 35 7) ∧
    decodeS 0x1458C700 = .ok (.xor 5 35 7) ∧
    decodeS 0x1858C701 = .ok (.sll 5 35 7 true) ∧
    decodeS 0x1C58C700 = .ok (.srl 5 35 7 false) ∧
    decodeS 0x2058C701 = .ok (.sra 5 35 7 true) ∧
    decodeS 0x2458C701 = .ok (.mul 5 35 7 true) ∧
    decodeS 0x2858C702 = .ok (.mulh 5 35 7 .sn) ∧
    decodeS 0x2C58C703 = .ok (.div 5 35 7 true true) ∧
    decodeS 0x3058C702 = .ok (.rem 5 35 7 false true) ∧
    decodeS 0x3458C701 = .ok (.minmax 5 35 7 true false) ∧
    decodeS 0x3838C706 = .ok (.cmp 3 35 7 .tst) ∧
    decodeS 0x3C58C70D = .ok (.sel 5 35 7 5 true) ∧
    decodeS 0x40517FF8 = .ok (.addi 5 5 0x3FF8) ∧
    decodeS 0x4458D234 = .ok (.andi 5 35 0x1234) ∧
    decodeS 0x4858E345 = .ok (.ori 5 35 0x2345) := ⟨rfl, rfl, rfl, rfl, rfl, rfl, rfl, rfl, rfl, rfl, rfl, rfl, rfl, rfl, rfl, rfl, rfl, rfl⟩

/-- S-slot words written out from R47, R55, R98 to R128 and R261 decode to their operations. -/
theorem test_decode_s1 :
    decodeS 0x4C58FFFF = .ok (.xori 5 35 0x3FFF) ∧
    decodeS 0x5058C1DF = .ok (.shi 5 35 .ror true 31) ∧
    decodeS 0x54512345 = .ok (.lui 5 0x12345) ∧
    decodeS 0x5848E001 = .ok (.cmpi 4 35 0x2001) ∧
    decodeS 0x5C58D1C9 = .ok (.bfx 5 35 true 7 9) ∧
    decodeS 0x6058C7E0 = .ok (.bfi 5 35 31 32) ∧
    decodeS 0x6458C002 = .ok (.bitc 5 35 .ctz) ∧
    decodeS 0x6858C705 = .ok (.adda 5 35 7 5) ∧
    decodeS 0x6C0FFFF6 = .ok (.br 0xFFFF6) ∧
    decodeS 0x70180000 = .ok (.jal 1 0x80000) ∧
    decodeS 0x74140003 = .ok (.jalr 1 16 3) ∧
    decodeS 0x78C20402 = .ok (.loop 12 8 8 false false 2) ∧
    decodeS 0x7CC2095F = .ok (.loopx 12 8 9 true false 31) ∧
    decodeS 0x80500004 = .ok (.mfs 5 4) ∧
    decodeS 0x8404000A = .ok (.mts 0x0A 16) ∧
    decodeS 0x84040015 = .ok (.timerWrite 16) ∧
    decodeS 0x84040021 = .ok (.xvalWrite 16) ∧
    decodeS 0x8858C734 = .ok (.fop .div .bf16 5 35 7) := ⟨rfl, rfl, rfl, rfl, rfl, rfl, rfl, rfl, rfl, rfl, rfl, rfl, rfl, rfl, rfl, rfl, rfl, rfl⟩

/-- S-slot words written out from R47, R55, R98 to R128 and R261 decode to their operations. -/
theorem test_decode_s2 :
    decodeS 0x8C58C728 = .ok (.ffma .nma .f16 5 35 7) ∧
    decodeS 0x9068C730 = .ok (.fcmp .le .f32 6 35 7) ∧
    decodeS 0x9458C00D = .ok (.fcvt .f32 .s32 .rtz 5 35) ∧
    decodeS 0x980ABCDE = .ok (.trap 0xABCDE) ∧
    decodeS 0x9C000000 = .ok (.rett) ∧
    decodeS 0x9C08C001 = .ok (.rettW 35) ∧
    decodeS 0xA0000000 = .ok (.halt) ∧
    decodeS 0xA4000000 = .ok (.phase) ∧
    decodeS 0xA808C700 = .ok (.start 35 7) ∧
    decodeS 0xAC08C000 = .ok (.stop 35) ∧
    decodeS 0xB058C701 = .ok (.swap 5 35 7 true) ∧
    decodeS 0xB408C000 = .ok (.resume 35) ∧
    decodeS 0xB858C000 = .ok (.migrArm 5 35) ∧
    decodeS 0xB8000001 = .ok (.migrFreeze) ∧
    decodeS 0xB858C002 = .ok (.migrCommit 5 35) ∧
    decodeS 0xB8000003 = .ok (.migrAbort) ∧
    decodeS 0xBC000005 = .ok (.brk 5) := ⟨rfl, rfl, rfl, rfl, rfl, rfl, rfl, rfl, rfl, rfl, rfl, rfl, rfl, rfl, rfl, rfl, rfl⟩

/-- L-slot words written out from R47, R56 and R129 to R151 decode to their operations. -/
theorem test_decode_l0 :
    decodeL 0x0458E000 = .ok (.ld8 5 35 0x2000) ∧
    decodeL 0x0858E001 = .ok (.ld8z 5 35 0x2001) ∧
    decodeL 0x0C58E002 = .ok (.ld16 5 35 0x2002) ∧
    decodeL 0x1058E003 = .ok (.ld16z 5 35 0x2003) ∧
    decodeL 0x1458E004 = .ok (.ld32 5 35 0x2004) ∧
    decodeL 0x1858E005 = .ok (.ld32z 5 35 0x2005) ∧
    decodeL 0x1C58E006 = .ok (.ld64 5 35 0x2006) ∧
    decodeL 0x2058E007 = .ok (.st8 5 35 0x2007) ∧
    decodeL 0x2458E008 = .ok (.st16 5 35 0x2008) ∧
    decodeL 0x2858E009 = .ok (.st32 5 35 0x2009) ∧
    decodeL 0x2C58E00A = .ok (.st64 5 35 0x200a) ∧
    decodeL 0x3058E00B = .ok (.ldv 5 35 0x200b) ∧
    decodeL 0x3458E00C = .ok (.stv 5 35 0x200c) ∧
    decodeL 0x3851874B = .ok (.ldbit 5 6 7 true 11) ∧
    decodeL 0x3C58C73F = .ok (.stbit 5 35 7 63) ∧
    decodeL 0x4058C008 = .ok (.ldf 5 35 8) ∧
    decodeL 0x4458C010 = .ok (.ldff 5 35 16) ∧
    decodeL 0x4858C018 = .ok (.ste 5 35 24) := ⟨rfl, rfl, rfl, rfl, rfl, rfl, rfl, rfl, rfl, rfl, rfl, rfl, rfl, rfl, rfl, rfl, rfl, rfl⟩

/-- L-slot words written out from R47, R56 and R129 to R151 decode to their operations. -/
theorem test_decode_l1 :
    decodeL 0x4C58C020 = .ok (.stf 5 35 32) ∧
    decodeL 0x5058C701 = .ok (.aswp 5 35 7 true) ∧
    decodeL 0x5458C700 = .ok (.acas 5 35 7 false) ∧
    decodeL 0x5858C701 = .ok (.aadd 5 35 7 true) ∧
    decodeL 0x5C58C709 = .ok (.alog .xor 5 35 7 true) ∧
    decodeL 0x6058C704 = .ok (.aminmax 5 35 7 true false false) ∧
    decodeL 0x6458C701 = .ok (.afadd 5 35 7 true) ∧
    decodeL 0x68000004 = .ok (.fence .pkg) ∧
    decodeL 0x6C000000 = .ok (.waitm) ∧
    decodeL 0x7058E811 = .ok (.ldgv 5 35 40 .n64 4) ∧
    decodeL 0x7458E806 = .ok (.stsv 5 35 40 .n16 1) ∧
    decodeL 0x7808C701 = .ok (.febit 35 7 true) ∧
    decodeL 0x7C58C704 = .ok (.sigw 5 35 7 .ltu) := ⟨rfl, rfl, rfl, rfl, rfl, rfl, rfl, rfl, rfl, rfl, rfl, rfl, rfl⟩

/-- V-slot words written out from R48, R57, R154 to R194 decode to their operations. -/
theorem test_decode_v0 :
    decodeV 0x040E1145 = .ok (.vadd .f32 3 33 5 .sr) ∧
    decodeV 0x090E1141 = .ok (.vsub .bf16 3 33 5 .rne) ∧
    decodeV 0x0E0E1144 = .ok (.vmul .f16 3 33 5 .rup) ∧
    decodeV 0x100E1166 = .ok (.vfma .f32 3 33 5 38) ∧
    decodeV 0x150E1166 = .ok (.vfms .bf16 3 33 5 38) ∧
    decodeV 0x1A0E1140 = .ok (.vmin .f16 3 33 5) ∧
    decodeV 0x1C0E1140 = .ok (.vmax .f32 3 33 5) ∧
    decodeV 0x200E1002 = .ok (.vabsn .nabs .f32 3 33) ∧
    decodeV 0x250E1141 = .ok (.viadd .i16 .signed 3 33 5) ∧
    decodeV 0x2A0E1143 = .ok (.visub .i8 .natural 3 33 5) ∧
    decodeV 0x2F0E1142 = .ok (.vimul .i64 .hiNatural 3 33 5) ∧
    decodeV 0x300E1166 = .ok (.vimad .i32 3 33 5 38) ∧
    decodeV 0x340E1141 = .ok (.vand 3 33 5 true) ∧
    decodeV 0x380E1140 = .ok (.vor 3 33 5 false) ∧
    decodeV 0x3C0E1141 = .ok (.vxor 3 33 5 true) ∧
    decodeV 0x400E17C1 = .ok (.vshl .i32 3 33 (.imm 31)) ∧
    decodeV 0x450E1140 = .ok (.vshr .i16 3 33 (.lanes 5)) ∧
    decodeV 0x4B0E1FC1 = .ok (.vsar .i64 3 33 (.imm 63)) := ⟨rfl, rfl, rfl, rfl, rfl, rfl, rfl, rfl, rfl, rfl, rfl, rfl, rfl, rfl, rfl, rfl, rfl, rfl⟩

/-- V-slot words written out from R48, R57, R154 to R194 decode to their operations. -/
theorem test_decode_v1 :
    decodeV 0x4C0E1144 = .ok (.vcmp .un .f32 3 33 5) ∧
    decodeV 0x520E1147 = .ok (.vicmp .ntst .i8 3 33 5) ∧
    decodeV 0x540E1166 = .ok (.vsel 3 33 5 38) ∧
    decodeV 0x580E1142 = .ok (.vpermb 3 33 5 true false) ∧
    decodeV 0x5C0E1166 = .ok (.vshuf 3 33 5 38) ∧
    decodeV 0x620E1160 = .ok (.vslide .i8 3 33 5 32) ∧
    decodeV 0x640C9000 = .ok (.vbcast .i32 3 (.scalar 9)) ∧
    decodeV 0x68261007 = .ok (.vext .i32 9 33 (.imm 7)) ∧
    decodeV 0x6E0E100E = .ok (.vred .max (.int .i8 true) (.vec 3) 33) ∧
    decodeV 0x710E1005 = .ok (.vsfu .tanh .bf16 3 33) ∧
    decodeV 0x743C3D0A = .ok (.vcvt .f32 .e5m2 false 2 true .sr 15 3) ∧
    decodeV 0x7A0E1034 = .ok (.vcvti .f16 true true .rtz 3 33) ∧
    decodeV 0x7C304889 = .ok (.vqmx .e2m1 .e8m0 .sr 12 4 9) ∧
    decodeV 0x810E1B49 = .ok (.vdqmx .bf16 .mxint8 .e8m12 1 3 33 9) ∧
    decodeV 0x84182607 = .ok (.vcmpr .f32 true 6 2 7) ∧
    decodeV 0x880E1001 = .ok (.vpack true 3 33) ∧
    decodeV 0x8C0E1000 = .ok (.vunpk false 3 33) ∧
    decodeV 0x960E1166 = .ok (.vdot .mixed 3 33 5 38) := ⟨rfl, rfl, rfl, rfl, rfl, rfl, rfl, rfl, rfl, rfl, rfl, rfl, rfl, rfl, rfl, rfl, rfl, rfl⟩

/-- V-slot words written out from R48, R57, R154 to R194 decode to their operations. -/
theorem test_decode_v2 :
    decodeV 0x9B0E1001 = .ok (.vbitc .clz .i64 3 33) ∧
    decodeV 0x9D0E1141 = .ok (.vsatn .i16 .signedToNatural 3 33 5) ∧
    decodeV 0xA0261002 = .ok (.vmaskq .i32 (.bits 9) 33) ∧
    decodeV 0xA40C0240 = .ok (.viota .i32 3 0 9) ∧
    decodeV 0xAB0C92A0 = .ok (.vins .i64 3 9 (.reg 10)) ∧
    decodeV 0x900C0001 = .ok (.vrng true 3) ∧
    decodeV 0xAE0E1C89 = .ok (.vscl .f16 .e8m12 true .rtz 3 33 9) := ⟨rfl, rfl, rfl, rfl, rfl, rfl, rfl⟩

/-- M-slot words written out from R49 and R202 decode to their operations. -/
theorem test_decode_m0 :
    decodeM 0x05024120 0x94000400 = .ok (.mma 2 ⟨.e4m3, .e5m2, 8, 9, 10, .e8m0⟩ ⟨true, 1024⟩) ∧
    decodeM 0x09C44120 0x15000000 = .ok (.mmas 3 ⟨.e2m1, .e3m2, 8, 9, 10, .e8m12⟩ ⟨false, 0⟩) ∧
    decodeM 0x0FEC4120 0x00000000 = .ok (.mmaz 7 ⟨.bf16, .bf16, 8, 9, 0, .e8m0⟩ ⟨false, 0⟩) ∧
    decodeM 0x10800000 0x80FFFFFF = .ok (.mclr 1 ⟨true, 0xFFFFFF⟩) ∧
    decodeM 0x1480413E 0x00000000 = .ok (.mrd 1 8 9 3 true .f16 ⟨false, 0⟩) ∧
    decodeM 0x18804131 0x00000000 = .ok (.mwr 1 8 9 2 false .bf16 ⟨false, 0⟩) ∧
    decodeM 0x1C804011 0x00000000 = .ok (.mrdv 1 8 17 ⟨false, 0⟩) ∧
    decodeM 0x20814001 0x00000000 = .ok (.mscl 1 40 true ⟨false, 0⟩) ∧
    decodeM 0x26800000 0x00000000 = .ok (.mtrn 5 ⟨false, 0⟩) ∧
    decodeM 0x2A5A413F 0x14000000 = .ok (.mseq 4 ⟨.mxint8, .mxint8, 8, 9, 10, .e8m0⟩ true 15 ⟨false, 0⟩) ∧
    decodeM 0x2C000000 0x00000000 = .ok (.msync) := ⟨rfl, rfl, rfl, rfl, rfl, rfl, rfl, rfl, rfl, rfl, rfl⟩

/-- N-slot words written out from R50, R214, R250, R262 and R420 decode to their operations. -/
theorem test_decode_n0 :
    decodeN 0x04494651 0xE1000800 = .ok (.cpyi 4 37 6 true ⟨17, some 33, ⟨true, 2048⟩⟩) ∧
    decodeN 0x08494611 0x00000000 = .ok (.cpyo 4 37 6 false ⟨17, none, ⟨false, 0⟩⟩) ∧
    decodeN 0x0C494611 0x00000000 = .ok (.cpyl 4 37 6 ⟨17, none, ⟨false, 0⟩⟩) ∧
    decodeN 0x10494001 0x00000000 = .ok (.foot 4 37 true) ∧
    decodeN 0x14400000 0x00000000 = .ok (.twait 4) ∧
    decodeN 0x18494000 0x00000000 = .ok (.tany 4 37) ∧
    decodeN 0x1C494000 0x00000000 = .ok (.tffr 4 37) ∧
    decodeN 0x20400000 0x00000000 = .ok (.tclr 4) ∧
    decodeN 0x244000C8 0x80000063 = .ok (.tsnd 4 200 ⟨true, 99⟩) ∧
    decodeN 0x284000C9 0xC5000062 = .ok (.trcv 4 201 (some 5) ⟨true, 98⟩) ∧
    decodeN 0x2C4946E4 0x3F000000 = .ok (.esnd 4 37 6 100 true 63 ⟨false, 0⟩) ∧
    decodeN 0x3049407F 0x00000000 = .ok (.ercv 4 37 127) ∧
    decodeN 0x3440001F 0x00000000 = .ok (.bari 4 31) ∧
    decodeN 0x3840001E 0x00000000 = .ok (.barw 4 30) ∧
    decodeN 0x3C09409D 0x00000000 = .ok (.bara 37 29 true) := ⟨rfl, rfl, rfl, rfl, rfl, rfl, rfl, rfl, rfl, rfl, rfl, rfl, rfl, rfl, rfl⟩

/-- N-slot words written out from R50, R214, R250, R262 and R420 decode to their operations. -/
theorem test_decode_n1 :
    decodeN 0x40494600 0x00000000 = .ok (.spawn 4 37 6) ∧
    decodeN 0x44000000 0x00000000 = .ok (.quit) ∧
    decodeN 0x48400000 0x00000000 = .ok (.fork 4) ∧
    decodeN 0x4C400000 0x00000000 = .ok (.join 4) ∧
    decodeN 0x50000000 0x00000000 = .ok (.popd 0) ∧
    decodeN 0x54900000 0x00000000 = .ok (.steal 9 0) ∧
    decodeN 0x5840061F 0x00000000 = .ok (.rpsh 4 6 31) ∧
    decodeN 0x5C49461E 0x00000000 = .ok (.rpop 4 37 6 30) ∧
    decodeN 0x60494611 0x00000000 = .ok (.sdldCell 4 37 6 ⟨17, none, ⟨false, 0⟩⟩) ∧
    decodeN 0x60494051 0xE1000800 = .ok (.sdldCoup 4 37 ⟨17, some 33, ⟨true, 2048⟩⟩) ∧
    decodeN 0x60494091 0x00000000 = .ok (.sdldBridge 4 37 ⟨17, none, ⟨false, 0⟩⟩) ∧
    decodeN 0x600000D1 0x00000000 = .ok (.sdldClear ⟨17, none, ⟨false, 0⟩⟩) ∧
    decodeN 0x64494611 0x00000000 = .ok (.sdclpClamp 4 37 6 ⟨17, none, ⟨false, 0⟩⟩) ∧
    decodeN 0x64494651 0x00000000 = .ok (.sdclpRelease 4 37 6 ⟨17, none, ⟨false, 0⟩⟩) ∧
    decodeN 0x64494691 0x00000000 = .ok (.sdclpSet 4 37 6 ⟨17, none, ⟨false, 0⟩⟩) := ⟨rfl, rfl, rfl, rfl, rfl, rfl, rfl, rfl, rfl, rfl, rfl, rfl, rfl, rfl, rfl⟩

/-- N-slot words written out from R50, R214, R250, R262 and R420 decode to their operations. -/
theorem test_decode_n2 :
    decodeN 0x68494091 0x00000000 = .ok (.sdswp 4 37 false true ⟨17, none, ⟨false, 0⟩⟩) ∧
    decodeN 0x6C494651 0x00000000 = .ok (.sdrd 4 37 6 true ⟨17, none, ⟨false, 0⟩⟩) ∧
    decodeN 0x70494611 0x00000000 = .ok (.sdcnt 4 37 6 false ⟨17, none, ⟨false, 0⟩⟩) ∧
    decodeN 0x74400011 0x00000000 = .ok (.sdseed 4 ⟨17, none, ⟨false, 0⟩⟩) ∧
    decodeN 0x74400051 0x00000000 = .ok (.sdseedStore 4 ⟨17, none, ⟨false, 0⟩⟩) ∧
    decodeN 0x78400011 0x00000000 = .ok (.sdtbl 4 ⟨17, none, ⟨false, 0⟩⟩) ∧
    decodeN 0x7C494011 0x00000000 = .ok (.sdbeta 4 37 ⟨17, none, ⟨false, 0⟩⟩) ∧
    decodeN 0x80494091 0x00000000 = .ok (.sigs 4 37 .max ⟨17, none, ⟨false, 0⟩⟩) ∧
    decodeN 0x84494603 0x00000000 = .ok (.swait 4 37 6 .ge) ∧
    decodeN 0x88494011 0x00000000 = .ok (.codel 4 37 ⟨17, none, ⟨false, 0⟩⟩) ∧
    decodeN 0x8C494000 0x00000000 = .ok (.codei 4 37) ∧
    decodeN 0x90400000 0x00000000 = .ok (.bankr 4) ∧
    decodeN 0x94400000 0x00000000 = .ok (.bankw 4) ∧
    decodeN 0x98400611 0xE1000800 = .ok (.lsnd 4 6 ⟨17, some 33, ⟨true, 2048⟩⟩) ∧
    decodeN 0x9C400611 0x00000000 = .ok (.lrcv 4 6 ⟨17, none, ⟨false, 0⟩⟩) := ⟨rfl, rfl, rfl, rfl, rfl, rfl, rfl, rfl, rfl, rfl, rfl, rfl, rfl, rfl, rfl⟩

/-- N-slot words written out from R50, R214, R250, R262 and R420 decode to their operations. -/
theorem test_decode_n3 :
    decodeN 0xA0400611 0x00000000 = .ok (.lred 4 6 ⟨17, none, ⟨false, 0⟩⟩) ∧
    decodeN 0xA4494011 0x00000000 = .ok (.hnfy 4 37 ⟨17, none, ⟨false, 0⟩⟩) ∧
    decodeN 0xA8494611 0x00000000 = .ok (.movc 4 37 6 ⟨17, none, ⟨false, 0⟩⟩) ∧
    decodeN 0xAC400011 0xE1000800 = .ok (.tide 4 ⟨17, some 33, ⟨true, 2048⟩⟩) ∧
    decodeN 0xAC400040 0x00000000 = .ok (.tideRetide 4) ∧
    decodeN 0xB0400620 0x00000000 = .ok (.rdyqPush 4 6 2) ∧
    decodeN 0xB0400631 0x00000000 = .ok (.rdyqPushh 4 6 3) ∧
    decodeN 0xB0094602 0x00000000 = .ok (.rdyqPop 37 6) ∧
    decodeN 0xB0094003 0x00000000 = .ok (.rdyqCount 37) ∧
    decodeN 0xB0400604 0x00000000 = .ok (.rdyqSpill 4 6) ∧
    decodeN 0xB0094005 0x00000000 = .ok (.rdyqRefill 37) ∧
    decodeN 0xB0000616 0x00000000 = .ok (.rdyqFlush 6 1) ∧
    decodeN 0xB0094007 0x00000000 = .ok (.rdyqRpst 37) ∧
    decodeN 0xC04000FF 0x00000000 = .ok (.send 4 255) ∧
    decodeN 0xC4400001 0x00000000 = .ok (.recv 4 1) := ⟨rfl, rfl, rfl, rfl, rfl, rfl, rfl, rfl, rfl, rfl, rfl, rfl, rfl, rfl, rfl⟩

/-- The bundles that the worked examples of spec/02 write byte by byte: header 0xC090 with ADDI and LD64, and header 0x1000 with MMA; and a pure wait bundle (R45). -/
theorem test_decode_bundles :
    decodeBundle [0x90, 0xC0, 0xF8, 0x7F, 0x51, 0x40, 0x10, 0x40, 0x61, 0x1C] =
      .ok ⟨0xC090, [⟨.s, 0x40517FF8, 0, .ok (.addi 5 5 0x3FF8)⟩, ⟨.l, 0x1C614010, 0, .ok (.ld64 6 5 16)⟩]⟩ ∧
    decodeSingle [0x00, 0x10, 0x20, 0x41, 0x02, 0x05, 0x00, 0x04, 0x00, 0x94] =
      some (.mma 2 ⟨.e4m3, .e5m2, 8, 9, 10, .e8m0⟩ ⟨true, 1024⟩) ∧
    decodeSingle [0xAC, 0x07] = some (.pureWaitBundle 15 5 true) := ⟨rfl, rfl, rfl⟩
/-- Opcodes that no slot allocates, and reserved codes, are refused by name (R54, R60). -/
theorem test_decode_refused :
    decodeS 0 = .badOpcode ∧ decodeS 0xC0000000 = .badOpcode ∧ decodeL 0x80000000 = .badOpcode ∧ decodeV 0xB0000000 = .badOpcode ∧
    decodeM 0x30000000 0 = .badOpcode ∧ decodeN 0xB4000000 0 = .badOpcode ∧
    decodeS 0x04000002 = .reserved 0 ∧ decodeS 0x38808008 = .reserved 0 ∧ decodeV 0x07000000 = .reserved 0 ∧
    decodeM 0x04000000 0x01000001 = .reserved 1 ∧ decodeN 0x14000000 1 = .reserved 1 := ⟨rfl, rfl, rfl, rfl, rfl, rfl, rfl, rfl, rfl, rfl, rfl⟩

/-! ## Small states -/

/-- A launch with every bank, whose one core is physical core 0. -/
def launch1 : CoreLaunch := ⟨1, false, false, 1, 0, 0xFFFF, 0xFFFF, 0, 0xFFFE, [0], false, [], [], 0, false, none⟩
/-- A worker of that launch in RUN at 0x1000, with x registers. -/
def worker (xs : Sparse DWord) : Ctx := { Ctx.reset with st := .run, next := 0x1000, xs := xs, launch := some 1 }
/-- Core 0 with the launch, a context 0 and context 1. -/
def core01 (x0 x1 : Ctx) : Core := { Core.reset with ctxs := [(0, x0), (1, x1)], launches := [launch1] }
/-- Core 0 as given, and context n of it issuing at 0x1000 a bundle of 6 bytes with the given header. -/
def issuing (c : Core) (n : Nat) (hdr : Half) : State :=
  { State.reset with cores := [(0, c)], frame := { Frame.reset with ctx := n, addr := 0x1000, len := 6, hdr := hdr } }
/-- Context 1 issues, with x registers. -/
def w1 (xs : Sparse DWord) : State := issuing (core01 Ctx.resetC0 (worker xs)) 1 0
/-- As w1, with the local store given. -/
def wm (xs : Sparse DWord) (ls : List Host.Cell) : State := issuing { core01 Ctx.resetC0 (worker xs) with ls := ls } 1 0
/-- C0 issues, with x registers and its context 1 as given. -/
def c0 (xs : Sparse DWord) (x1 : Ctx) : State :=
  issuing (core01 { Ctx.resetC0 with st := .run, next := 0x1000, xs := xs } x1) 0 0
/-- What waits to be written after an instruction. -/
def written (o : Out) : List (Dest × Val) :=
  match o with
  | .next t => (t.core 0).writes.map fun w => (w.dst, w.val)
  | _ => []

/-! ## Witnesses: for each statement with hypotheses, states and operands that meet them, clause by clause -/

theorem witness_EveryOperationRoundTrips :
    (Instr.add 63 63 63 true).wf = true ∧ (Instr.add 63 63 63 true).isOp = true ∧
    (Instr.vqmx .e3m2 .e8m0 .fcr 1 2 3).wf = true ∧ (Instr.vqmx .e3m2 .e8m0 .fcr 1 2 3).isOp = true ∧
    (Instr.mma 7 ⟨.e4m3, .e4m3, 1, 2, 3, .e8m0⟩ ⟨true, 0xFFF⟩).wf = true ∧ (Instr.pureWaitBundle 15 7 true).isOp = true := by decide
theorem witness_DecodedWordsReencode :
    decodeS (0b000001_000011_000001_000010_00000000 : BitVec 32) = .ok (.add 3 1 2 false) ∧
    decodeL (0b000111_000101_000100_00000000001000 : BitVec 32) = .ok (.ld64 5 4 8) ∧
    decodeV (0b000001_00_000011_000001_000010_000000 : BitVec 32) = .ok (.vadd .f32 3 1 2 .fcr) ∧
    decodeM (0b000100_010_000_000_000000_000000_00000 : BitVec 32) 0 = .ok (.mclr 2 ⟨false, 0⟩) ∧
    decodeN (0b000101_000100_000000_000000_00000000 : BitVec 32) 0 = .ok (.twait 4) := ⟨rfl, rfl, rfl, rfl, rfl⟩
theorem witness_IntegerRegisterAndDivision : Issues (w1 []) := by unfold Issues; decide
theorem witness_DivisionWithoutQuotient :
    (Issues (w1 [(2, 0)]) ∧ (w1 [(2, 0)]).rx 2 = 0) ∧
    (Issues (w1 [(2, 0xFFFFFFFF00000000)]) ∧ ((w1 [(2, 0xFFFFFFFF00000000)]).rx 2).setWidth 32 = (0 : Word)) ∧
    (let s := w1 [(1, 0x8000000000000000), (2, -1)]
     Issues s ∧ s.rx 1 = BitVec.intMin 64 ∧ s.rx 2 = -1) ∧
    (let s := w1 [(1, 0x80000000), (2, 0xFFFFFFFF)]
     Issues s ∧ (s.rx 1).setWidth 32 = BitVec.intMin 32 ∧ (s.rx 2).setWidth 32 = (-1 : Word)) := by unfold Issues; decide
/-- The widest bit field, the last bit, and the widest shift by an immediate of a W form. -/
theorem witness_ImmediateCompareAndFieldResults :
    Issues (w1 []) ∧ (31 : BitVec 6).toNat < 32 ∧ (0 : BitVec 6).toNat + ((63 : BitVec 6).toNat + 1) ≤ 64 ∧
    (63 : BitVec 6).toNat + ((0 : BitVec 6).toNat + 1) ≤ 64 := by unfold Issues; decide
theorem witness_ZeroRegisterAndTruePredicate : (2 : Nat) ≠ 1 := by decide
/-- A write of latency 1: its first and last cycle of the window, and the first cycle after it. -/
theorem witness_WritesLandInOrder :
    let s := w1 []
    let w : Write := ⟨.x 1 5, .word 7, 1, 9, some 24, 0, []⟩
    let u : Write := ⟨.x 1 5, .word 8, 1, 9, some 40, 0, []⟩
    (Quiet s ∧ (5 : SReg) ≠ 0 ∧ 1 ≤ 1 ∧ s.now < 1 ∧ 15 ≤ s.now + 16 * 1 - 1 ∧ s.now + 16 * 1 ≤ 16) ∧
    u ∈ (({ Core.reset with writes := [u] }).landOne 24 w true).writes ∧ u.dst.overlaps w.dst = true ∧
    u.dst.bits &&& ~~~w.dst.bits = 0 ∧ u.byCtx = w.byCtx := by unfold Quiet; decide
theorem witness_SpecialRegisterAccess :
    let s := w1 [(1, 0x100F)]
    let k := c0 [(1, 0)] Ctx.reset
    -- MFS of TIME and of the last listed register; C0 in a closed one.
    (Issues s ∧ Quiet s ∧ sprListed 0x04 = true ∧ sprClosed 0x04 = false ∧ sprListed 0x08 = true ∧ sprClosed 0x08 = false) ∧
    (Issues k ∧ Quiet k ∧ sprListed 0x13 = true ∧ sprClosed 0x13 = true) ∧
    -- A core that runs Emonef code, and one that does not.
    (s.here.emonef = false ∧ let e := s.onHere fun c => { c with emonef := true }
      Issues e ∧ Quiet e ∧ e.here.emonef = true ∧ sprListed 0x03 = true ∧ sprClosed 0x03 = false) ∧
    -- MTS: FCR with a value it takes, SEED, CHECK of a worker; CSEL and TIMER of C0.
    (Issues s ∧ sprWritable 0x08 = true ∧ sprClosed 0x08 = false ∧ sprRoWorker 0x08 = false ∧
      fcrRefused (s.rx 2) = false) ∧
    (sprWritable 0x0A = true ∧ sprClosed 0x0A = false ∧ sprRoWorker 0x0A = false ∧ sprWritable 0x16 = true ∧ sprRoWorker 0x16 = false) ∧
    (Issues k ∧ k.frame.ctx = 0 ∧ sprWritable 0x20 = true ∧ cselRefused (k.rx 1) = false) ∧
    -- A context of a launch and one of none; a dispatch ring with and without the selected entry; values that FCR and CSEL refuse.
    (s.here.launchOf s.frame.ctx = some launch1 ∧ (s.onCur fun x => { x with launch := none }).here.launchOf s.frame.ctx = none) ∧
    (let r := s.onCur fun x => { x with ring := [⟨0, true, 0x1000, 9⟩, ⟨1, false, 0x1040, 8⟩] }
     (∀ f ∈ r.cur.ring, f.seq = r.cur.vseqSel → f = ⟨0, true, 0x1000, 9⟩) ∧ ∀ e ∈ s.cur.ring, e.seq ≠ s.cur.vseqSel) ∧
    (s.frame.phase = .whole ∧ s.frame.guard = true ∧ s.cur.lv = false ∧ fcrRefused (s.rx 1) = true ∧
      cselRefused ((c0 [(1, 0x0700_0000)] Ctx.reset).rx 1) = true ∧ (c0 [(1, 0x0700_0000)] Ctx.reset).cur.lv = false) := by
  unfold Issues Quiet; decide
theorem witness_ForbiddenOperationsTrap :
    ((w1 []).frame.phase = .whole ∧ (w1 []).frame.ctx ≠ 0 ∧ sprClosed 0x13 = true ∧ sprRoWorker 0x12 = true) ∧
    ((c0 [] Ctx.reset).frame.phase = .whole ∧ (c0 [] Ctx.reset).frame.ctx = 0 ∧
      Instr.isV (.vadd .f32 1 2 3 .fcr) = true ∧ Instr.isM (.mclr 2 ⟨false, 0⟩) = true) ∧
    (kindOf (w1 []).frame.core ≠ 2 ∧ isOrdinary (w1 []).frame.core = true ∧ (w1 []).here.emonef = false ∧ (31 : VReg).toNat < 32 ∧
      isOrdinary 0x8000 = false) := by decide
/-- C0 with CSEL naming an item: class, context, item, quarter and RP as R26 places them. -/
def selecting (csel v : DWord) : State :=
  let s := c0 [(1, v)] Ctx.reset
  s.onCore 0 fun c => { c with csel := csel }
/-- The class, item and RP that CSEL selects, of context 1 where RP = 0. -/
def selectsItem (csel : DWord) (cls i : Nat) (rp : Bool) : Bool :=
  !cselRefused csel && cselClass csel == cls && cselItem csel == i && cselRp csel == rp && (rp || cselCtx csel == 1)
/-- What CSEL selects: each class, at its first and last item, of a context that is resident, of one that is FREE and of one that is saved. -/
theorem witness_SpecialRegisterAccess_selected :
    [(0x0000_0001, 0, 0, false), (0x0000_1F01, 0, 31, false), (0x0100_0001, 1, 0, false), (0x01C0_1F01, 1, 31, false), (0x0200_0001, 2, 0, false),
     (0x0200_0701, 2, 7, false), (0x0300_0301, 3, 0x03, false), (0x0300_1601, 3, 0x16, false), (0x0300_1A01, 3, 0x1A, false),
     (0x0300_1C01, 3, 0x1C, false), (0x0400_0001, 4, 0, false), (0x0000_0123, 0, 1, true), (0x0100_1F23, 1, 31, true), (0x0200_0723, 2, 7, true),
     (0x0300_1C23, 3, 0x1C, true), (0x0400_0020, 4, 0, true)].all (fun k => selectsItem k.1 k.2.1 k.2.2.1 k.2.2.2) = true ∧
    ((selecting 0x0000_1F01 4).here.ctx 1).st = .free ∧
    ((issuing (core01 Ctx.reset (worker [])) 0 0).here.ctx 1).st = .run := by decide
/-- C0 issues, and CSEL selects an item of a class that the value may be written to. -/
def selects (s : State) (cls i : Nat) (rp : Bool) : Bool := decide <|
  (s.frame.phase = .perform ∨ (s.frame.phase = .whole ∧ s.cur.lv = false)) ∧ s.frame.ctx = 0 ∧ cselRefused s.here.csel = false ∧
  cselClass s.here.csel = cls ∧ cselItem s.here.csel = i ∧ cselRp s.here.csel = rp ∧ fcrRefused (s.rx 1) = false
/-- The first and last item of each class, resident and in a Rockpool entry. -/
theorem witness_XvalWritesSelectedItem :
    selects (selecting 0x0000_1F01 4) 0 31 false ∧ selects (selecting 0x0000_0001 4) 0 0 false ∧
    selects (selecting 0x01C0_1F01 4) 1 31 false ∧ selects (selecting 0x0200_0701 1) 2 7 false ∧
    selects (selecting 0x0200_0001 1) 2 0 false ∧ selects (selecting 0x0300_0301 4) 3 0x03 false ∧
    selects (selecting 0x0300_0801 4) 3 0x08 false ∧ selects (selecting 0x0300_1601 0) 3 0x16 false ∧
    selects (selecting 0x0300_0A01 4) 3 0x0A false ∧ selects (selecting 0x0400_0001 0x1000) 4 0 false ∧
    (selects (selecting 0x0000_0120 4) 0 1 true ∧ poolItem 0x0000_0120 = some 0x20) ∧
    (selects (selecting 0x0100_1F20 4) 1 31 true ∧ poolItem 0x0100_1F20 = some 0x5E0) ∧
    (selects (selecting 0x0400_0023 4) 4 0 true ∧ (poolItem 0x0400_0023).isSome = true) ∧
    selects (selecting 0x0200_0720 1) 2 7 true ∧
    (selects (selecting 0x0300_1620 0) 3 0x16 true ∧ find class3 0x16 = some 0x158) := by decide
/-- The lowest and the highest target that is none, and the displacements that reach them. -/
theorem witness_BranchTargets :
    let s := w1 [(1, 0x1000), (2, 1), (3, 0xFFFFFFFFFFFE), (4, 0x1000000000000)]
    let t (imm : BitVec 20) : DWord := s.frame.addr + imm.signExtend 64 * 2
    let u (a : SReg) (off : BitVec 14) : DWord := s.rx a + off.signExtend 64 * 2
    (Issues s ∧ (t 0xFF800).getLsbD 0 = false ∧ (t 0xFF800).extractLsb' 48 16 = 0 ∧ t 0xFF800 = 0) ∧
    (Issues s ∧ (u 3 0).getLsbD 0 = false ∧ (u 3 0).extractLsb' 48 16 = 0) ∧
    (WorkerWhole s ∧ (t 0xFF7FF).extractLsb' 48 16 ≠ 0) ∧
    (WorkerWhole s ∧ (u 2 0).getLsbD 0 = true) ∧ (WorkerWhole s ∧ (u 4 0).extractLsb' 48 16 ≠ 0 ∧ (u 3 1).extractLsb' 48 16 ≠ 0) := by
  unfold Issues WorkerWhole; decide
/-- A level whose body has LEN 5 and is at its third bundle. -/
def level (pos : BitVec 5) (count : BitVec 32) : Level := ⟨0x1000, count, 5, pos, false, false, 0, false, 0, true, false⟩
/-- Context 1 issues with the levels given. -/
def inLoops (l : List Level) : State := issuing (core01 Ctx.resetC0 { worker [] with levels := l }) 1 0
/-- Five and six open levels; a body that just fits in what is left of the enclosing one, and one that is a bundle too long. -/
theorem witness_LoopOpensLevel :
    (let s := inLoops []
     Issues s ∧ s.cur.levels.length < 6 ∧ ∀ l ∈ s.cur.live, l.pos.toNat + (31 : BitVec 5).toNat + 1 ≤ l.len.toNat) ∧
    (let s := inLoops (List.replicate 5 (level 2 9))
     Issues s ∧ s.cur.levels.length < 6 ∧ ∀ l ∈ s.cur.live, l.pos.toNat + (2 : BitVec 5).toNat + 1 ≤ l.len.toNat) ∧
    (let s := inLoops (List.replicate 6 (level 2 9))
     WorkerWhole s ∧ 6 ≤ s.cur.levels.length) ∧
    (let s := inLoops (List.replicate 5 (level 2 9))
     WorkerWhole s ∧ s.cur.levels.length < 6 ∧ ∃ l ∈ s.cur.live, l.len.toNat < l.pos.toNat + (3 : BitVec 5).toNat + 1) := by
  unfold Issues WorkerWhole; decide
theorem witness_SequencerAfterBundle :
    (worker []).frozen = 0 ∧ (worker []).levels = [] ∧
    (let l := level 4 1
     { worker [] with levels := [l] }.frozen = 0 ∧ l.skip = false ∧ l.pos ≤ l.len ∧ l.pos < l.len) ∧
    (let l := level 5 2
     l.skip = false ∧ l.pos ≤ l.len ∧ l.pos = l.len ∧ 1 < l.count.toNat) ∧
    (let l := level 5 1
     l.pos = l.len ∧ l.count.toNat ≤ 1) ∧
    -- A nest: the inner level within its body, looping back, and closing, beside one that is skipped; bundles hidden and not; strides.
    (let x (l : Level) : Ctx := { worker [] with levels := [level 2 9] ++ [l] }
     (x (level 4 2)).frozen = 0 ∧ (x (level 4 2)).levels = [level 2 9] ++ [level 4 2] ∧ (level 4 2).pos < (level 4 2).len ∧
      (level 5 2).pos = (level 5 2).len ∧ 1 < (level 5 2).count.toNat ∧ (level 5 1).count.toNat ≤ 1 ∧ { level 5 9 with skip := true }.skip = true) ∧
    (let hides (l : Level) : Bool := (l.fo && l.pos == 0 && !l.first) || (l.lo && l.pos == l.len && decide (1 < l.count.toNat)) || l.skip
     hides { level 0 2 with fo := true, first := false } ∧ hides { level 5 2 with lo := true } ∧ hides { level 3 2 with skip := true } ∧
      ¬ hides (level 3 2) ∧ ¬ hides { level 0 2 with fo := true, first := true } ∧ ¬ hides { level 5 1 with lo := true }) ∧
    (let s := inLoops [level 5 2]
     s.frame.after = none ∧ s.frame.rett = false ∧ s.cur.ss = false ∧ s.frame.target = none ∧ (s.core 0).writes = [] ∧
      { s.frame with target := some 0x2000 }.target = some 0x2000 ∧ (level 5 2).skip = false ∧ (level 5 2).dreg = 0 ∧
      { level 5 2 with dreg := 63 }.dreg ≠ 0) := by decide

/-- The bundle of ADD x3, x1, x2 alone: its header, with a WAIT in bits [10:7], and its word. -/
def addBundle (wait : Nat) : List Byte := leBytes 2 (0x8000 + 128 * wait) ++ [0x00, 0x42, 0x30, 0x04]
/-- The code-store line of addresses 0x1000 to 0x103F, its first bundle given. -/
def lineOf (bs : List Byte) : Sparse Line := [(64, ⟨0, bs ++ List.replicate (64 - bs.length) 0⟩)]
/-- Context 1 of core 0 at the bundle given, about to issue, with WAIT served or not, and its open levels. -/
def toIssue (bs : List Byte) (hold : Option Nat) (ls : List Level) : State :=
  { issuing { core01 Ctx.resetC0 { worker [(1, 40), (2, 2)] with hold := hold, levels := ls } with code := lineOf bs } 1 0 with
    todo := [.issue 0 1], frame := Frame.reset }
theorem witness_StepRunsTheDecodedBundle :
    (let s := toIssue (addBundle 15) (some 0) []
     s.hub.powered = true ∧ s.todo = [.issue 0 1] ∧ (s.ctx 0 1).st = .run ∧ (s.ctx 0 1).hold = some 0 ∧ (s.core 0).emonef = false ∧
      (s.core 0).nextBundle 1 = .ok (addBundle 15) ∧ (∃ b, decodeBundle (addBundle 15) = .ok b) ∧ (s.ctx 0 1).live = []) ∧
    (let s := toIssue (addBundle 0) none [level 2 9]
     s.hub.powered = true ∧ s.todo = [.issue 0 1] ∧ (s.ctx 0 1).st = .run ∧ (s.ctx 0 1).hold = none ∧
      hdrWait (BitVec.ofNat 16 (leNat ((addBundle 0).take 2))) = 0 ∧ (s.core 0).nextBundle 1 = .ok (addBundle 0) ∧
      (∃ b, decodeBundle (addBundle 0) = .ok b) ∧ (s.ctx 0 1).live ≠ [] ∧ (s.ctx 0 1).captured = none) ∧
    (let i : Instr := .add 3 1 2 false
     let s : State := { w1 [(1, 40), (2, 2)] with frame := { (w1 []).frame with phase := .check } }
     ∃ t u, exec i (s.atSlot 0 0x04304200) = .next t ∧ t.frame.noted = none ∧ t.frame.guard = true ∧
      exec i ((t.toPerform [(0, 0x04304200, i)]).atSlot 0 0x04304200) = .next u) :=
  ⟨⟨rfl, rfl, rfl, rfl, rfl, rfl, ⟨_, rfl⟩, rfl⟩, ⟨rfl, rfl, rfl, rfl, rfl, rfl, ⟨_, rfl⟩, by decide, rfl⟩,
    ⟨_, _, rfl, rfl, rfl, rfl⟩⟩
/-- Context 1 checks a bundle whose guard is given. -/
def checking (g : Bool) : State := { w1 [] with frame := { (w1 []).frame with phase := .check, guard := g } }
/-- The bundle of ADD x3, x1, x2 in a frame whose guard is 0, and MFS of a closed register, whose check fails. -/
theorem witness_TrappedOrUnguardedBundleHasNoEffect :
    (let ops : List Op := [(0, 0x04304200, .add 3 1 2 false)]
     (∀ o ∈ ops, o.2.2.isOp = true) ∧ (checking false).frame.phase = .check ∧ (∃ t, runBundle ops (checking false) = .next t) ∧
      ∃ u, runOps ops (checking false) = .next u ∧ u.frame.noted = none ∧ (checking false).frame.guard = false) ∧
    (let ops : List Op := [(0, 0, .mfs 3 0x13)]
     (∀ o ∈ ops, o.2.2.isOp = true) ∧ (checking true).frame.phase = .check ∧ (∃ t, runBundle ops (checking true) = .next t) ∧
      ∃ u k tr, runOps ops (checking true) = .next u ∧ u.frame.noted = some (k, tr) ∧ tr.cause = 4) :=
  ⟨⟨by decide, rfl, ⟨_, rfl⟩, ⟨_, rfl, rfl, rfl⟩⟩, ⟨by decide, rfl, ⟨_, rfl⟩, ⟨_, _, _, rfl, rfl, rfl⟩⟩⟩
/-- Context 1 about to issue the bundle at an address of which no line is present. -/
def atAddr (a : DWord) : State := (toIssue [] (some 0) []).onCtx 0 1 fun x => { x with next := a }
/-- The first and last turn of a hold, WAIT 1 and 15, an odd address, one of 2^48, and a line that is not present. -/
theorem witness_BeforeABundleIssues :
    (let s := toIssue (addBundle 1) (some 15) []
     (s.ctx 0 1).st = .run ∧ (s.core 0).emonef = false ∧ (s.ctx 0 1).hold = some (14 + 1)) ∧
    (let s := toIssue (addBundle 1) none []
     (s.ctx 0 1).hold = none ∧ (s.core 0).nextBundle 1 = .ok (addBundle 1) ∧
      hdrWait (BitVec.ofNat 16 (leNat ((addBundle 1).take 2))) = BitVec.ofNat 4 (0 + 1)) ∧
    (let s := toIssue (addBundle 15) none []
     (s.core 0).nextBundle 1 = .ok (addBundle 15) ∧ hdrWait (BitVec.ofNat 16 (leNat ((addBundle 15).take 2))) = BitVec.ofNat 4 (14 + 1)) ∧
    Issues (w1 []) ∧
    (let s := atAddr 1
     (s.ctx 0 1).st = .run ∧ (s.core 0).emonef = false ∧ (s.ctx 0 1).hold = some 0 ∧ (s.ctx 0 1).levels = [] ∧
      (s.ctx 0 1).next.getLsbD 0 = true) ∧
    (let s := atAddr 0x1000000000000
     (s.ctx 0 1).st = .run ∧ (s.ctx 0 1).hold = some 0 ∧ (s.ctx 0 1).levels = [] ∧ (s.ctx 0 1).next.extractLsb' 48 16 = 1) ∧
    (let s := atAddr 0xFFFFFFFFFFFE
     (s.ctx 0 1).next.getLsbD 0 = false ∧ (s.ctx 0 1).next.extractLsb' 48 16 = 0 ∧ (s.core 0).lineAt 0xFFFFFFFFFFFE = none) :=
  ⟨⟨rfl, rfl, rfl⟩, ⟨rfl, rfl, rfl⟩, ⟨rfl, rfl⟩, Or.inr ⟨rfl, rfl⟩, ⟨rfl, rfl, rfl, rfl, rfl⟩, ⟨rfl, rfl, rfl, rfl⟩, ⟨rfl, rfl, rfl⟩⟩
/-- A package that a thermal trip has left without power, with an event from outside that it does not take in. -/
def off : State := { State.reset with hub := { Hub.reset with powered := false }, inputs := [(7, .shootdownGo)] }
theorem witness_EveryStepAnswers : State.reset.hub.powered = true ∧ off.hub.powered = false ∧ (∀ k ∈ off.inputs, k.2 ≠ .packageReset) ∧ ∃ t, step off = .next t :=
  ⟨rfl, rfl, List.forall_mem_singleton.mpr Instr.noConfusion, ⟨_, rfl⟩⟩
/-- The state after reset, and one whose local store and Cliffstack list bytes. -/
theorem witness_EveryStepKeepsStoresCanonical :
    (StoresCanonical State.reset ∧ ∃ t, step State.reset = .next t) ∧
    (let s : State := { wm [] [(0x100, 7)] with cliff := [(0x2000, 1)], todo := [.phase .land] }
     StoresCanonical s ∧ ∃ t, step s = .next t) :=
  ⟨⟨by unfold StoresCanonical; decide, ⟨_, rfl⟩⟩, ⟨by unfold StoresCanonical; decide, ⟨_, rfl⟩⟩⟩
theorem witness_ResetState : (1 : Nat) ≠ 0 ∧ Memory.wf [(4, 1), (7, 2)] ∧ ((3 : Nat) < 4 ∨ 4 + 4 ≤ 3) ∧ ((8 : Nat) < 4 ∨ 4 + 4 ≤ 8) := by decide
/-- 1.5, whose reciprocal's ulp is 2^-24; 1.5 times 2^127, whose reciprocal is subnormal; the least input that does not overflow. -/
theorem witness_ReciprocalWithinOneUlp :
    let two (k : Int) : Nat := 2 ^ (k + 400).toNat
    (0x00200000 < 0x3FC00000 % 2 ^ 31 ∧ 0x3FC00000 % 2 ^ 31 < 0x7F800000 ∧ ffF32.num 0x3FC00000 = .fin false 12582912 (-23) ∧
      (-149 : Int) ≤ -24 ∧ 12582912 * two (-23 + -24 + 23) ≤ two 0 ∧ two 0 < 12582912 * two (-23 + -24 + 24)) ∧
    (0x7F400000 % 2 ^ 31 < 0x7F800000 ∧ ffF32.num 0x7F400000 = .fin false 12582912 104 ∧ two 0 < 12582912 * two (104 + -149 + 24)) ∧
    (0x00200000 < 0x80200001 % 2 ^ 31 ∧ ffF32.num 0x80200001 = .fin true 2097153 (-149) ∧
      2097153 * two (-149 + 104 + 23) ≤ two 0 ∧ two 0 < 2097153 * two (-149 + 104 + 24)) := by decide +kernel
/-- −0 and +0, −1 and 1, the infinities, and NaNs. -/
theorem witness_ScalarFloatResults :
    Issues (w1 []) ∧ less (ffF32.num 0x80000000) (ffF32.num 0) ∧ less (ffF32.num 0xBF800000) (ffF32.num 0x3F800000) ∧
    less (ffF32.num 0xFF800000) (ffF32.num 0x7F800000) ∧ less (ffF32.num 0x3F800000) (ffF32.num 0x7F800000) ∧
    (ffF32.num 0x7FC00000).isNan = true ∧ ffF32.num 0x7F800001 = .nan true ∧ (ffF32.num 0).isNan = false :=
  ⟨Or.inr ⟨rfl, rfl⟩, Or.inr ⟨rfl, rfl, rfl, rfl⟩, Or.inl (by decide), ⟨rfl, rfl⟩, rfl, rfl, rfl, rfl⟩
/-- A worker's trap of the lowest and of the highest context. -/
theorem witness_WorkerTrapEntry : (1 : Nat) ≠ 0 ∧ (15 : Nat) ≠ 0 ∧ (causeOf 0x07).toNat % 256 ≠ 0x1D := by decide
/-- C0 stopped after reset, with a trap of each kind pending. -/
theorem witness_C0EntersPendingTraps :
    let c (p : Pending) : Core := { core01 Ctx.resetC0 (worker []) with pending := p }
    let s (p : Pending) : State := issuing (c p) 0 0
    (∀ p ∈ [(⟨[9], true, [3], [(0x0E, 1)], [(1, 5, 6)]⟩ : Pending), ⟨[], true, [3], [(0x0E, 1)], [(1, 5, 6)]⟩,
        ⟨[], false, [3], [(0x0E, 1)], [(1, 5, 6)]⟩, ⟨[], false, [], [(0x0E, 1)], [(1, 5, 6)]⟩,
        ⟨[], false, [], [], [(15, 8, 9), (1, 5, 6)]⟩],
      (c p).handler = false ∧ ((c p).ctx 0).st ≠ .park ∧ (c p).delivered = none ∧ ((c p).ctx 0).mmode = false ∧
      (c p).nextPending.isSome = true ∧ (s p).core 0 = c p) := by decide
theorem witness_LighthouseTraps :
    let c : Core := { Core.reset with deleg := 2 }
    ((causeOf 1).toNat % 256 < 64 ∧ (causeOf 1).toNat % 256 ≠ 0x1D ∧ c.deleg.getLsbD ((causeOf 1).toNat % 256) = true) ∧
    (c.deleg.getLsbD ((causeOf 2).toNat % 256) = false) ∧ (64 ≤ (causeOf 64).toNat % 256) ∧ ((1 : Nat) ≠ 0 ∧ (causeOf 0x1D).toNat % 256 = 0x1D) := by
  decide
theorem witness_TrapBreakpointAndReturn :
    Issues (w1 []) ∧
    (let s : State := (w1 []).onCur fun x => { x with check := 0 }
     let t : State := { s with frame := { s.frame with after := some (0x17, 5) } }
     t.frame.after = some (0x17, 5) ∧ t.frame.target = none ∧ t.frame.opened = none ∧ t.frame.rett = false ∧ t.cur.st = .run ∧
      t.cur.check = 0 ∧ t.cur.levels = [] ∧ t.cur.foot = []) ∧
    (let s := c0 [(1, 15), (2, 1)] { worker [] with st := .stop }
     C0Issues s ∧ (s.rx 2).toNat % 16 ≠ 0 ∧ (s.here.ctx ((s.rx 2).toNat % 16)).st = .stop ∧
      (s.here.ctx ((s.rx 2).toNat % 16)).mmode = false ∧ s.here.swapping = [] ∧ (s.ctx 0 1).parks = [] ∧ (s.ctx 0 1).stepped = none ∧
      (s.ctx 0 1).nextWritten = false) ∧
    ({ worker [] with st := .stop, nextWritten := true }).nextWritten = true := by unfold C0Issues Issues; decide

/-- C0 issues with x1 = a context's number, x2 = an address or an entry, and that context in a state. -/
def c0With (n e : DWord) (st : CtxState) : State := c0 [(1, n), (2, e)] { worker [] with st := st }
theorem witness_StartAndStopWorkers :
    (let s := c0With 1 0x2000 .stop
     C0Issues s ∧ (s.rx 1).toNat % 16 ≠ 0 ∧ (s.here.ctx 1).st = .stop ∧ (s.here.ctx 1).mmode = false ∧ s.here.swapping = []) ∧
    (∀ st ∈ [CtxState.free, .halt, .out], let s := c0With 1 0xFFFFFFFFFFFE st
      (s.here.ctx 1).st ∈ [CtxState.free, .halt, .out] ∧ (s.rx 2).getLsbD 0 = false ∧ (s.rx 2).extractLsb' 48 16 = 0) ∧
    (∀ st ∈ [CtxState.run, .park], let s := c0With 1 0 st
      C0Issues s ∧ (s.here.ctx 1).st ∈ [CtxState.run, .park] ∧ (s.ctx 0 1).st ∈ [CtxState.run, .park]) ∧
    (c0With 1 0 .halt).ctx 0 1 = { worker [] with st := .halt } := by unfold C0Issues Issues; decide
theorem witness_EndsOfWork :
    (Issues (w1 []) ∧ (w1 []).cur.pend = false) ∧
    (let s := (w1 []).onCur fun x => { x with pend := true, deferred := some 3, marked := true }
     Issues s ∧ s.cur.pend = true ∧ s.cur.deferred = some 3) ∧
    C0Issues (c0With 1 0 .run) ∧ WorkerIssues (w1 []) ∧
    (let k (q : Bool) : Park := ⟨.drain, if q then .quit else .halt, 0, 4, 0x1000, 0, 0, 0, 0, 0, 1, false, .waiting, 0, []⟩
     let s (q : Bool) : State := (w1 []).onCur fun x => { x with st := .park, parks := [k q] }
     (∀ q : Bool, ((s q).ctx 0 1).st = .park ∧ ((s q).ctx 0 1).parks = [k q] ∧ (k q).kind = .drain ∧
      (k q).op = (if q then .quit else .halt) ∧ ((s q).ctx 0 1).late = [] ∧ ((s q).ctx 0 1).backlog = []) ∧
     (s true).drained 0 1 true = true ∧ (s false).drained 0 1 false = true) := by
  refine ⟨⟨Or.inr ⟨rfl, rfl⟩, rfl⟩, ⟨Or.inr ⟨rfl, rfl⟩, rfl, rfl⟩, ⟨Or.inr ⟨rfl, rfl⟩, rfl⟩, ⟨Or.inr ⟨rfl, rfl⟩, by decide⟩, ?_, rfl, rfl⟩
  intro q; cases q <;> exact ⟨rfl, rfl, rfl, rfl, rfl, rfl⟩
/-- What the core keeps with a Rockpool entry of context 1, saved in RUN by launch 1. -/
def saved : PoolCopy :=
  ⟨1, 0, 0, false, 0, 0, [], 0, 0, [], [], [], [], [], [], some 1, false, false, none, false, none, false, false, false⟩
/-- C0 issues with entry 3 valid for context 1: its words 0 and 1 as R36 gives them. -/
def withEntry (st : Byte) : State :=
  (c0With 3 0 .out).onHere fun c => { c with pool := [(3, saved)], ls := [(0x7F801, 0x10), (0x7F808, 1), (0x7F809, st)] }
/-- C0 issues with a TSND of context 1 in the engine queue. -/
def tidalCmd : Cmd := ⟨9, 1, some 1, .tsnd 4 7 ⟨true, 40⟩, 0, 0x100, 0, 0, 0x1000, 0, 0, 0, 0, 0, [], 0, none, 0, [], 0, 0, 0, false, none⟩
theorem witness_SwapResumeAndMigration :
    (∀ st ∈ [CtxState.run, .park, .stop], let s := c0With 1 3 st
      (s.here.ctx 1).st ∈ [CtxState.run, .park, .stop] ∧ s.here.swapping = [] ∧ find s.here.pool 3 = none ∧ s.here.tidalWork 1 = false) ∧
    C0Issues (c0With 1 3 .run) ∧ ((c0With 1 3 .run).rx 1).toNat % 16 = 1 ∧ ((c0With 1 3 .run).rx 2).toNat % 4 = 3 ∧
    ((c0With 1 3 .run).onHere fun c => { c with eq := [tidalCmd] }).here.tidalWork 1 = true ∧
    (∀ st ∈ [(1 : Byte), 2, 3], let s := withEntry st
      (s.rx 1).toNat % 4 = 3 ∧ (find s.here.pool 3).isSome = true ∧ (s.here.entryWord 3).1 = 1 ∧ (s.here.ctx 1).st = .out ∧
      (s.here.entryWord 3).2 = st.toNat) ∧
    C0Issues (withEntry 3) ∧ (c0With 1 0 .run).spare 1 = true ∧ (1, (c0With 1 0 .run).here.ctx 1) ∈ (c0With 1 0 .run).here.ctxs ∧
    (c0With 1 0 .halt).mayCommit 0 1 = true ∧ (c0With 1 0 .run).mayCommit 0 1 = false ∧
    ((c0With 1 0 .run).onHere fun c => { c with migration := some ⟨1, false, none⟩ }).here.migration = some ⟨1, false, none⟩ := by
  unfold C0Issues Issues
  exact ⟨by decide, by decide, by decide, by decide, by decide, by decide, by decide, by decide, by decide, by decide, by decide, by decide⟩

/-! ### Local memory -/

/-- Context 1 issues with x1 = an address, x2 and x3 given. -/
def accessing (a b d : DWord) (ls : List Host.Cell) : State := wm [(1, a), (2, b), (3, d)] ls
/-- The context may reach the address, aligned to n. -/
def localAt (s : State) (a : DWord) (n : Nat) : Bool := decide <|
  (s.frame.phase = .perform ∨ (s.frame.phase = .whole ∧ s.cur.lv = false)) ∧ hdrRx s.frame.hdr = false ∧ s.here.poison = [] ∧
  a.toNat < 0x80000 ∧ s.here.reaches s.frame.ctx a.toNat = true ∧ a.toNat % n = 0
theorem localAt_sound {s : State} {a : DWord} {n : Nat} (h : localAt s a n = true) : LocalAt s a n := by
  unfold localAt at h; have g := of_decide_eq_true h; exact g
/-- The first and the last bytes of the banks, of the context's own stack slice, and C0 anywhere. -/
theorem witness_LoadAndStoreResults :
    (∀ n ∈ [1, 2, 4, 8, 32], localAt (w1 []) 0 n = true ∧ localAt (w1 []) (BitVec.ofNat 64 (0x70000 - n)) n = true ∧
      localAt (w1 []) (BitVec.ofNat 64 (0x78C00 - n)) n = true ∧ localAt (c0 [] Ctx.reset) (BitVec.ofNat 64 (0x80000 - n)) n = true) ∧
    (w1 []).frame.ctx ≠ 0 ∧ (32 ≤ (32 : VReg).toNat ∧ (c0 [] Ctx.reset).frame.ctx = 0) := by decide
/-- A field within a word, one that ends with its word, and one that crosses into the next. -/
theorem witness_BitFieldAccess :
    let s := accessing 0x100 60 0 []
    LocalAt s 0x100 8 ∧ LocalAt s 0x108 8 ∧ 64 < 60 + ((7 : BitVec 6).toNat + 1) ∧ 60 + ((3 : BitVec 6).toNat + 1) ≤ 64 ∧
    (s.rx 1).extractLsb' 19 45 ++ ((((s.rx 1).extractLsb' 0 19).setWidth 22 * 8 + (s.rx 2).setWidth 22).extractLsb' 6 16 ++ (0 : BitVec 3)) =
      0x100 := ⟨localAt_sound (by decide), localAt_sound (by decide), by decide, by decide, by decide⟩
/-- A full word and an empty one; no word, and every word of the store, for FEBIT. -/
theorem witness_FullEmptyOperations :
    (let s := accessing 0x100 0 7 []
     LocalAt s 0x100 8 ∧ s.here.full 0x100 = true ∧ condHolds .eq (s.here.word 0x100) (s.rx 2) = true ∧
      condHolds .ne (s.here.word 0x100) (s.rx 2) = false) ∧
    (let s := (accessing 0x100 0 7 []).onHere fun c => { c with empties := [0x100] }
     LocalAt s 0x100 8 ∧ s.here.full 0x100 = false) ∧
    (let s := accessing 0x100 2 0 []
     Issues s ∧ (s.rx 2).toNat ≤ 256 ∧ (s.rx 1).toNat % 8 = 0 ∧ (s.rx 1).toNat + 8 * (s.rx 2).toNat ≤ 0x80000 ∧
      ∀ k < (s.rx 2).toNat, s.here.reaches s.frame.ctx ((s.rx 1).toNat + 8 * k) = true) ∧
    (let s := accessing 0x100 0 0 []
     (s.rx 2).toNat ≤ 256 ∧ ∀ k < (s.rx 2).toNat, s.here.reaches s.frame.ctx ((s.rx 1).toNat + 8 * k) = true) :=
  ⟨⟨localAt_sound (by decide), by decide, by decide, by decide⟩, ⟨localAt_sound (by decide), by decide⟩,
    ⟨Or.inr ⟨rfl, rfl⟩, by decide, by decide, by decide, by decide⟩, by decide⟩
/-- Context 1 issues with an address in x1 and the lane indices in v2. -/
def gathering (a : DWord) (idx : Vec) : State :=
  (w1 [(1, a)]).onHere fun c => c.onCtx 1 fun x => { x with vs := [(2, idx)] }
/-- Eight 32-bit lanes that read one word pair and, with other indices, four banks. -/
theorem witness_GatherAndScatter :
    let s := gathering 0x1000 0
    let A (j : Nat) : DWord := (s.rx 1).extractLsb' 19 45 ++ ((s.rx 1).extractLsb' 0 19 +
      BitVec.ofNat 19 (laneOf (gatherShape .n32).2.2 (s.rv 2) j % 2 ^ 32 * 2 ^ (2 : BitVec 3).toNat))
    (gatherShape .n32).2.1 = 8 ∧ (∀ j < 8, localAt s (A j) (gatherShape .n32).1 = true) ∧
    (∀ j < 8, ∀ i < j, (A i).toNat / 8 ≠ (A j).toNat / 8 → bankOf (A i).toNat ≠ bankOf (A j).toNat) ∧ s.frame.ctx ≠ 0 := by decide
theorem witness_LocalAtomics :
    (LocalAt (accessing 0x100 5 6 []) 0x100 8 ∧ LocalAt (accessing 0x104 5 6 []) 0x104 4) ∧
    isAtomic (.aadd 3 1 2 false) = true ∧ ((5 : DWord) ≠ 6) ∧
    (let c := core01 Ctx.resetC0 (worker [])
     c.stopsAt 1 (.aadd 3 1 2 false) 0x100 5 0 = none ∧ { c with poison := [0x100] }.stopsAt 1 (.aadd 3 1 2 false) 0x100 5 0 = some (0x1D, 0x100) ∧
      { c with launches := [{ launch1 with own := 0 }] }.stopsAt 1 (.aadd 3 1 2 false) 0x100 5 0 = some (0x06, 0x100)) :=
  ⟨⟨localAt_sound (by decide), localAt_sound (by decide)⟩, rfl, by decide, by decide⟩

/-- As launch1, with physical core 5 as logical core 1. -/
def core05 (x0 x1 : Ctx) : Core := { core01 x0 x1 with launches := [{ launch1 with map := [0, 5], reach := 2 }] }
/-- Context 1 of core 0 issues, with a relaxed L operation or not. -/
def two (xs : Sparse DWord) (rx : Bool) : State := issuing (core05 Ctx.resetC0 (worker xs)) 1 (if rx then 0x40 else 0)
/-- The first and the last word of logical core 1. -/
theorem witness_RemoteAccessParks :
    let s := two [(1, 0x8000000100000000)] false
    let A := effImm (s.rx 1) 0
    let Z : DWord := 0x800000010006FFE0
    WorkerIssues s ∧ hdrRx s.frame.hdr = false ∧
    A.getLsbD 63 = true ∧ A.getLsbD 62 = false ∧ remoteForm A = true ∧ s.here.target s.frame.ctx A = some 5 ∧ laddrOf A < 0x70000 ∧
    laddrOf A % 32 = 0 ∧ remoteForm Z = true ∧ s.here.target s.frame.ctx Z = some 5 ∧ laddrOf Z < 0x70000 ∧ laddrOf Z % 32 = 0 ∧
    (bitWord (s.rx 1) (s.rx 2)).1 = A ∧ laddrOf A + 8 < 0x70000 := by unfold WorkerIssues Issues; decide
/-- A relaxed load under way, sent to another core. -/
def far (id : Nat) : Relaxed := ⟨id, .ld64 5 1 0, 0, 0, 0x8000000100000000, 0, 0, 0, true, true, false, 0, false, none, 0, 0⟩
/-- A relaxed store to the local store that is not yet performed. -/
def near (id : Nat) : Relaxed := ⟨id, .st64 5 1 0, 0, 0, 0x100, 0, 7, 0, false, false, false, 0, false, none, 0, 0⟩
/-- A relaxed access to the local store, and to another core with seven and with eight outstanding; fences with nothing, with a local access and with a remote one. -/
theorem witness_RelaxedAccessAndFences :
    (let s := two [(1, 0x100)] true
     WorkerIssues s ∧ hdrRx s.frame.hdr = true ∧ (effImm (s.rx 1) 0).toNat < 0x80000 ∧
      s.here.reaches s.frame.ctx (effImm (s.rx 1) 0).toNat = true ∧ (effImm (s.rx 1) 0).toNat % 8 = 0 ∧ (s.rx 1).toNat % 8 = 0) ∧
    (∀ n ∈ [7, 8], let s := (two [(1, 0x8000000100000000)] true).onCur fun x => { x with relaxed := List.replicate n (far 3) }
      hdrRx s.frame.hdr = true ∧ remoteForm (s.rx 1) = true ∧ s.here.target s.frame.ctx (s.rx 1) = some 5 ∧ laddrOf (s.rx 1) % 8 = 0 ∧
      s.cur.outstanding = n) ∧
    ((two [] true).cur.relaxed = [] ∧ (two [] true).stagedOf ((two [] true).stagedNow 0 1) = false) ∧
    (let s := (two [] true).onCur fun x => { x with relaxed := [near 3] }
     let u := s.onHere fun c => c.performAllRelaxed s.now s.frame.core s.frame.ctx
     u.fenceClear 0 1 .waitm (s.stagedNow 0 1) = true ∧ ∀ r ∈ u.cur.relaxed, r.refused = none) ∧
    (let s := (two [] true).onCur fun x => { x with relaxed := [far 3] }
     let u := s.onHere fun c => c.performAllRelaxed s.now s.frame.core s.frame.ctx
     u.fenceClear 0 1 .waitm (s.stagedNow 0 1) = false) ∧
    -- A local access that waits behind an outstanding one in remote form to the same word holds back a later one of that form.
    (let r := { far 9 with a := 0x8000000000000100 }
     let l := [{ far 3 with a := 0x8000000000000100 }, near 4]
     (core01 Ctx.resetC0 (worker [])).relaxedHeld 0 1 l r = true ∧ (core01 Ctx.resetC0 (worker [])).relaxedHeld 0 1 [{ far 3 with a := 0x8000000000000100 }] r = false) := by
  unfold WorkerIssues Issues; decide
/-- P set; a core outside the reach; a remote address past the store's open part; odd ones; a bank not owned, the reserved area, and past the store. -/
theorem witness_AddressTraps :
    let s (a : DWord) : State := two [(1, a)] false
    let A (a : DWord) : DWord := effImm ((s a).rx 1) 0
    WorkerWhole (s 0) ∧
    ((A 0xC000000000000000).getLsbD 63 = true ∧ (A 0xC000000000000000).getLsbD 62 = true) ∧
    ((A 0x8000000200000000).getLsbD 62 = false ∧ remoteForm (A 0x8000000200000000) = true ∧ (s 0).here.target 1 (A 0x8000000200000000) = none) ∧
    (remoteForm (A 0x8001000100000000) = false) ∧ (0x70000 ≤ laddrOf (A 0x8000000100070000)) ∧
    (remoteForm (A 0x8000000100000001) = true ∧ (s 0).here.target 1 (A 0x8000000100000001) ≠ none ∧
      laddrOf (A 0x8000000100000001) % 2 ≠ 0) ∧
    ((A 0x80000).getLsbD 63 = false ∧ 0x80000 ≤ (A 0x80000).toNat) ∧ ((A 0x70000).getLsbD 63 = false ∧ (s 0).here.reaches 1 0x70000 = false) ∧
    ((A 1).toNat < 0x80000 ∧ (s 0).here.reaches 1 (A 1).toNat = true ∧ (A 1).toNat % 2 ≠ 0) := by unfold WorkerWhole; decide
theorem witness_VectorFloatResults : WorkerIssues (w1 []) := by unfold WorkerIssues Issues; decide
/-- The bounds of each range of R177, and powers of two. -/
theorem witness_VectorCompareReduceResults :
    WorkerIssues (w1 []) ∧ (0x7F800000 < 0x7F800001 % 2 ^ 31 ∧ 0x43000000 ≤ 0x43000000 ∧ 0xC3160000 < 0xC3160001 ∧ 0x80000000 < 0x80000001) ∧
    0x42FE0000 = (ffF32.ofInt false .rne ((127 : Nat) : Int)).1 ∧ 0xC2FC0000 = (ffF32.ofInt false .rne (-((126 : Nat) : Int))).1 ∧
    0x7F000000 = 254 * 2 ^ 23 ∧ 0xFE800000 % 2 ^ 31 = 253 * 2 ^ 23 ∧ (1 ≤ 0x80200000 % 2 ^ 31 ∧ 0x80200000 % 2 ^ 31 ≤ 0x00200000) ∧ 253 % 2 = 1 :=
  ⟨by unfold WorkerIssues Issues; decide, by decide, by decide +kernel, by decide +kernel, rfl, rfl, by decide, rfl⟩
/-- The widest immediate shift of each lane width. -/
theorem witness_VectorIntegerResults :
    WorkerIssues (w1 []) ∧ (7 : BitVec 6).toNat < IntTy.i8.width ∧ (63 : BitVec 6).toNat < IntTy.i64.width ∧
    BitKind.clz ∈ [BitKind.clz, .ctz] := by unfold WorkerIssues Issues; decide
/-- The last lane, and a slide by all lanes. -/
theorem witness_VectorPermuteResults :
    WorkerIssues (w1 []) ∧ (31 : BitVec 5).toNat < IntTy.i8.lanes ∧ (3 : BitVec 5).toNat < IntTy.i64.lanes ∧
    (32 : BitVec 6).toNat ≤ IntTy.i8.lanes := by unfold WorkerIssues Issues; decide
/-- The last position of a byte format beside 32-bit lanes, and of one beside 16-bit lanes; a block with a NaN, and one of zeros. -/
theorem witness_VectorConversionResults :
    WorkerIssues (w1 []) ∧ ((3 : BitVec 2).toNat + 1) * FpTy.f32.lanes * unitWidth .e4m3 ≤ 256 ∧
    ((1 : BitVec 2).toNat + 1) * FpTy.f16.lanes * unitWidth .e5m2 ≤ 256 ∧ Fmt.isElem .e2m1 = true ∧
    quantInvalid .e4m3 ((w1 []).quantBlock 2) = false ∧ quantInvalid .e2m1 ((gathering 0 0x7FC07FC0).quantBlock 2) = true := by
  unfold WorkerIssues Issues; decide

/-! ### Commands -/

/-- A command of context 1 that entered second. -/
def cmd (i : Instr) (a b c : DWord) : Cmd := ⟨7, 1, some 1, i, 0, a, b, c, 0x1000, 0, 1, 0, 0, 0, [], 0, none, 0, [], 0, 0, 0, false, none⟩
/-- The tiles of MMA: A, B and scales in x1, x2 and x3. -/
def tiles8 : Tiles := ⟨.e4m3, .e4m3, 1, 2, 3, .e8m0⟩
/-- A queue with room and a full one; commands with and without regions whose checks pass; nothing to wait for, and an earlier command. -/
theorem witness_MatrixCommandsAreQueued :
    let s := w1 [(1, 0x1000), (2, 0x21000), (3, 0x41000)]
    let full := s.onHere fun c => { c with mq := List.replicate 16 (cmd (.mclr 2 ⟨false, 0⟩) 0 0 0) }
    WorkerIssues s ∧ s.matrixCheck (.mma 2 tiles8 ⟨false, 0⟩) (s.rx 1) (s.rx 2) (s.rx 3) = none ∧
    s.matrixCheck (.mtrn 2 ⟨true, 16⟩) 0 0 0 = none ∧ s.here.mq.length < 16 ∧ (s.dispatch true).here.hazardRoom 3 = true ∧
    s.here.mwait ++ s.here.ewait = [] ∧ WorkerIssues full ∧ full.matrixCheck (.mclr 2 ⟨false, 0⟩) 0 0 0 = none ∧ full.here.mq.length = 16 ∧
    s.here.msyncWaits 1 8 0 = false ∧ full.here.msyncWaits 1 8 0 = true :=
  ⟨⟨Or.inr ⟨rfl, rfl⟩, by decide⟩, by decide +kernel, by decide, by decide, by decide +kernel, rfl, ⟨Or.inr ⟨rfl, rfl⟩, by decide⟩, by decide,
    by decide, by decide, by decide +kernel⟩
/-- MRD at the highest address of its block of rows; MRDV with its register owed. -/
theorem witness_MatrixCommandResults :
    (cmd (.mma 2 tiles8 ⟨false, 0⟩) 0x1000 0x21000 0x41000).op = .mma 2 tiles8 ⟨false, 0⟩ ∧ (cmd (.mseq 2 tiles8 true 3 ⟨false, 0⟩) 0 0 0).step = 0 ∧
    (let k := cmd (.mrd 2 1 2 3 true .f32 ⟨false, 0⟩) (0x70000 - 16 * 128) 128 0
     laddrOf k.a + 15 * pitchOf .f32 k.b + rowBytes .f32 = 0x70000 ∧ rowBytes .f32 ≤ pitchOf .f32 k.b) ∧
    (let k := cmd (.mrdv 2 1 5 ⟨false, 0⟩) 63 0 0
     let w : Write := ⟨.v 1 5, .word 0, 1, 0, none, 7, []⟩
     w.id = k.id ∧ w.due = none ∧ w.dst = .v k.ctx 5) := by decide
/-- Core 0 with a matrix command of context 1 in its queue, and accumulator 2 claimed or not. -/
def mState (k : Cmd) (claimed : Bool) : State :=
  { State.reset with now := 32, cores := [(0, { core01 Ctx.resetC0 { worker [] with ran := true } with
      mq := [k], claims := if claimed then [(2, 1)] else [] })] }
theorem witness_MatrixUnitEvents :
    (let k := cmd (.mclr 2 ⟨false, 0⟩) 0 0 0
     let s := (mState k true).onCore 0 fun c => { c with mq := [], mwait := [k] }
     (s.core 0).firstWaiting k.ctx true = some k ∧
      (s.core 0).mq.length < 16 ∧ ((s.core 0).tryEnter k).entered k = true ∧
      (let j := { k with foot := [⟨0, 8, false⟩] }
       (s.core 0).entered j = false ∧ (s.core 0).roomFor j = true)) ∧
    (let k := cmd (.mclr 2 ⟨false, 0⟩) 0 0 0
     let c := (mState k true).core 0
     cmdOf c.mq k.id = some k ∧ c.freeWinner 32 = some k ∧ c.notPerformable k = none ∧
      (accOf k.op, k.ctx) ∉ ((mState k false).core 0).claims) ∧
    (let k := cmd (.mclr 2 ⟨true, 32⟩) 0 0 0
     let c := (mState k true).core 0
     cmdOf c.mq k.id = some k ∧ c.timedWinner 32 = some k ∧
      cmdOf (c.mq ++ c.mwait ++ c.mflight) k.id = some k ∧ { c with munit := 33 }.startRefused 32 k = true) ∧
    (let k := { cmd (.mseq 2 tiles8 true 3 ⟨false, 0⟩) 0 0 0 with step := 1 }
     let c := { (mState k true).core 0 with mq := [], mflight := [k] }
     cmdOf c.mflight k.id = some k ∧ c.stepDue 32 k = true ∧ k.timed = false) ∧
    (let k := { cmd (.mclr 2 ⟨false, 0⟩) 0 0 0 with started := some 0, until_ := 31 }
     let c := { (mState k true).core 0 with mq := [], mflight := [k] }
     cmdOf c.mflight k.id = some k ∧ k.started.isSome = true ∧ k.until_ ≤ 32 ∧ k.stepsLeft = 1 ∧ k.ctx < 16) := by
  refine ⟨?_, ?_, ?_, ?_, ?_⟩ <;> decide +kernel

/-- Strand core 0x8000 with a link channel 7 of port 0. -/
def strandState : State :=
  let c := { core01 Ctx.resetC0 (worker [(1, 0x1000), (3, 7)]) with launches := [{ launch1 with map := [0x8000], chans := [(7, 0, 64, false)] }] }
  { State.reset with cores := [(0x8000, c)], frame := { Frame.reset with core := 0x8000, ctx := 1, addr := 0x1000, len := 10 } }
/-- A core whose launch owns its cove and whose link table sends channel 7 in slot 8 and delivers channel 9 in slot 12. -/
def ownerState (xs : Sparse DWord) : State :=
  let s := issuing { core01 Ctx.resetC0 (worker xs) with
    period := 16, routes := [(8, 2 ^ 40 + 7 * 2 ^ 24), (12, 2 ^ 41 + 9 * 2 ^ 32)] } 1 0
  { s with coves := [(0, { Cove.reset with owner := some (0, 1) })] }
/-- An engine's bits: tag 63, started when accepted. -/
def eng : Eng := ⟨63, none, ⟨false, 0⟩⟩
theorem witness_EngineCommandsAreQueued :
    (let s := w1 [(1, 0x1000), (2, 0x2000), (3, 8)]
     Issues s ∧ s.copyCheck (.cpyi 1 2 3 true eng) 0x1000 0x2000 8 = none ∧ s.copyCheck (.cpyo 1 2 3 true eng) 0x2000 0x1000 8 = none ∧
      s.copyCheck (.cpyl 1 2 3 eng) 0x1000 0x2000 8 = none ∧
      s.wordCheck 0x1000 (s.passedCheck eng.start none) = none ∧ s.passedCheck eng.start none = none) ∧
    (let s := ownerState [(1, 0x1000), (2, 1), (3, 511)]
     Issues s ∧ s.sdCheck (.sdldCell 1 2 3 eng) 0x1000 1 511 = none ∧ s.sdCheck (.sdclpClamp 1 2 3 eng) 448 1 511 = none ∧
      s.sdCheck (.sdswp 2 0 true true eng) 4096 15 0 = none ∧ s.sdCheck (.sdcnt 1 2 3 true eng) 0x1000 508 4 = none ∧
      s.sdCheck (.sdbeta 1 2 eng) 0x1000 16 0 = none ∧
      s.localRegion 0x1000 64 64 (s.tidalCheck 7 true ⟨true, 24⟩ (s.passedCheck ⟨true, 24⟩ none)) = none ∧
      s.localRegion 0x1000 64 64 (s.tidalCheck 9 false ⟨true, 12⟩ (s.passedCheck ⟨true, 12⟩ none)) = none) ∧
    (let s := two [(1, 1), (2, 0x1000), (3, 64)] false
     (s.rx 1).getLsbD 16 = false ∧ 8 ≤ (s.rx 3).toNat ∧ (s.rx 3).toNat ≤ 64 ∧ (s.rx 3).toNat % 8 = 0 ∧
      (s.here.fieldTarget s.frame.ctx (s.rx 1)).isSome = true ∧ s.localRegion (s.rx 2) (s.rx 3).toNat 8 (s.passedCheck ⟨false, 0⟩ none) = none) ∧
    (let s := strandState
     Issues s ∧ kindOf s.frame.core = 2 ∧ (s.here.chanDecl s.frame.core s.frame.ctx (linkChan (s.rx 3))).isSome = true ∧
      s.localRegion (s.rx 1) (linkBytes (s.rx 3)) 64 (s.passedCheck eng.start none) = none ∧ linkBad (s.rx 3) false = false ∧
      linkBad 0x307 true = false) ∧
    (let s := (c0 [(1, 0), (2, 3), (3, 0x1000)] Ctx.reset).onHere fun c => { c with pool := [(3, saved)] }
     Issues s ∧ s.frame.ctx = 0 ∧ s.rx 2 ≠ 0 ∧ (s.rx 2).toNat ≤ 2048 ∧ badLine (s.rx 1) = false ∧ s.passedCheck eng.start none = none ∧
      s.here.movcTarget s.frame.core (s.rx 1) = true ∧ (find s.here.pool ((s.rx 2).toNat % 4)).isSome = true ∧
      s.localRegion (s.rx 3) 2048 32 (s.passedCheck eng.start none) = none) := by
  unfold Issues; refine ⟨?_, ?_, ?_, ?_, ?_⟩ <;> decide +kernel
/-- Tag 63 set; tag 0 outstanding, set, and dead; room and no room in the hazard table. -/
theorem witness_FootAndTagWaits :
    (let s := w1 [(1, 0x1000), (2, 8)]
     Issues s ∧ isRemote (s.rx 1) = false ∧ s.rx 2 ≠ 0 ∧ (s.rx 2).toNat ≤ 524288 ∧ s.cur.foot.length < 2 ∧ s.here.hazardRoom 1 = true ∧ s.footTarget = none ∧
      Core.regionFault 1 none 0x1000 8 = none ∧
      (s.onHere fun c => { c with hazards := List.replicate 32 ⟨1, 0, 0, ⟨0, 8, false⟩⟩ }).here.hazardRoom 1 = false) ∧
    (let k := { cmd (.mma 2 tiles8 ⟨false, 0⟩) 0 0 0 with foot := [⟨0, 8, false⟩] }
     let s : State := { (w1 []).onHere (fun c => { c with mq := [k] }) with frame := { (w1 []).frame with cmds := [7] } }
     s.footTarget = some 7 ∧ s.here.hazardRoom 1 = true) ∧
    (let s := (w1 [(1, 1)]).onCur fun x => { x with tagOut := [(0, 1)] }
     (∀ t < 64, (s.rx 1).getLsbD t = true → (s.tagsNow.getLsbD t = true ∨ look 0 s.cur.tagOut t ≠ 0)) ∧ s.tagsNow &&& s.rx 1 ≠ s.rx 1 ∧
      s.tagsNow &&& s.rx 1 = 0) ∧
    (let s := (w1 [(1, 0x8000000000000000)]).onCur fun x => { x with tags := 0x8000000000000000 }
     (∀ t < 64, (s.rx 1).getLsbD t = true → (s.tagsNow.getLsbD t = true ∨ look 0 s.cur.tagOut t ≠ 0)) ∧ s.tagsNow &&& s.rx 1 = s.rx 1 ∧
      s.tagsNow &&& s.rx 1 ≠ 0) ∧
    (let s := w1 [(1, 1)]
     s.frame.phase = .whole ∧ s.frame.guard = true ∧ (s.rx 1).getLsbD 0 = true ∧
      ∀ u < 64, (s.rx 1).getLsbD u = true → ¬(s.tagsNow.getLsbD u = true ∨ look 0 s.cur.tagOut u ≠ 0)) ∧
    (1 < 16 ∧ tagOf (.cpyi 1 2 3 true eng) = some 63 ∧ 63 < 64) := by
  unfold Issues; refine ⟨?_, ?_, ?_, ?_, ?_, ?_⟩ <;> decide +kernel
/-- Core 0 as above, with a ring 31 at 0x100, banks owned or busy, and an Emonef channel 3 from and to logical core 0 of depth 1. -/
def emState (l : List (List Byte)) : State :=
  { (w1 [(1, 0x1000)]).onHere (fun c => { c with emonef := true, msgs := l.map fun m => ⟨64, 0, 1, m⟩ }) with
    emDecls := [(259, (0, 0, 1))], emSent := if l = [] then [] else [(259, l.length)] }
theorem witness_MessagesBarriersAndBanks :
    (let s := (two [(1, 0x1000), (2, 5), (3, 0x8000000100000000)] false).onHere fun c => { c with rings := [(31, 0x100)] }
     Issues s ∧ isRemote (s.rx 1) = false ∧ Core.regionFault 1 (some (s.here.banksOf 1)) (s.rx 1) 8 = none ∧ (s.rx 1).toNat % 8 = 0 ∧ isOrdinary s.frame.core = true ∧ (s.here.ring (31 : BitVec 5).toNat).isSome = true ∧
      (3 : SReg) ≠ 0 ∧ isPhys (s.rx 3) = false ∧ isRemote (s.rx 3) = true ∧ remoteForm (s.rx 3) = true ∧ laddrOf (s.rx 3) = 0 ∧
      s.here.target 1 (s.rx 3) = some 5 ∧ localAt s (s.rx 1) 8 = true ∧ condHolds .eq (s.here.word 0x1000) (s.rx 2) = false ∧
      condHolds .ne (s.here.word 0x1000) (s.rx 2) = true ∧ s.here.bankrReady 1 0xFFFF = true) ∧
    (let s := (w1 [(1, 1)]).onHere fun c => { c with claims := [(2, 1)], mflight := [{ cmd (.mrd 2 1 2 3 true .f32 ⟨false, 0⟩) 0 128 0 with
        started := some 0, foot := [⟨0, 2048, true⟩] }] }
     s.here.bankrReady 1 1 = false ∧ (s.here.takeBanks 1 1).banksOf 1 &&& 1 = 1) ∧
    (let c := { core01 Ctx.resetC0 (worker []) with launches := [{ launch1 with own := 0, claim := 0 }] }
     (c.takeBanks 1 1).banksOf 1 &&& 1 ≠ 1) ∧
    (let s := emState []
     s.here.emonef = true ∧ s.emCheck (s.rx 1) 3 true = none ∧ s.emCheck (s.rx 1) 3 false = none ∧ s.emKey 0 1 3 = 259 ∧
      s.emRoom 259 = true ∧ s.emNext 0 259 = none ∧ (s.emDecl 259).isSome = true ∧ s.here.physOfLogical 1 0 = some 0) ∧
    (let s := emState [List.replicate 64 0]
     s.emRoom 259 = false ∧ s.emNext 0 259 = some ⟨64, 0, 1, List.replicate 64 0⟩ ∧ (List.replicate 64 (0 : Byte)).length = 64) ∧
    (let s := w1 [(1, 0x1000)]
     s.here.ring (31 : BitVec 5).toNat = none ∧ s.frame.phase = .whole ∧ s.frame.guard = true) := by
  unfold Issues; refine ⟨?_, ?_, ?_, ?_, ?_, ?_⟩ <;> decide +kernel

/-! ### Tasks, C0's queues and code store, requests and waits -/

/-- A task record whose entry is an address. -/
def rec (e : DWord) : TaskRec := ⟨e, 4, 5, 6, 7, 0⟩
/-- An operation held for the end of its turn. -/
def held (i : Instr) (a : DWord) : TurnOp := ⟨1, 4, i, 0, a, 0, 0, 4, 5, 6, 7, 0x1000, 0, 3⟩
/-- Core 0 with a deque, a spill chain and the low word of a join record at 0x100. -/
def taskState (d : List TaskRec) (chain : DWord) (ls : List Host.Cell) : State :=
  (wm [] ls).onCore 0 fun c => { c with deque := d, chain := chain }
/-- Empty, one-record and full deques; join counts 0, 1 and 2; a local and a remote join; a steal with and without candidates; a spawn. -/
theorem witness_TaskOperations :
    (let s := two [(1, 0x2000), (2, 0x8000000100000000)] false
     Issues s ∧ badTarget (s.rx 1) = false ∧ s.frame.ctx ≠ 0 ∧ s.joinCheck (s.rx 1) = none ∧ isRemote (s.rx 1) = false ∧
      s.joinCheck (s.rx 2) = none ∧ isRemote (s.rx 2) = true ∧ s.here.target 1 (s.rx 2) = some 5) ∧
    (let s := two [(1, 1), (2, 0x2000), (3, 64)] false
     s.rx 1 ≠ 0 ∧ (s.rx 3).toNat ≤ 64 ∧ (s.rx 1).getLsbD 16 = false ∧ badTarget (s.rx 2) = false ∧ s.here.fieldTarget 1 (s.rx 1) = some 5) ∧
    (let c := { core01 Ctx.resetC0 (worker []) with launches := [{ launch1 with map := [0, 1] }] }
     c.stealOrder 0 1 1 = [1]) ∧ (core01 Ctx.resetC0 (worker [])).stealOrder 0 1 64 = [] ∧
    (let s := taskState (List.replicate 63 (rec 0x2000)) 0 []
     (held (.fork 1) 0x2000).op = .fork 1 ∧ (s.core 0).deque.length < 64 ∧ (s.core 0).deque = List.replicate 62 (rec 0x2000) ++ [rec 0x2000] ∧
      badTarget (rec 0x2000).entry = false) ∧
    64 ≤ ((taskState (List.replicate 64 (rec 0x2000)) 0 []).core 0).deque.length ∧
    ((taskState [] 0 []).core 0).chain = 0 ∧ ((taskState [] 0x3000 []).core 0).chain ≠ 0 ∧
    (let n (ls : List Host.Cell) : BitVec 32 := (((taskState [] 0 ls).core 0).word 0x100).setWidth 32
     2 ≤ (n [(0x100, 2)]).toNat ∧ n [(0x100, 1)] = 1 ∧ n [] = 0) ∧
    (let k := (taskState [] 0 []).core 0
     let l := (joinWords 0x100).1.map fun w => (w, 8)
     k.lostBank 1 l = none ∧ ({ k with launches := [{ launch1 with own := 0 }] }.lostBank 1 l).isSome = true) := by
  unfold Issues
  refine ⟨?_, ?_, ?_, ?_, ?_, ?_, ?_, ?_, ?_, ?_⟩ <;> decide +kernel
/-- C0 with its ready queue: levels of none, one, fifteen and sixteen values. -/
def readyState (l : List (List DWord)) (d : List TaskRec) (ls : List Host.Cell) (chain : DWord) : State :=
  (c0 [(1, 0x1000), (2, 1)] Ctx.reset).onHere fun c => { c with ready := l, deque := d, ls := ls, chain := chain }
theorem witness_ReadyQueueAndCodeStore :
    (let s := readyState [[], [7], List.replicate 15 3, []] [] [] 0
     C0Issues s ∧ s.here.ready.length = 4 ∧ (s.here.readyAt 2).length < 16 ∧ s.here.readyAt 1 = 7 :: [] ∧ (5 : SReg) ≠ 6) ∧
    (let s := readyState [[9], [], [], []] [] [] 0
     s.here.readyAt 0 = 9 :: [] ∧ ∀ j < 4, 0 < j → s.here.readyAt j = []) ∧
    16 ≤ ((readyState [[], List.replicate 16 3, [], []] [] [] 0).here.readyAt 1).length ∧
    (∀ j < 4, (readyState [[], [], [], []] [] [] 0).here.readyAt j = []) ∧
    (let s := readyState [[], [], [], []] (List.replicate 64 (rec 0x2000)) [] 0
     isRemote (s.rx 1) = false ∧ Core.regionFault 0 (some (s.here.banksOf 0)) (s.rx 1) 1568 = none ∧ (s.rx 1).toNat % 32 = 0 ∧
      s.here.deque.length = 64 ∧ s.here.deque ≠ []) ∧
    (let s := readyState [[], [], [], []] [] [(0x3008, 32)] 0x3000
     s.here.deque = [] ∧ s.here.chain ≠ 0 ∧ (s.here.word (laddrOf s.here.chain + 8)).toNat = 32) ∧
    (let s := readyState [[], [], [], []] [] [] 0
     (s.rx 2).toNat ≤ 2048 ∧ badLine (s.rx 1) = false ∧ s.now + 256 ≤ (s.rx 1).toNat ∧
      (s.ctx s.frame.core 0).base % 16 = (s.rx 1).toNat % 16 ∧ (s.ctx s.frame.core 0).base ≤ 16 * 2 ^ 60 ∧ s.here.retide = none) := by
  unfold C0Issues Issues
  refine ⟨?_, ?_, ?_, ?_, ?_, ?_, ?_⟩ <;> decide +kernel

/-- Packet 3 from context 1 of core 5 to core 0, accepted at cycle 2, for address 0x100. -/
def pkt (b : Body) : Packet := ⟨3, 5, 1, 0, 0x100, b, 0, some 2, 0, 0, some 1, none, [], 0, 0, false⟩
/-- Cycle 4, with that packet; core 0 is in the launch, with memory, empty words and a ring 2 of one segment of two words. -/
def atOwner (b : Body) (ls : List Host.Cell) (e : List Nat) : State :=
  let c : Core := { core01 Ctx.resetC0 (worker []) with ls := ls, empties := e, rings := [(2, 0x100)] }
  { State.reset with now := 4, packets := [pkt b], cores := [(0, c)] }
/-- A ring at 0x100 with its one segment at 0x200, whose next is itself: CAP 2, RD and WR as given. -/
def ringWords (rd wr : Byte) : List Host.Cell :=
  [(0x101, 2), (0x109, 2), (0x201, 2), (0x208, 2)] ++ (if rd = 0 then [] else [(0x210, rd)]) ++ (if wr = 0 then [] else [(0x218, wr)])
/-- A request is ready for its port and no other packet has its name. -/
def ready (s : State) (k : Packet) : Bool := s.portReady k && (match s.packet k.id with | some q => q.id == k.id && q.dst == k.dst | none => false)
theorem witness_RequestsAtTheirOwner :
    -- An access performed, one that waits, one of a launch that the core is not in, and all 32 watch slots taken.
    (let k := pkt (.access (.ldf 5 1 0) 0 0)
     let s := atOwner k.body [] []
     let e := atOwner k.body [] [0x100]
     ready s k = true ∧ s.refuses k (.ldf 5 1 0) 0 = false ∧ ((s.core 0).access (.ldf 5 1 0) 0x100 0 0 0).isSome = true ∧
      ready e k = true ∧ ((e.core 0).access (.ldf 5 1 0) 0x100 0 0 0).isNone = true ∧ (e.core 0).freeWatch = some 0 ∧
      s.refuses { k with launch := some 2 } (.ldf 5 1 0) 0 = true ∧
      { e.core 0 with watches := (upTo 32).map fun n => ⟨n, k, 0⟩ }.freeWatch = none) ∧
    (let k := pkt (.signal .add 5)
     ready (atOwner k.body [] []) k = true ∧ (atOwner k.body [] []).refuses k (.st64 0 0 0) 0 = false) ∧
    (let k := pkt (.ringPush 2 7)
     let s (wr : Byte) := atOwner k.body (ringWords 0 wr) []
     ready (s 0) k = true ∧ (s 0).ringRefused k = false ∧
      ((s 0).onCore 0 fun c => { c with launches := [{ launch1 with own := 0 }] }).ringRefused k = true ∧ ((s 0).core 0).ring 2 = some 0x100 ∧ (((s 1).core 0).ringPush 0x100 7).isSome = true ∧
      (((s 2).core 0).ringPush 0x100 7).isNone = true ∧ 2 ∉ ((s 2).core 0).ringTold) ∧
    (let k := pkt (.ringPop 2)
     let s (wr : Byte) := atOwner k.body (ringWords 0 wr) []
     ready (s 0) k = true ∧ (s 0).ringRefused k = false ∧
      ((s 0).onCore 0 fun c => { c with launches := [{ launch1 with own := 0 }] }).ringRefused k = true ∧ (((s 1).core 0).ringPop 0x100).isSome = true ∧ (((s 0).core 0).ringPop 0x100).isNone = true) ∧
    (let k := pkt .join
     let s (n : Byte) := atOwner k.body (if n = 0 then [] else [(0x100, n)]) []
     ready (s 2) k = true ∧ (s 2).joinRipe k = true ∧ (∀ j < 6, (s 2).refuses (k.at_ j) (.st64 0 0 0) 0 = false) ∧
      (let j := { k with launch := some 2 }
       (s 2).joinRipe j = true ∧ (s 2).refuses (j.at_ 0) (.st64 0 0 0) 0 = true) ∧ (((s 1).core 0).join 0x100).isOk = true ∧ (((s 0).core 0).join 0x100).isOk = false ∧
      ({ (s 1).core 0 with deque := List.replicate 64 (rec 0x2000) }.join 0x100).isOk = false) ∧
    (let k := pkt .steal
     k.ripe 4 = true ∧ k.accepted.isSome = true ∧
      -- A steal of its own answered by a record, and by none with a further candidate and without one.
      (let w (b : DWord) : Park := ⟨.eddy, .steal 1 3, 0, 1, 0x1000, b, 0, 0, 0, 0, 9, false, .waiting, 0, []⟩
       let s (b : DWord) := (atOwner k.body [] []).onCtx 0 1 fun x => { x with st := .park, parks := [w b] }
       (s 1).responder 0 9 = 0 ∧ ((s 1).core 0).waiter 9 = some 1 ∧
        (firstOf (fun q => q.id == 9 && q.ended == .waiting) ((s 1).ctx 0 1).parks).isSome = true ∧
        nth ({ (s 2).core 0 with launches := [{ launch1 with map := [0, 1] }] }.stealOrder 0 1 2) 0 = some 1 ∧ nth (((s 0).core 0).stealOrder 0 1 0) 0 = none ∧ badTarget (rec 0x2000).entry = false)) ∧
    (let k := pkt (.spawn 0x2000 1 3 4 5 6 7)
     let s := atOwner k.body [] []
     k.accepted.isSome = true ∧ (s.core 0).freeWorker = some 2 ∧
      { core01 Ctx.resetC0 (worker []) with ctxs := (upTo 16).map fun n => (n, worker []) }.freeWorker = none) ∧
    -- COUNT 1 and 256, and the last arrival.
    ((1 : DWord).toNat ≤ 256 ∧ (256 : DWord).toNat ≤ 256 ∧ 256 < (257 : DWord).toNat ∧ Barrier.reset.init = false ∧
      (let b : Barrier := ⟨2, 1, 7, true, []⟩
       b.init = true ∧ b.count = (2 : DWord).toNat ∧ (∀ w ∈ b.waiters, w.1.id ≠ State.reset.ids) ∧ b.arrived + 1 = b.count ∧ b.gen = (7 : DWord).setWidth 16 ∧ b.gen ≠ (8 : DWord).setWidth 16) ∧
      (let b : Barrier := ⟨2, 0, 7, true, []⟩
       b.arrived + 1 ≠ b.count)) ∧
    ((core01 Ctx.resetC0 (worker [])).takesMessage true = true ∧
      { core01 Ctx.resetC0 (worker []) with msgs := List.replicate 64 ⟨7, 0, 0, []⟩ }.takesMessage false = false) ∧
    (let k := { pkt .join with resend := some 4 }
     k.resend = some 4 ∧ (4 : Nat) ≤ 4) ∧
    (let k := { pkt .join with accepted := none, back := true, due := 4 }
     let s := { atOwner .join [] [] with packets := [k] }
     s.packet k.id = some k ∧ k.back = true ∧ k.path = [] ∧ k.due ≤ s.now) ∧
    (let w : Park := ⟨.eddy, .ld64 5 1 0, 0, 1, 0x1000, 0x8000000100000100, 0, 0, 0, 0, 9, false, .waiting, 0, []⟩
     let k : Packet := { pkt (.reply 9 (.value 77)) with due := 4, accepted := none }
     let s := (atOwner k.body [] []).onCtx 0 1 fun x => { x with st := .park, parks := [w] }
     Reply.val (.value 77) = some (.word 77) ∧ k.arrived s.now = true ∧ s.responder 0 9 = 0 ∧ (s.core 0).waiter 9 = some 1 ∧
      (firstOf (fun q => q.id == 9 && q.ended == .waiting) (s.ctx 0 1).parks).isSome = true) ∧
    (let k := pkt (.access (.ldf 5 1 0) 0 0)
     let s := (atOwner k.body [] []).onCore 0 fun c => { c with watches := [⟨6, k, 2⟩] }
     (firstOf (fun w => w.slot == 6 && w.retest == 2) (s.core 0).watches).isSome = true ∧ (s.core 0).portFree (k.words (s.core 0)) = true ∧
      k.dst = 0 ∧ (((s.core 0).takePort (k.words (s.core 0))).access (.ldf 5 1 0) k.laddr 0 0 0).isSome = true) := by
  refine ⟨?_, ?_, ?_, ?_, ?_, ?_, ?_, ?_, ?_, ?_, ?_, ?_, ?_⟩ <;> decide +kernel
/-- A wait of context 1 at core 0, counted 5 turns. -/
def wait (k : ParkKind) (i : Instr) (a b : DWord) : Park := ⟨k, i, 0, 1, 0x1000, a, b, 0, 0, 5, 9, false, .waiting, 0, []⟩
/-- Cycle 40, context 1 of core 0 in PARK with that wait. -/
def waiting (k : Park) (e : List Nat) : State :=
  { State.reset with now := 40, cores := [(0, { core01 Ctx.resetC0 { worker [] with st := .park, parks := [k] } with empties := e })] }
/-- Cycle 40, core 0 with commands. -/
def engines (eq ewait eflight : List Cmd) : State :=
  { State.reset with now := 40, cores := [(0, { core01 Ctx.resetC0 { worker [] with ran := true } with eq := eq, ewait := ewait, eflight := eflight })] }
theorem witness_WaitsAndEngineCommands :
    (let r := near 3
     let s := (waiting (wait .fence .waitm 0 0) []).onCtx 0 1 fun x => { x with relaxed := [r] }
     (firstOf (fun q => q.id == r.id) (s.ctx 0 1).relaxed).isSome = true ∧ (s.core 0).relaxedReady s.now 0 1 r = true ∧ (s.core 0).stopsAt 1 r.op (laddrOf r.a) r.b r.idx = none ∧
      { s.core 0 with poison := [0x100] }.stopsAt 1 (.ld64 5 1 0) (laddrOf r.a) r.b r.idx = some (0x1D, 0x100) ∧
      ((s.core 0).ownAccess 0 1 r.op ⟨r.a, r.b, r.data, r.idx⟩).isSome = true) ∧
    (let k := wait .retry (.ldf 5 1 0) 0x100 0
     let s (e : List Nat) := waiting k e
     ((s []).core 0).stopsAt 1 k.op (laddrOf k.a) k.b 0 = none ∧ { (s []).core 0 with poison := [0x100] }.stopsAt 1 k.op (laddrOf k.a) k.b 0 = some (0x1D, 0x100) ∧
      1 < 16 ∧ ((s []).ctx 0 1).st = .park ∧ ((s []).ctx 0 1).parks.length = 1 ∧ k.ended = .waiting ∧ k.kind = .retry ∧
      (((s [0x100]).core 0).ownAccess 0 1 k.op ⟨k.a, k.b, 0, 0⟩).isNone = true ∧
      (((s []).core 0).ownAccess 0 1 k.op ⟨k.a, k.b, 0, 0⟩).isSome = true ∧ felimTrap k = some (0x0C, 0x100) ∧ k.cancelled = false ∧
      ((s []).ctx 0 1).felim = 0x1000 ∧ k.turns < 0x1000 ∧ (s []).packet 9 = none) ∧
    (let x : Ctx := { worker [] with check := 0x50000 }
     { waiting (wait .eddy (.ldf 5 1 0) 0x100 0) [] with packets := [{ pkt .join with id := 9, resend := some 50 }] }.packet 9 ≠ none ∧ ({ pkt .join with id := 9, back := true } : Packet).back = true ∧ x.felim = 5 ∧ x.felim ≤ (wait .retry (.ldf 5 1 0) 0x100 0).turns ∧ (wait .eddy (.ldf 5 1 0) 0x100 0).kind = .eddy) ∧
    (let k := wait .retry (.rpop 5 6 0 31) 0 80
     rpopLimit k.b = some 5 ∧ 5 ≤ k.turns ∧ k.kind ≠ .eddy ∧ k.cancelled = false) ∧
    (let k := wait .bank (.bankr 1) 1 0
     let s := waiting k []
     (keys (s.core 0).ctxs).filter (fun m => m == 1) = [1] ∧ (∀ m ∈ keys (s.core 0).ctxs, m ≠ 1 → (s.ctx 0 m).st ≠ .park) ∧
      (s.core 0).bankrReady 1 1 = true ∧ ((s.core 0).takeBanks 1 1).banksOf 1 &&& 1 = 1) ∧
    (let k := wait .ercv (.ercv 1 5 7) 0x100 0
     let s := (waiting k []).onCore 0 fun c => { c with msgs := [⟨7, 0, 0, List.replicate 16 1⟩] }
     ((s.core 0).ercvWait 1).isSome = true ∧ (s.core 0).portFree [ercvAddr k] = true ∧ (s.core 0).reachesAll 1 (ercvAddr k) 8 = true ∧
      { s.core 0 with launches := [{ launch1 with own := 0 }] }.reachesAll 1 (ercvAddr k) 8 = false ∧ 8 * (k.c.toNat + 1) < 16 ∧ 16 ≤ 8 * ((1 : DWord).toNat + 1)) ∧
    (let k := cmd (.sigs 1 2 .add eng) 0x100 5 0
     let s := engines [] [k] []
     (s.core 0).firstWaiting 1 false = some k ∧
      (s.core 0).eq.length < 32 ∧ ((s.core 0).tryEnter k).entered k = true ∧ (s.ctx 0 1).tagged ≤ 64) ∧
    (let k := cmd (.cpyi 1 2 3 true eng) 0x1000 0x2000 8
     let s := engines [k] [] []
     (cmdOf (s.core 0).eq 7).isSome = true ∧ (match s.engineFree 0 with | some q => q.id == 7 | none => false) = true) ∧
    (let k := cmd (.tsnd 1 7 ⟨true, 40⟩) 0x1000 0 0
     (match (engines [k] [] []).engineTimed 0 with | some q => q.id == 7 | none => false) = true ∧
      (engines [] [k] []).engineRefused 0 k = true ∧ isTidal k.op = true) ∧
    (let k := cmd (.cpyi 1 2 3 true ⟨63, none, ⟨true, 40⟩⟩) 0x1000 0x2000 8
     (engines [] [k] []).engineRefused 0 k = true ∧ isTidal k.op = false) ∧
    (let k := cmd (.sigs 1 2 .add eng) 0x100 5 0
     let s := engines [] [] [k]
     ((s.core 0).flight 7).isSome = true ∧ k.ctx < 16 ∧ isRemote k.a = false ∧ (s.core 0).portFree [0x100] = true ∧
      look 0 (s.ctx 0 1).tagOut 63 ≤ 1) ∧
    (let k := { cmd (.movc 1 2 3 eng) 5 3 2 with until_ := 40 }
     let s := (engines [] [] [k]).onCore 0 fun c => { c with pool := [(3, saved)] }
     ((s.core 0).flight 7).isSome = true ∧ k.until_ ≤ s.now ∧ k.ctx < 16 ∧ (find (s.core 0).pool (k.b.toNat % 4)).isSome = true ∧
      (s.core 5).entryFree 2 = true ∧ (s.core 0).entryFree 3 = false) ∧
    (let s := (engines [] [] []).onCore 0 fun c => { c with swapping := [⟨1, 2, none, some .run, 40, []⟩] }
     (firstOf (fun q => q.ctx == 1) (s.core 0).swapping).isSome = true ∧ (40 : Nat) ≤ s.now ∧ (s.core 0).mflight = []) ∧
    (let s := (engines [] [] []).onCore 0 fun c => { c with resuming := [(3, 9, 40)], pool := [(3, saved)] }
     firstOf (fun r => r.1 == 3) (s.core 0).resuming = some (3, 9, 40) ∧ (find (s.core 0).pool 3).isSome = true ∧ (40 : Nat) ≤ s.now ∧
      saved.retided = false) := by
  refine ⟨?_, ?_, ?_, ?_, ?_, ?_, ?_, ?_, ?_, ?_, ?_, ?_, ?_, ?_⟩ <;> decide +kernel

/-! ### Copies, coves, routers and link channels -/

/-- A launch on core 0 with roots at 0x10000 and 0x20000, running. -/
def rootLaunch : Launch where
  id := 1
  queue := 0
  index := some 0
  stage := .running
  caddr := 0
  cval := 0
  mode := false
  count := 1
  reach := [0]
  engines := []
  base := 0
  entry := 0
  banks := 0xFFFF
  handover := 0
  period := 1
  tide := false
  contexts := []
  accs := []
  rings := []
  coves := []
  chans := []
  emChans := []
  loads := []
  tables := []
  notices := []
  deadline := none
  instant := none
  slack := none
  tenant := 0
  space := 7
  droot := 0x10000
  iroot := 0x20000
  loadFault := false
  grantedCores := [0]
  wheel := none
  x3 := 0
  x4 := 0
  x5 := 0
  x6 := 0
  x7 := 0
  seed := 0
  emonef := false
  classes := 3
  allowed := 0
  required := 0
  step := false
  c0entry := none
  code := []
  records := []
/-- A copy of one word from virtual address 0x5000 to local address 0x100 by context 1 of core 0. -/
def copy1 (st : CopyStage) : Copy :=
  ⟨7, 0, 1, some 1, .cpyi 1 2 3 false eng, 0x100, 0x5000, 8, entryOf 0, st, 40, none, [], [], [], [], [], [], 0, none⟩
/-- Cycle 40 with that copy, its quay core's service list and translation buffer, and words of Cliffstack. -/
def copying (k : Copy) (service : List Nat) (tlb : List Tlb) (cliff : List Host.Cell) : State :=
  let c := engines [] [] [{ cmd k.op k.a k.b k.c with until_ := 0 }]
  let h : Hub := { Hub.reset with launches := [rootLaunch] }
  { c with copies := [k], quays := [(entryOf 0, { Quay.reset with service := service, tlb := tlb })], cliff := cliff, hub := h }
/-- A leaf of 4 KiB at physical address 0x7000: V, LEAF, and R or not. -/
def leaf4k (r : Bool) : Tlb := ⟨7, false, 0x5000, 12, if r then 0x7007 else 0x7003, 0⟩
/-- A copy waits for room; a page missed, refused and granted; the last word; a line; the end. -/
theorem witness_CopiesMoveTheirWords :
    (let s := copying (copy1 .request) (List.replicate 127 9) [] []
     (s.copy 7).isSome = true ∧ (copy1 .request).due ≤ s.now ∧ (s.quay (entryOf 0)).service.length < 128 ∧
      128 ≤ ((copying (copy1 .request) (List.replicate 128 9) [] []).quay (entryOf 0)).service.length) ∧
    (let k := copy1 .queued
     let s (t : List Tlb) := copying k [7] t []
     ((s []).quay (entryOf 0)).service = k.id :: [] ∧ (s []).lookUp k k.touches k.pages = .miss [] 0x5000 ∧
      ((s []).rootOf k 0x5000).isSome = true ∧ (s [leaf4k true]).lookUp k k.touches k.pages = .all [(0x5000, 12, 0x7000)] ∧
      (match (s [leaf4k false]).lookUp k k.touches k.pages with | .refused c _ => c == 0x12 | _ => false) = true) ∧
    (let m : WordMove := ⟨3, 0, 0x100, 0, 5, 40⟩
     let k := { copy1 .moving with moves := [m] }
     let s := copying k [] [] []
     m.due ≤ s.now ∧ k.stage ≠ .ended ∧ k.toLocal = true ∧ (s.core 0).frozen = false ∧ (s.core 0).portFree [m.laddr] = true ∧
      (s.remoteSide k true).isSome = false ∧
      (s.remoteSide { k with a := 0x8000000000000100 } true).isSome = true ∧ s.refusesWord 0 0 (some 2) 0x100 = true ∧
      (let r : WordRead := { id := 3, core := 0, laddr := 0x100, dst := 0x7000, row := 0, quay := entryOf 0, due := 40 }
       let j := { k with op := .cpyo 1 2 3 true eng, moves := [], reads := [r] }
       firstOf (fun i => i.id == r.id) j.reads = some r ∧ (s.remoteSide j false).isSome = false ∧
        (s.remoteSide { j with b := 0x8000000000000100 } false).isSome = true)) ∧
    (let l (n : Nat) : WordMove := ⟨n, 0, 0x1000 + 8 * n, 0, 5, 40⟩
     let k := { copy1 .moving with next := 0x1000, moves := (upTo 8).map l }
     8 ≤ (k.moves.filter fun m => m.laddr / 64 * 64 == k.next && decide (m.due ≤ 40)).length ∧ k.next ∉ k.badLines ∧
      k.next ∈ { k with badLines := [0x1000] }.badLines) ∧
    (let k := copy1 .moving
     (copying k [] [] []).copyDone k = true ∧ (copying { k with drains := [8] } [] [] []).copyDone { k with drains := [8] } = false) ∧
    ({ copy1 .ended with fault := some (0x12, 5) }.fault = some (0x12, 5) ∧ ((copying (copy1 .ended) [] [] []).copyCmd (copy1 .ended)).ctx < 16) ∧
    -- A walk's first entry: unmapped, the next table, and an uncorrectable one; a last level's leaf.
    (let w : Walk := ⟨9, 0x10000, 7, false, 0x5000, 6, 0x10000, 0⟩
     let s (l : List Host.Cell) : State := { copying (copy1 .translating) [] [] l with walks := [w] }
     (firstOf (fun u => u.id == w.id) (s []).activeWalks).isSome = true ∧ (s []).badCode w.entryAddr = false ∧
      { s [] with cliffBad := [w.entryAddr / 32] }.badCode w.entryAddr = true ∧
      readEntry w.instr w.level ((s []).stackWord w.entryAddr) = .bad 1 ∧
      readEntry w.instr w.level ((s [(0x10000, 1), (0x10002, 3)]).stackWord w.entryAddr) = .next 0x30000 ∧
      readEntry false 0 0x7007 = .leaf 0x7007) ∧
    (let k := copy1 .moving
     let p : Piece := ⟨7, entryOf 0, [(0x7000, 0x100)], none, 0, 40⟩
     let s := (copying k [] [] []).onQuay (entryOf 0) fun u => { u with pieces := [p], grants := (1, 0, 0) }
     (s.quay (entryOf 0)).grants.1 ≠ 0 ∧ (s.headPiece (entryOf 0) false).isSome = true ∧ s.ripe (entryOf 0) p = true ∧ (s.copy 7).isSome = true ∧
      -- A piece of a CPYO before and after its word has come.
      (let m : WordMove := ⟨3, entryOf 0, 0x7000, 0, 5, 40⟩
       let j : Copy := { k with op := .cpyo 1 2 3 true eng }
       let o : Piece := ⟨7, entryOf 0, [(0x100, 0x7000)], none, 0, 40⟩
       j.writes = true ∧ (copying j [] [] []).ripe (entryOf 0) o = false ∧ (copying { j with moves := [m] } [] [] []).ripe (entryOf 0) o = true ∧
        m ∈ { j with moves := [m] }.gathered (entryOf 0) 0 (0x7000 / 256))) ∧
    (let w : Staged := ⟨0x7000, 5, [], 40⟩
     let v : Staged := ⟨0x7008, 6, [], 40⟩
     w.pa + 8 ≤ v.pa) ∧
    (let s := copying (copy1 .moving) [] [] []
     (s.nextGrant (entryOf 0) 9).1 = none) ∧
    (let p : Piece := ⟨7, entryOf 0, [(0x7000, 0x100)], none, 0, 40⟩
     let s := (copying (copy1 .moving) [] [] []).onQuay (entryOf 0) fun u => { u with pieces := [p] }
     (s.nextGrant (entryOf 0) 9).1 = some 0) ∧
    [((0x100 : Nat), (0x7000 : Nat)), (0x108, 0x7008)].Pairwise (fun v w => v.2 ≠ w.2) := by
  refine ⟨?_, ?_, ?_, ?_, ?_, ?_, ?_, ?_, ?_, ?_, ?_, ?_⟩ <;> decide +kernel
/-- Cycle t, cove 0 with a sweep that began at cycle 40. -/
def sweeping (t s : Nat) : State :=
  { engines [] [] [] with now := t, coves := [(0, { Cove.reset with sweep := some ⟨7, s, 2, 40, 0, false, false, [], [], []⟩ })] }
/-- Core 0 of the package with flits, and a link table of period 1. -/
def router (flits : List Flit) (entry : DWord) (eflight : List Cmd) : State :=
  (engines [] [] eflight).onCore 0 fun c => { c with flits := flits, routes := [(0, entry)] }
/-- Strand core of port 0 with channel 7, its link up with latency 64. -/
def linked (l : Link) (eflight : List Cmd) (out : List (Nat × Nat × Nat × List Byte)) : State :=
  let c := { core01 Ctx.resetC0 (worker []) with launches := [{ launch1 with map := [strandCore 0], chans := [(7, 0, 64, false)] }], eflight := eflight }
  let h : Hub := { Hub.reset with links := [(4, 0x1040)] }
  { State.reset with cores := [(strandCore 0, c)], hub := h, linkChans := [(7, l)], linkOut := out }
theorem witness_CoveTidalAndLinkEvents :
    (let k := cmd (.sdldCell 1 2 3 eng) 0x100 1 511
     let s := { engines [] [] [k] with coves := [(0, { Cove.reset with owner := some (0, 1), array := some (7, openEnd) })] }
     (s.sdLane 0 false).isSome = true ∧ k.sdNext = some 0x100 ∧ (s.core 0).portFree [0x100] = true ∧
      ((s.cove 0).applyRecord 0 k 0x7FFFF).isOk = true ∧ ((s.cove 0).applyRecord 0 k 0x80000).isOk = false ∧
      ¬ k.pos + 1 < k.b.toNat ∧ k.ctx < 16) ∧
    -- The first and the second sweep: their first cycle, the first and the last colour, the last cycle.
    (((sweeping 40 0).cove 0).sweep.isSome = true ∧ ((sweeping 80 1).cove 0).sweep.isSome = true ∧ (80 : Nat) = 40 + 40 * 1 ∧
      (44 : Nat) = 40 + 4 + 4 * 0 ∧ (72 : Nat) = 40 + 4 + 4 * 7 ∧ (79 : Nat) = 40 + 39 ∧ (0 + 1 : Nat) < 2 ∧ (2 : Nat) ≤ 1 + 1) ∧
    (let k := { cmd (.sdbeta 1 2 eng) 0x100 1 0 with until_ := 40 }
     let s := { engines [] [] [k] with coves := [(0, { Cove.reset with owner := some (0, 1) })] }
     (s.cove 0).owner = some (0, 1) ∧ ((s.core 0).flight 7).isSome = true ∧ k.until_ ≤ s.now ∧ tagOf k.op = some 63 ∧
      look 0 (s.ctx 0 1).tagOut 63 ≤ 1) ∧
    -- South from the local input; no output; a delivery with nothing posted, and one for a TRCV.
    (let f : Flit := ⟨40, 1, some (List.replicate 64 1)⟩
     let s := router [f] (1 * 2 ^ 6) []
     (s.core 0).flits = [f] ∧ f.cycle = s.now ∧ (∀ o ∈ [2, 3, 4, 5], routeField ((s.core 0).routeAt s.now) o = f.input ↔ o = 4) ∧
      tidalWay 0 4 = .core 32 ∧ (32 : Nat) ≠ 0 ∧ (∀ o ∈ [1, 2, 3, 4, 5], routeField 0 o ≠ f.input)) ∧
    (let f : Flit := ⟨40, 3, some (List.replicate 64 1)⟩
     let k := { cmd (.trcv 1 9 (some 63) ⟨true, 40⟩) 0x100 0 0 with started := some 40 }
     let s (l : List Cmd) := router [f] (2 ^ 41 + 9 * 2 ^ 32 + 3 * 2 ^ 12) l
     (((s []).core 0).delivered_ 40).isSome = true ∧ ((s []).core 0).eflight = [] ∧ k.started = some (s [k]).now ∧ k.pos = 0 ∧ k.ctx < 16 ∧
      f.data = some (List.replicate 64 1) ∧ (List.replicate 64 (1 : Byte)).length = 64 ∧ laddrOf k.a % 64 = 0 ∧
      ((s [k]).core 0).portFree ((upTo 8).map fun n => laddrOf k.a + 8 * n) = true) ∧
    (let s := (engines [] [] []).onCore 0 fun c => { c with retide := some 40 }
     (s.core 0).retide = some s.now ∧ (s.core 0).eq ++ (s.core 0).ewait ++ (s.core 0).mq ++ (s.core 0).mwait = [] ∧ (s.core 0).swapping = []) ∧
    (let k := cmd (.lsnd 1 3 eng) 0x1000 0 7
     let s (o) := linked { Link.reset with senders := [7] } [k] o
     let p := strandCore 0
     (s []).hub.linkUp 4 = true ∧ (s []).hub.linkLat 4 = 64 ∧ portSlots 0 = 1 ∧
      firstOf (s []).linkReady ((s []).round 0 ((s []).portChans 0)) = some (7, 0, 64, false) ∧ (s []).linkMayRead (7, 0, 64, false) = true ∧
      ((s []).onCore p fun c => { c with used := [bankOf 0x1000] }).linkMayRead (7, 0, 64, false) = false ∧ (7, 0, 64, false) ∈ (s []).portChans 0 ∧
      ((s []).link 0 7).senders = [7] ∧ (s []).linkCore 0 7 = some p ∧ (((s []).core p).flight 7).isSome = true ∧
      ((s [(64, 0, 256, [])]).linkOut.filter fun o => o.2.1 == 0 && o.2.2.1 == 256 && o.1 == 64).length = 1) ∧
    (let k := cmd (.lrcv 1 3 eng) 0x1000 0 7
     let s := linked { Link.reset with recv := [(30, List.replicate 64 1)], posted := [7] } [k] []
     let p := strandCore 0
     s.linkCore 0 7 = some p ∧ (s.link 0 7).recv = [(30, List.replicate 64 1)] ∧ (s.link 0 7).posted = [7] ∧ ((s.core p).flight 7).isSome = true ∧ k.ctx < 16 ∧
      (s.core p).portFree k.flitWords = true ∧ (linked Link.reset [] []).link 0 7 = Link.reset) ∧
    (let k := cmd (.lsnd 1 3 eng) 0x1000 0 7
     ((linked { Link.reset with sent := [7] } [k] []).link 0 7).sent = 7 :: [] ∧ 7 ∉ Link.reset.senders) := by
  refine ⟨?_, ?_, ?_, ?_, ?_, ?_, ?_, ?_, ?_⟩ <;> decide +kernel

/-! ### The hub, harts, launches, queues and the package -/

/-- Cycle 40, core 0 given. -/
def at40 (c : Core) : State := { State.reset with now := 40, cores := [(0, c)] }
/-- A late fault known before core turn 2 and a first-kind trap with its EPC. -/
def late (k : LateKind) : Late := ⟨k, 0x08, 5, 20⟩
/-- A receive of kind 0x05, tag 9 of context 1. -/
def tagReceive : Receive := ⟨0x05, 1, 0, 0, 3, 9, 0, 0, [], none, false⟩
/-- Traps at a worker's and at C0's turn, a timer at 1, a migration due now, C0 stopped by a trap of each mode, launches, and replay at, after and out of its cycle. -/
theorem witness_CoreEventsOfTheHub :
    (let s (n : Nat) (k : LateKind) := at40 (core01 { Ctx.resetC0 with st := .run, late := if n = 0 then [late k] else [] } { worker [] with late := if n = 0 then [] else [late k] })
     ∀ n ∈ [0, 1], ∀ k ∈ [LateKind.fp, .first 1 0x2000], ((s n k).ctx 0 n).st = .run ∧ (((s n k).ctx 0 n).pickTrap 40).isSome = true ∧
       ((((s n k).ctx 0 n).pickTrap 40).map fun r => r.2.1) = some 8 ∧ (8 : DWord).toNat % 256 ≠ 0x1D) ∧
    (let c := { Core.reset with timer := 0x8000000000000001 }
     c.timer.getLsbD 63 = true ∧ c.timer.extractLsb' 0 32 = 1) ∧
    ((1 : Nat) ≠ 0 ∧ ((at40 (core01 Ctx.resetC0 (worker []))).ctx 0 1).st = .run) ∧
    (let s := at40 { Core.reset with migration := some ⟨5, true, some (0, 40)⟩ }
     (s.core 0).migration = some ⟨5, true, some (0, 40)⟩ ∧ (40 : Nat) ≤ s.now) ∧
    (∀ b ∈ [true, false], ((at40 { Core.reset with delivered := some b }).core 0).delivered = some b) ∧
    ((at40 Core.reset).core 0).delivered = none ∧ ((at40 Core.reset).core 0).launches = [] ∧
    (let s := { at40 (core01 Ctx.resetC0 (worker [])) with hub := { Hub.reset with watches := [(0, { HartWatch.reset with active := true })] } }
     (s.core 0).launches ≠ [] ∧ (s.core 0).degraded = false ∧ s.active = true) ∧
    (let s (n : Nat) (r : Receive) := at40 { Core.reset with replaying := true, replay := [(n, r)] }
     let g : Receive := { tagReceive with gap := true }
     ((s 40 tagReceive).core 0).replaying = true ∧ ((s 40 tagReceive).core 0).replay = ((s 40 tagReceive).now, tagReceive) :: [] ∧
      ((s 40 tagReceive).core 0).latch ≠ some 40 ∧ ((s 40 tagReceive).replayOne 0 tagReceive).isSome = true ∧ 39 < (s 39 tagReceive).now ∧
      ((s 40 g).core 0).replay = [((s 40 g).now, g)] ∧ g.gap = true ∧
      (let w : Receive := { tagReceive with kind := 0x06, bytes := [1] }
       w.what = none ∧ w.gap = false ∧ w.bytes ≠ [])) := by
  refine ⟨?_, ?_, ?_, ?_, ?_, ?_, ?_, ?_, ?_⟩ <;> decide +kernel
/-- Watch 0, active and heard from at cycle 0. -/
def watch0 : HartWatch := { HartWatch.reset with booted := true, active := true }
/-- Cycle 40 with both watches booted, and the hub changed. -/
def hubState (f : Hub → Hub) (cliff : List Host.Cell) : State :=
  { State.reset with now := 40, cliff := cliff, hub := f { Hub.reset with supervised := true, watches := [(0, watch0), (1, { watch0 with active := false })] } }
/-- A shootdown of space 7's data pages at 0x5000, idle or busy, with a copy that used one. -/
def shooting (busy : Bool) : State :=
  let s := copying { copy1 .queued with pages := [(0x5000, 12, 0x7000)] } [] [leaf4k true] []
  s.onHub fun h => { h with sdSel := 0x10007, sdVa := 0x5000, sdLen := 0x1000, sdStatus := if busy then 1 else 0, sdWait := if busy then [7] else [] }
/-- A core whose log goes to the buffer that its launch is given. -/
theorem witness_CoreEventsOfTheHub_log :
    let s : State := (hubState (fun h => { h with replayAt := [(1, 0x8000)] }) []).onCore 0 fun c => { c with logLaunch := some 1 }
    (s.core 0).logLaunch = some 1 ∧ find s.hub.replayAt 1 = some 0x8000 := by decide +kernel
theorem witness_HartsAndPortAccesses :
    ((shooting true).hub.sdStatus.getLsbD 0 = true ∧ (shooting false).hub.sdStatus.getLsbD 0 = false ∧
      (shooting false).hub.shoots 7 false 0x5000 0x1000 = true ∧ (shooting false).hub.shoots 7 false 0 (2 ^ 38) = true ∧ ((shooting false).copies.any fun k => (shooting false).shotCopy k) = true ∧
      (∀ k ∈ ({ shooting true with copies := [] } : State).copies, k.id ∉ (shooting true).hub.sdWait) ∧
      ∃ k ∈ (shooting true).copies, k.id ∈ (shooting true).hub.sdWait) ∧
    (let s := hubState id []
     (0x50000 : Nat) < 0x1000000 ∧ s.hubStore .machine 0x50000 1 = none ∧ s.hubStore .supervisor 0x10000 1 = none ∧
      (1023 : Nat) < 1024 ∧ (s.queue 1023).state = 0 ∧ (7 : Nat) < 8) ∧
    -- The last 8 bytes of Cliffstack, the last below the boot ROM, and a reservation held or not.
    (let s (r : Option (Nat × Bool)) := hubState (fun h => { h with harts := [(7, { Hart.reset with reservation := r })] }) []
     (look Hart.reset (s none).hub.harts 7).halted = false ∧ ((s none).watchOf (7 / 4)).inReset = false ∧
      (cliffSize - 8) % 8 = 0 ∧ cliffSize - 8 + 8 ≤ cliffSize ∧ (s none).badRange (cliffSize - 8) 8 = false ∧
      0x8000400000 ≤ 0x8000FFFFF8 ∧ 0x8000FFFFF8 + 8 ≤ 0x8001000000 ∧ 0x8000FFFFF8 % 8 = 0 ∧ (0x1001 : Nat) % 2 ≠ 0 ∧
      (look Hart.reset (s (some (0x1000, true))).hub.harts 7).reservation = some (0x1000, true) ∧
      (look Hart.reset (s none).hub.harts 7).reservation ≠ some (0x1000, true) ∧
      ((s none).hart 7).pmpOk .machine .load (cliffSize - 8) 8 = true ∧ ((s none).hart 7).pmpOk .user .load 0x1000 8 = false ∧
      ((s none).hart 7).pmpOk .supervisor .store 0x1000 8 = false ∧ ((s none).hart 7).pmpOk .machine .store 0x1000 8 = true ∧
      (List.replicate 8 (1 : Byte)).length = 8) ∧
    -- A hart runs ADDI, a C.ADDI4SPN of 0 (illegal), fetches from nowhere, takes its timer's interrupt, is halted.
    (let s (pc : DWord) (l : List Host.Cell) := hubState (fun h => { h with harts := [(0, { Hart.reset with pc := pc })] }) l
     let code : List Host.Cell := [(0x1000, 0x93), (0x1001, 0x00), (0x1002, 0xF0), (0x1003, 0xFF)]
     let got (e : Except RvTrap (Nat × Nat × State)) : Option (Nat × Nat) := match e with | .ok (r, n, _) => some (r, n) | .error _ => none
     (s 0x1000 code).hartRuns 0 = true ∧ (s 0x1000 code).hartIrq 0 = none ∧
      got ((s 0x1000 code).hartFetch 0) = some (rvI 0x13 1 0 0 0xFFF, 4) ∧ got ((s 0x1000 []).hartFetch 0) = some (0, 2) ∧
      got ((s 0x8000400000 []).hartFetch 0) = none ∧
      (hubState (fun h => { h with harts := [(0, { Hart.reset with timerPending := true, csrs := [(0x304, 128), (0x300, 8)] })] }) []).hartIrq 0 = some 7 ∧
      (hubState (fun h => { h with harts := [(0, { Hart.reset with halted := true })] }) []).hartRuns 0 = false) ∧
    (let s := hubState id []
     (s.watchOf 0).booted = true ∧ (s.watchOf 0).active = true ∧ s.beating (1 - 0) = true ∧ (s.watchOf 1).active = false ∧ (s.watchOf 1).inReset = false) ∧
    (let s (p : DWord) := hubState (fun h => { h with power := p }) []
     (s 0x800).hub.parkAsked 3 = true ∧ (s 0x800).hub.parked 3 = false ∧ (s 0x800).hub.launches = [] ∧
      (s 0x1000).hub.parkAsked 0 = false ∧ (s 0x1000).hub.parked 0 = true) ∧
    (let s := { hubState (fun h => { h with debug := 1 }) [] with cores := [(0, core01 Ctx.resetC0 Ctx.reset)] }
     ((s.core 0).ctxs.any fun kx => kx.2.st == .run || kx.2.st == .park) = false ∧ s.hub.debug ≠ 0 ∧ s.hub.lifecycle ≠ 2 ∧
      0x7FFF8 + 8 ≤ 2 ^ 19 ∧ (s.ctx 0 0).st = .stop ∧ (0 : Nat) < 16 ∧ (63 : BitVec 6) ≠ 0 ∧ (hubState id []).hub.debug = 0) := by
  refine ⟨?_, ?_, ?_, ?_, ?_, ?_, ?_⟩ <;> decide +kernel
/-- Queue 0, enabled, with the packet at index 0 of its ring at 0x1000 posted. -/
def queue0 : Queue := { Queue.reset with state := 1, ring := 0x1000, wridx := 1, space := 7, droot := 0x10000, local_ := true, ports := 0xFFF }
/-- A page table of one leaf at 0x10000, which maps the lowest 256 GiB at their own addresses, and cells. -/
def mapped (cliff : List Host.Cell) : List Host.Cell := cliff.filter (fun c => decide (c.1 < 0x10000)) ++ [(0x10000, 0x0F)]
/-- Queue 0 and the words of Cliffstack. -/
def queued (f : Hub → Hub) (cliff : List Host.Cell) : State :=
  hubState (fun h => f { h with queues := [(0, queue0)] }) (mapped cliff)
/-- A LAUNCH packet whose block is at 0x3000; the block names the object at 0x2000 and a reach of one core of die 0, or has a reserved bit set; the object has no section and accepts SZ4-A. -/
def launchCells (bad : Byte) : List Host.Cell :=
  [(0x1000, 1), (0x1009, 0x30),
   (0x2000, 0x47), (0x2001, 0x51), (0x2002, 0x43), (0x2003, 0x4F), (0x2004, 0x44), (0x2005, 0x4F), (0x2006, 0x42), (0x2007, 0x31), (0x2008, 2),
   (0x3001, 0x20), (0x3008, 2 + bad), (0x3009, 0x10)]
/-- A packet read, its block read, and the launch made, or refused for the reserved bit of its block. -/
theorem witness_LaunchesProceed_packet :
    (let s := queued id (launchCells 0)
     s.queueAct 0 = some .launch ∧
      (match s.nextPacket 0 with
       | .ok w => (match s.hubRead (s.queue 0).droot (nthD 0 w 1).toNat 256 with
         | .ok bs => ((s.onQueue 0 fun k => { k with rdidx := k.rdidx + 1, open_ := k.open_ ++ [(some k.rdidx, none)] }).makeLaunch 0 (some (s.queue 0).rdidx) (dwords 32 bs) w).isSome
         | _ => false)
       | _ => false) = true) ∧
    (let s := queued id (launchCells 4)
     s.queueAct 0 = some .launch ∧
      (match s.nextPacket 0 with
       | .ok w => (match s.hubRead (s.queue 0).droot (nthD 0 w 1).toNat 256 with
         | .ok bs => (s.makeLaunch 0 (some (s.queue 0).rdidx) (dwords 32 bs) w).isNone
         | _ => false)
       | _ => false) = true) := by
  refine ⟨?_, ?_⟩ <;> decide +kernel
/-- Cycle t with the launch given, its core given, a queue, and a watch active. -/
def launching (t : Nat) (l : Launch) (c : Core) : State :=
  { queued (fun h => { h with launches := [l] }) [] with now := t, cores := [(0, c)] }
/-- The launch before its instant: its core named by its reach alone. -/
def early (g : Stage) : Launch := { rootLaunch with stage := g, entry := 0x2000, grantedCores := if g = .waiting then [] else [0] }
/-- A core with a second launch beside it. -/
def full2 : Core := { core01 Ctx.resetC0 Ctx.reset with launches := [{ launch1 with id := 8 }, { launch1 with id := 9 }] }
theorem witness_LaunchesProceed :
    (let s := launching 40 (early .waiting) Core.reset
     (s.launchOf 1).isSome = true ∧ (early .waiting).stage = .waiting ∧ s.hub.parking 0 = false ∧ (s.placed (early .waiting)).isSome = true ∧
      (s.placed (early .waiting)).map Launch.parties = some [(0, some 0, 0)] ∧
      (let l := { early .waiting with classes := 2 }
       l.parties ≠ [] ∧ ∀ k ∈ l.parties, l.classes.getLsbD (if (s.core k.1).degraded then 1 else 0) = false) ∧
      (∀ k ∈ (early .waiting).parties, (early .waiting).classes.getLsbD (if (s.core k.1).degraded then 1 else 0) = true) ∧ ((launching 40 (early .waiting) full2).placed (early .waiting)) = none) ∧
    (let s := (launching 40 (early .waiting) Core.reset).onHub fun h => { h with power := 0x100 }
     ∀ p ∈ (early .waiting).reach, s.hub.parking (dieOf p) = true) ∧
    (let l (r : Nat) : Launch := { early .granted with notices := [(0, 30)], deadline := some 35, required := r }
     let s (r : Nat) := launching 40 (l r) (core01 Ctx.resetC0 Ctx.reset)
     (l 0).allReady = true ∧ (s 0).active = true ∧ (s 1056).chooseInstant (l 1056) = some 1056 ∧ (s 1040).chooseInstant (l 1040) = none) ∧
    (let l (d : Nat) : Launch := { early .granted with deadline := some d }
     (l 39).allReady = false ∧ (l 39).deadline = some 39 ∧ 39 < (launching 40 (l 39) Core.reset).now ∧ (launching 40 (l 40) Core.reset).now ≤ 40) ∧
    (let l := { early .latched with instant := some 2048 }
     let s := launching 2048 l (core01 Ctx.resetC0 Ctx.reset)
     l.instant = some s.now ∧ l.parties = [(0, some 0, 0)] ∧ l.starts (some 0) = [(1, 0x2000)]) ∧
    (let l := early .running
     let s (t : Nat) (x : Ctx) := launching t l (core01 Ctx.resetC0 x)
     (s 64 Ctx.reset).hub.launches = [l] ∧ l.slack = none ∧ 64 % 64 = 0 ∧ (∀ p ∈ l.grantedCores, (s 64 Ctx.reset).quiescent p 1 = true) ∧
      (∀ p ∈ l.grantedCores, (s 64 (worker [])).quiescent p 1 = false) ∧ ({ l with slack := some (64, 100) } : Launch).slack = some (64, 100) ∧
      (s 64 Ctx.reset).stagedFor 1 = false ∧
      ((s 64 Ctx.reset).onQuay (entryOf 0) fun u => { u with staging := [⟨0x7000, 5, [(7, some 1, 0, 1)], 40⟩] }).stagedFor 1 = true) ∧
    -- A notice, an accepted one, and a ring with room and a full one; a core's ready notice.
    (let k (a : DWord) : Packet := ⟨3, 0, 1, hubId, 0, .notice a 0, 40, some 40, 0, 7, some 1, none, [], 0, 0, false⟩
     let s (a : DWord) (n : Nat) : State :=
       { launching 40 (early .granted) (core01 Ctx.resetC0 Ctx.reset) with packets := [k a] }.onHub fun h => { h with notice := { h.notice with head := BitVec.ofNat 32 n } }
     (s 5 4095).packet 3 = some (k 5) ∧ (k 5).accepted.isSome = true ∧ (5 : DWord).extractLsb' 56 8 ≠ 0xFF ∧
      ((s 5 4095).hub.notice.head - (s 5 4095).hub.notice.tail).toNat ≠ 4096 ∧ ((s 5 4096).hub.notice.head - (s 5 4096).hub.notice.tail).toNat = 4096 ∧
      (s 0xFF00000000000001 0).packet 3 = some (k 0xFF00000000000001) ∧ (s 0 0).active = true ∧ (early .granted).stage = .granted ∧
      (k 0).src ∈ (early .granted).grantedCores ∧ (early .granted).notices = []) := by
  refine ⟨?_, ?_, ?_, ?_, ?_, ?_, ?_⟩ <;> decide +kernel
/-- A packet of TYPE t at 0x1000 with further bytes, a completion word at 0x5000 and CVAL 9; and the words at 0x4000. -/
def packetCells (t : Byte) (more words : List Host.Cell) : List Host.Cell :=
  [(0x1000, t)] ++ more ++ [(0x1031, 0x50), (0x1038, 9)] ++ words
/-- Queue 0's state once its packet has started, which is what its meaning reads. -/
def startedAt (s : State) : State := s.onQueue 0 fun k => { k with rdidx := 1, open_ := [(some 0, none)] }
/-- Word i of the packet. -/
def packetWord (s : State) (i : Nat) : Option DWord := match s.nextPacket 0 with | .ok w => some (nthD 0 w i) | .error _ => none
theorem witness_QueuesAndPeers_packets :
    -- The completion word's page is mapped; an address past the mapping.
    (let s := queued id []
     s.hubPa (s.queue 0).droot.toNat true 0x5000 = some 0x5000 ∧ (0x5000 : DWord).toNat % 8 = 0 ∧
      s.hubPa (s.queue 0).droot.toNat true (2 ^ 38) = none ∧ (s.queue 0).state = 1) ∧
    -- BARRIER-AND: its word nonzero, with bit 63 set, and zero.
    (let s (l : List Host.Cell) := queued id (packetCells 2 [(0x1009, 0x40)] l)
     let read (l : List Host.Cell) := (startedAt (s l)).hubWord 0x10000 0x4000
     (∀ l ∈ [[((0x4000, 1) : Host.Cell)], [(0x4007, 0x80)], []], (s l).queueAct 0 = some .barrierAnd ∧ packetWord (s l) 1 = some 0x4000) ∧
      read [(0x4000, 1)] = some 1 ∧ read [(0x4007, 0x80)] = some (1 <<< 63) ∧ read [] = some 0) ∧
    -- SIGNAL: SET, to a mapped word and to a misaligned one.
    (let s (b : Byte) := queued id (packetCells 3 [(0x1008, b), (0x1009, 0x40), (0x1010, 5)] [])
     (∀ b ∈ [(0 : Byte), 1], (s b).queueAct 0 = some .signal ∧ packetWord (s b) 3 = some 0) ∧ SigOp.ofCode 0 = some .set ∧
      (startedAt (s 0)).hubWord 0x10000 0x4000 = some 0 ∧ (startedAt (s 0)).hubPa 0x10000 true 0x4000 = some 0x4000 ∧
      (startedAt (s 1)).hubWord 0x10000 0x4001 = none) ∧
    -- ARM of a free entry and of another queue's, with a period of 1024 and one of 1; DISARM of its own entry and of none.
    (let entry (q : BitVec 10) : WheelEntry := ⟨q, true, false, 0, 0, 0, none⟩
     let s (p : Byte) (dis : Byte) (q : List (Nat × WheelEntry)) := queued (fun h => { h with wheel := q }) (packetCells 4 [(0x1008, 3), (0x100A, dis), (0x1019, p)] [])
     (s 4 0 []).queueAct 0 = some .arm ∧ packetWord (s 4 0 []) 3 = some 1024 ∧ packetWord (s 4 0 []) 4 = some 0 ∧ packetWord (s 4 0 []) 1 = some 3 ∧
      find (s 4 0 []).hub.wheel 3 = none ∧ (s 4 0 [(3, entry 5)]).queueAct 0 = some .arm ∧
      (find (s 4 0 [(3, entry 5)]).hub.wheel 3).map (fun x => x.owner.toNat) = some 5 ∧ packetWord (s 2 0 []) 3 = some 512 ∧
      (s 0 1 [(3, entry 0)]).queueAct 0 = some .disarm ∧ (s 0 1 []).queueAct 0 = some .disarm ∧
      (find (s 0 1 [(3, entry 0)]).hub.wheel 3).map (fun x => x.owner.toNat) = some 0) ∧
    -- RESETQ of a free queue, of one of another space, and of its own.
    (let s (b : Byte) := (queued id (packetCells 5 [(0x1008, b)] [])).onQueue 2 fun k => { k with state := 1, space := 9 }
     (∀ b ∈ [(0 : Byte), 1, 2], (s b).queueAct 0 = some .resetq) ∧ packetWord (s 2) 1 = some 2 ∧ ((s 1).queue 1).state = 0 ∧
      ((s 2).queue 2).space ≠ ((s 2).queue 0).space ∧ ((s 0).queue 0).state = 1) ∧
    (queued id (packetCells 6 [] [])).queueAct 0 = some (.error 3) := by
  refine ⟨?_, ?_, ?_, ?_, ?_, ?_⟩ <;> decide +kernel
/-- A notify for queue 0, WRIDX 5, sequence 7, at port 3, with the tag that HMAC-SHA-512 of R397 gives under a key of zeros. -/
def notify57 : List Byte :=
  bytesOf 8 (5 * 2 ^ 32) ++ bytesOf 8 7 ++
    [0x88, 0xEE, 0x2A, 0x39, 0x52, 0x75, 0x4D, 0x86, 0xFB, 0xCD, 0xB3, 0xD5, 0x73, 0xE6, 0xAA, 0x10]
/-- Window 1 of port 3: 64 KiB at 0x20000 of the port, 0x40000 of Cliffstack, with the permissions given. -/
def peers (perm : DWord) : State :=
  hubState (fun h => { h with windows := [(97, ⟨0x20000, 0x40000, 0x410 ||| perm⟩)], notifyBase := [(3, 0x10000)] }) []
theorem witness_QueuesAndPeers :
    (let k := { Queue.reset with keyWritten := true, log2n := 4 }
     k.state = 0 ∧ k.keyWritten = true ∧ ¬(1 ≤ k.log2n.toNat ∧ k.log2n.toNat ≤ 3) ∧ ¬(Queue.reset.keyWritten = true)) ∧
    (queue0.state = 1 ∧ queue0.resetters = [] ∧ ((hubState id []).queue 4).state = 0 ∧ (∀ l ∈ (queued id []).hub.launches, l.queue ≠ 0)) ∧
    (let s := queued (fun h => { h with launches := [rootLaunch] }) []
     s.hub.launches = [rootLaunch] ∧ rootLaunch.queue = 0 ∧ rootLaunch.grantedCores ≠ [] ∧ rootLaunch.slack = none) ∧
    (let s (a : List Nat) := (queued (fun h => { h with launches := [{ rootLaunch with stage := .cancelled }] }) []).onQueue 0 fun k => { k with state := 3, acks := a }
     (s [0, 5]).ackReady 0 0 = true ∧ (∃ r ∈ ((s [0, 5]).queue 0).acks, r ≠ 0) ∧ (s [0]).ackReady 0 0 = true ∧ ((s [0]).queue 0).acks = [0] ∧
      ((s [0]).queue 0).state = 3 ∧ ((s [0]).queue 0).destroy = false ∧ (∀ l ∈ (s [0]).hub.launches, l.queue = 0 → l.stage = .cancelled)) ∧
    -- WRIDX at the ring's 65536 slots and past them; the window of R397 the same.
    ((65536 - queue0.rdidx : Word).toNat ≤ queue0.slots ∧ (65536 - queue0.wridx : Word).toNat ≤ queue0.slots ∧
      ¬((65537 - queue0.rdidx : Word).toNat ≤ queue0.slots) ∧ queue0.local_ = true ∧ Queue.reset.local_ = false) ∧
    Queue.reset.key.length = 32 ∧
    (let k := { queue0 with lastseq := 6 }
     (wordAt notify57 0).extractLsb' 0 10 = BitVec.ofNat 10 0 ∧ notify57.length = 32 ∧ k.ports.getLsbD 3 = true ∧ k.state = 1 ∧
      (notify57.drop 16).take 16 = notifyTag k.key 3 notify57 ∧ (notify57.drop 16).take 16 ≠ notifyTag k.key 4 notify57 ∧
      k.lastseq.toNat < (wordAt notify57 8).toNat ∧ ¬({ queue0 with lastseq := 7 }.lastseq.toNat < (wordAt notify57 8).toNat) ∧
      (wordAt notify57 0).extractLsb' 32 32 = (5 : Word) ∧ (5 - k.wridx : Word).toNat ≤ k.slots ∧ (5 - k.rdidx : Word).toNat ≤ k.slots ∧
      ¬((0 - k.wridx : Word).toNat ≤ k.slots)) ∧
    (let b : BarAnd := ⟨0, some 0, [0x4000], 0, 9⟩
     (queued (fun h => { h with barAnds := [b] }) []).active = true ∧ (queued (fun h => { h with barAnds := [b] }) []).hub.barAnds = [b]) ∧
    -- The wheel at a tick: an entry due now, with a SIGNAL of its own at 0x6000, periodic or not.
    (let x (p : DWord) : WheelEntry := ⟨0, true, false, 2048, p, 0x6000, none⟩
     let s := { queued (fun h => { h with wheel := [(3, x 1024)] }) [(0x6000, 3), (0x6009, 0x40)] with now := 2048 }
     s.now % 1024 = 0 ∧ (queued id []).now % 1024 ≠ 0 ∧ s.hub.wheel = [(3, x 1024)] ∧ (x 1024).armed = true ∧ (x 0).due.toNat ≤ s.now ∧
      (x 0).busy = false ∧ (s.queue 0).state = 1 ∧ s.active = true ∧ (s.hubRead 0x10000 0x6000 64).isOk = true ∧
      s.hubPa 0x10000 true 0x6000 = some 0x6000 ∧
      (match s.hubRead 0x10000 0x6000 64 with | .ok bs => packetType (dwords 8 bs) == 3 && !packetBad false (dwords 8 bs) | _ => false) = true ∧
      (x 0).period = 0 ∧ (x 1024).period ≠ 0) ∧
    -- The first and the last byte of the notify window, and of the peer window, which permits or refuses.
    ((31 : Nat) % 32 ≠ 0 ∧ (0x10000 : Nat) / 4096 * 4096 ≤ 0x10000 ∧ (0x10FFF : Nat) < 0x10000 + 4096 ∧
      ((peers 0x300).hub.window 3 0x20000 8).isSome = true ∧ ((peers 0x300).hub.window 3 0x2FFF8 8).isSome = true ∧
      ((peers 0x300).hub.window 3 0x2FFF9 8) = none ∧ (∀ b ∈ [8, 9], ((0x710 : DWord)).getLsbD b = true ∧ (0x410 : DWord).getLsbD b = false) ∧
      (peers 0x300).badRange 0x40000 8 = false) := by
  refine ⟨?_, ?_, ?_, ?_, ?_, ?_, ?_, ?_, ?_, ?_⟩ <;> decide +kernel
/-- The counted launch beside the cores left to it, none of which a launch marked for degraded ones may take; a tenant that the core ran last, and another. -/
theorem witness_LaunchesProceed_counted :
    (let l : Launch := { early .waiting with reach := [], count := 1 }
     let left (s : State) (l : Launch) := (ordinaryCores.filter fun p => l.classes.getLsbD (if (s.core p).degraded then 1 else 0) && !s.hub.parking (dieOf p)).length
     let s := launching 40 l Core.reset
     l.reach = [] ∧ l.count ≤ left s l ∧ left s { l with classes := 2 } < l.count) ∧
    (let c (n : Word) : Core := { core01 Ctx.resetC0 Ctx.reset with lastTenant := n }
     (c 5).newTenant { rootLaunch with tenant := 5 } = false ∧ (c 5).newTenant { rootLaunch with tenant := 6 } = true) := by
  refine ⟨?_, ?_⟩ <;> decide +kernel
/-- An entry of the wheel whose packet has no translation, cannot be read as one, is of another type, has a reserved bit, or signals; a reset of a queue that another resets. -/
theorem witness_QueuesAndPeers_releases :
    (let x (a p : DWord) : WheelEntry := ⟨0, true, false, 2048, p, a, none⟩
     let cells (ty bad : Byte) : List Host.Cell := [(0x6000, ty), (0x6002, bad), (0x6009, 0x40)]
     let s (ty bad : Byte) : State := { queued id (cells ty bad) with now := 2048 }
     let u (ty bad : Byte) : State := ((s ty bad).putStack 0x6004 (bytesOf 4 0)).oweBursts 0 ((s ty bad).hubBursts 0x10000 0x6000 64)
     (s 3 0).hubPa 0x10000 true (x 0x8000000000 0).rpkt.toNat = none ∧ ((s 3 0).queue 0).state = 1 ∧ (s 3 0).hubPa 0x10000 true 0x6000 = some 0x6000 ∧
      (s 3 0).hubPa 0x10000 true 0x3FFFFFFFE0 = some 0x3FFFFFFFE0 ∧ ((s 3 0).hubRead 0x10000 0x3FFFFFFFE0 64).isOk = false ∧
      (match (u 2 0).hubRead 0x10000 0x6000 64 with | .ok bs => packetType (dwords 8 bs) == 2 | _ => false) = true ∧
      (match (u 3 1).hubRead 0x10000 0x6000 64 with | .ok bs => packetType (dwords 8 bs) == 3 && packetBad false (dwords 8 bs) | _ => false) = true ∧
      (match (u 3 0).hubRead 0x10000 0x6000 64 with | .ok bs => packetType (dwords 8 bs) == 3 && !packetBad false (dwords 8 bs) | _ => false) = true) ∧
    (let s := (queued id (packetCells 5 [(0x1008, 2)] [])).onQueue 2 fun k => { k with state := 3, space := 7 }
     s.queueAct 0 = some .resetq ∧ (s.queue 2).state = 3 ∧ (s.queue 2).space = (s.queue 0).space) := by
  refine ⟨?_, ?_⟩ <;> decide +kernel
/-- A strand core of port 0 with one LSND in flight on channel 7 of its own lane. -/
def failing : State := linked { Link.reset with senders := [7] } [cmd (.lsnd 1 3 eng) 0x1000 0 7] []
/-- What the state gives; that an image or a token is accepted rests on keys that the spec does not give (log 10), so those clauses have no witness on fixed values. -/
theorem witness_PackageEvents :
    ((keys (at40 Core.reset).cores).Nodup ∧ (hubState id []).hub.imageFault [] ≠ 0) ∧
    (let s (e : DWord) := (hubState id []).onHub fun h => { h with links := [(19, e)] }
     (19 : Nat) < 20 ∧ latencyOk 19 63 = false ∧ (∃ kw ∈ (s 0).hub.watches, kw.2.booted = true) ∧ (∀ kw ∈ Hub.reset.watches, kw.2.booted = false) ∧
      (∀ l ∈ [(64 : BitVec 12), 65, 4095], 64 ≤ l.toNat) ∧ (∀ l ∈ [(32 : BitVec 12), 40, 48], 32 ≤ l.toNat ∧ l.toNat ≤ 48) ∧
      (s 0).hub.power.extractLsb' 0 2 = 0 ∧ ((s 0).hub.link 19).getLsbD 12 = false ∧
      (((s 0x3041).hub.link 19).getLsbD 12 = true ∧ ((s 0x3041).hub.link 19).getLsbD 13 = true ∧ look [] (s 0x3041).hub.trained 19 ≠ [64, 65, 4095])) ∧
    (let p := strandCore (4 - 4)
     (failing.core p).eflight = [cmd (.lsnd 1 3 eng) 0x1000 0 7] ∧ (cmd (.lsnd 1 3 eng) 0x1000 0 7).ctx < 16 ∧
      (failing.core p).cmdDecl p (cmd (.lsnd 1 3 eng) 0x1000 0 7) (linkChan 7) = some (7, 0, 64, false)) ∧
    (let s (t : BitVec 8) (h : List Nat) := { hubState (fun k => { k with temps := [(0, t)], hot := h }) [] with cores := [(0, core01 Ctx.resetC0 (worker []))] }
     keys (s 94 []).cores = [0] ∧ shoreKey 0 = 0 ∧ isOrdinary 0 = true ∧ ((s 94 []).core 0).launches ≠ [] ∧ (s 94 []).active = true ∧
      (look 0 (s 94 []).hub.temps 0).toNat < 95 ∧ 0 ∉ (s 94 []).hub.hot ∧ 95 ≤ (look 0 (s 95 []).hub.temps 0).toNat ∧ 0 ∈ (s 94 [0]).hub.hot) ∧
    ((List.replicate 32 (0 : Byte)).length = 32 ∧ (firstOf (fun (kw : Nat × HartWatch) => kw.2.active) (hubState id []).hub.watches).isSome = true) ∧
    ((queued (fun h => { h with launches := [rootLaunch] }) []).hub.launches ≠ [] ∧ Hub.reset.nonces = [] ∧ ([] : List Byte).length ≠ 272) ∧
    (∀ n ∈ [(0 : BitVec 2), 1, 2], ((hubState id []).onHub fun h => { h with lifecycle := n }).hub.lifecycle = n) := by
  refine ⟨?_, ?_, ?_, ?_, ?_, ?_, ?_⟩ <;> decide +kernel

/-! ## One step each: values worked out by the manual's own examples and tables -/

/-- Vector registers of context 1. -/
def wv (xs : Sparse DWord) (vs : Sparse Vec) : State := (w1 xs).onHere fun c => c.onCtx 1 fun x => { x with vs := vs }
/-- Lanes of 32 bits, lane 0 first, and bytes, byte 0 first. -/
def lanes32 (l : List (BitVec 32)) : Vec := BitVec.ofNat 256 (l.foldr (fun b n => b.toNat + 2 ^ 32 * n) 0)
def bytesV (l : List Byte) : Vec := BitVec.ofNat 256 (l.foldr (fun b n => b.toNat + 256 * n) 0)
/-- Bytes of the local store of core 0 after an instruction. -/
def stored (o : Out) (a n : Nat) : List Byte := match o with | .next t => memBytes (t.core 0).ls a n | _ => []
/-- The value of the first write that waits. -/
def firstVec (o : Out) : Vec := match written o with | (_, .vec v) :: _ => v | _ => 0
/-- Context 1's own state after an instruction. -/
def after (o : Out) : Option Ctx := match o with | .next t => some (t.ctx 0 1) | _ => none
/-- The operands of two registers. -/
def xy (a b : DWord) : State := w1 [(1, a), (2, b)]

/-- R109: a pointer stepped past 0x7FFFF returns to 0 at the same core. -/
theorem test_adda_wraps : written (exec (.adda 5 1 2 0) (xy 0x800000010007FFF8 8)) = [(.x 1 5, .word 0x8000000100000000)] := by decide +kernel
/-- R101's table. -/
theorem test_div_minimum : written (exec (.div 5 1 2 true false) (xy 0x80000000 0xFFFFFFFF)) = [(.x 1 5, .word 0xFFFFFFFF80000000)] := by decide +kernel
theorem test_rem_zero : written (exec (.rem 5 1 2 true false) (xy 0xFFFFFFFF 0)) = [(.x 1 5, .word (-1))] := by decide +kernel
/-- R104, by hand from LUI's range: 0x7FFFF shifted by 12, and the sign of imm20. -/
theorem test_lui_sign : written (exec (.lui 5 0x80000) (w1 [])) = [(.x 1 5, .word 0xFFFFFFFF80000000)] := by decide +kernel
/-- R118: -5.5 to s32 toward zero, with NX. -/
theorem test_fcvt_truncates : written (exec (.fcvt .f32 .s32 .rtz 5 6) (w1 [(6, 0xC0B00000)])) =
    [(.x 1 5, .word 0xFFFFFFFFFFFFFFFB), (.flags 1, .word 0x100)] := by decide +kernel
/-- R118: 2^31 to s32, with NV. -/
theorem test_fcvt_overflow : written (exec (.fcvt .f32 .s32 .rtz 5 6) (w1 [(6, 0x4F000000)])) =
    [(.x 1 5, .word 0x7FFFFFFF), (.flags 1, .word 0x1000)] := by decide +kernel
/-- R142: the field that straddles words 0x2018 and 0x2020. -/
def bitWords : List Host.Cell := ((upTo 16).map fun i => (0x2018 + i,
  nthD 0 (bytesOf 8 0xD123456789ABCDEF ++ bytesOf 8 0xFEDCBA9876543230) i)).filter fun c => c.2 != 0
theorem test_ldbit_straddles : written (exec (.ldbit 5 6 7 true 11) (wm [(6, 0x2018), (7, 58)] bitWords)) =
    [(.x 1 5, .word 0xFFFFFFFFFFFFFC34)] := by decide +kernel
theorem test_stbit_straddles : stored (exec (.stbit 8 6 7 11) (wm [(6, 0x2018), (7, 58), (8, 0xABC)] bitWords)) 0x2018 16 =
    bytesOf 8 0xF123456789ABCDEF ++ bytesOf 8 0xFEDCBA987654322A := by decide +kernel
/-- R149's example: the word at 0x3000 is full, and LDF reads 42 and empties it. -/
theorem test_ldf_empties : written (exec (.ldf 6 1 0) (wm [(1, 0x3000)] [(0x3000, 42)])) = [(.x 1 6, .word 42)] ∧
    (match exec (.ldf 6 1 0) (wm [(1, 0x3000)] [(0x3000, 42)]) with | .next t => (t.core 0).empties == [0x3000] | _ => false) = true := by
  refine ⟨?_, ?_⟩ <;> decide +kernel
/-- R174: VRED.add.f32 of 2^24 and seven ones, by its tree, with NX. -/
theorem test_vred_tree : written (exec (.vred .add (.fp .f32) (.scalar 5) 3)
      (wv [] [(3, lanes32 (0x4B800000 :: List.replicate 7 0x3F800000))])) =
    [(.x 1 5, .word 0x4B800003), (.flags 1, .word 0x100)] := by decide +kernel
/-- R170 to R172's example: the byte before each byte, and its class. -/
theorem test_vslide_carries : firstVec (exec (.vslide .i8 3 1 2 31)
      (wv [] [(1, bytesV (List.replicate 31 0 ++ [0xE2])), (2, bytesV [0x82, 0xAC])])) = bytesV [0xE2, 0x82, 0xAC] := by decide +kernel
theorem test_vpermb_classes : (firstVec (exec (.vpermb 4 9 3 false true)
      (wv [] [(9, bytesV (List.replicate 8 1 ++ List.replicate 4 2 ++ [4, 4, 8, 16])), (3, bytesV [0xE2, 0x82, 0xAC])]))).extractLsb' 0 24 = 0x020208 := by
  decide +kernel
/-- R93's example: 464, 480, 2^-10, -0 and -Inf to saturating E4M3 in RNE, with R435's 0.1. -/
def five : Vec := lanes32 [0x43E80000, 0x43F00000, 0x3A800000, 0x80000000, 0xFF800000, 0x3DCCCCCD]
theorem test_vcvt_e4m3 : (firstVec (exec (.vcvt .f32 .e4m3 false 0 true .rne 5 1) (wv [] [(1, five)]))).extractLsb' 0 48 = 0x1DFE80007E7E := by
  decide +kernel
/-- The same to E5M2 without saturation. -/
theorem test_vcvt_e5m2 : (firstVec (exec (.vcvt .f32 .e5m2 false 1 false .rne 5 1) (wv [] [(1, five)]))).extractLsb' 64 48 = 0x2EFC8014605F := by
  decide +kernel
/-- R187 to R189's block at both scale formats: the scale and elements 0 to 3. -/
def block8 : State := wv [] [(8, lanes32 [0x43960000, 0xBF800000, 0x3DCCCCCD, 0x80000000])]
theorem test_vqmx_e8m12 :
    let o := exec (.vqmx .e4m3 .e8m12 .fcr 20 8 12) block8
    (firstVec o).extractLsb' 0 40 = 0x008022BC7E ∧ (.x 1 12, .word 0x7E56E) ∈ written o ∧ (.flags 1, .word 0x100) ∈ written o := by
  refine ⟨?_, ?_, ?_⟩ <;> decide +kernel
theorem test_vqmx_e8m0 :
    let o := exec (.vqmx .e4m3 .e8m0 .fcr 20 8 12) block8
    (firstVec o).extractLsb' 0 24 = 0x1DB879 ∧ (.x 1 12, .word 0x7F) ∈ written o := by refine ⟨?_, ?_⟩ <;> decide +kernel
/-- R192: of 1.0, NaN, -1.0 and +0, lanes 0 and 1 are kept, the descriptor is 4. -/
theorem test_vcmpr_keeps :
    let o := exec (.vcmpr (.fmt .e4m3) false 6 2 7) (wv [] [(2, bytesV [0x38, 0xFF, 0xB8, 0x00])])
    (firstVec o).extractLsb' 0 16 = 0x7F38 ∧ (match written o with | [_, (_, .word w)] => w.extractLsb' 0 4 == 4 | _ => false) = true := by
  refine ⟨?_, ?_⟩ <;> decide +kernel
/-- R85's example. -/
theorem test_gstep : gStep 1 = 0x40822041 := by decide +kernel
/-- R435: with SEED 0x5EA51DE5 before its step, 1.0625 and 0.1 to E4M3 in SR have draws 0xF1BE and 0xBBA6: down and up. -/
theorem test_vcvt_stochastic :
    let s := (wv [] [(3, lanes32 [0x3F880000, 0x3DCCCCCD])]).onHere fun c => c.onCtx 1 fun x => { x with seed := 0x5EA51DE5 }
    (firstVec (exec (.vcvt .f32 .e4m3 false 0 true .sr 12 3) s)).extractLsb' 0 16 = 0x1D38 := by decide +kernel
/-- R177: the exact cases of reciprocal square root and tanh. -/
theorem test_vsfu_exact : (firstVec (exec (.vsfu .rsqrt .f32 3 1) (wv [] [(1, lanes32 [0x80000000, 0x3E800000, 0x7F800000])]))).extractLsb' 0 96 =
    0x0000000040000000FF800000 := by decide +kernel
/-- R149's atomics on local words happen at the end of the turn: nothing is stored at issue. -/
theorem test_aadd_waits : stored (exec (.aadd 9 1 2 true) (wm [(1, 0x4000), (2, 1)] [(0x4000, 0xFF)])) 0x4000 1 = [0xFF] := by decide +kernel
/-- FIPS 180-4, SHA-512 of "abc": its first eight bytes (R381's digest). -/
theorem test_sha512_abc : (sha512 [0x61, 0x62, 0x63]).take 8 = [0xDD, 0xAF, 0x35, 0xA1, 0x93, 0x61, 0x7A, 0xBA] := by decide +kernel
/-- The words of R203's example tile step: A at 0, B at 0x20000, scales at 0x40000. -/
def tileWord : Reader := fun _ a =>
  if a = 0 then 0x0138 else if a = 0x20 then 0x00B8007E else if a = 0x20000 then 0x3C3C else if a = 0x20020 then 0x00400040
  else if a = 0x40000 then 0x7F7F7F7F7F7F817F else if a = 0x40040 then 0x7F7F7F7F7F7F7D7F
  else if 0x40000 ≤ a ∧ a < 0x40060 then 0x7F7F7F7F7F7F7F7F else 0
/-- R86, R203: elements (0,0) with its single rounding and NX, (0,1), (1,0) and (1,1) of that step. -/
theorem test_mma_elements :
    let t : Tiles := ⟨.e4m3, .e5m2, 0, 0, 0, .e8m0⟩
    let z := tileSizes t false
    let e (i j : Nat) (old : Nat) := mmaElem tileWord t z (aRow tileWord t z false 0 i j) (fun b => scaleEntry (tileWord (readKey i j b 2)) t 0x40000 (64 * b + i)) 0x20000 0x40000 i j (ffF32.num old)
    e 0 0 0x4B800000 = (0x4B800001, flNX) ∧ (e 0 1 0).1 = 0x3F000000 ∧ (e 1 0 0).1 = 0x44E00000 ∧ e 1 1 0 = (0x445F8000, 0) := by
  refine ⟨?_, ?_, ?_, ?_⟩ <;> decide +kernel
/-- The six cells of R245's example at β = 1.0, before phase 0, cycle 44 of a sweep that began at 40. -/
def sixCells : State :=
  let cell (s cl : Bool) (h : Half) (col : BitVec 3) (l : List (BitVec 9 × BitVec 8)) : CoveCell := ⟨s, cl, h, col, l, [], 0⟩
  let v : Cove := { Cove.reset with
    g := 1
    active := [(246, 0x7B00), (249, 0x7C80), (264, 0x8400), (511, 0xFF80)]
    sweep := some ⟨7, 0, 1, 40, 0, false, false, [], [], []⟩
    cells := [(0, cell false false 0xFF38 0 [(1, 100), (5, 60)]), (1, cell true true 0 1 [(0, 100), (2, 0xCE)]),
      (2, cell true false 0x1E 0 [(1, 0xCE), (3, 80)]), (3, cell false false 0xFFC0 1 [(2, 80), (4, 120)]),
      (4, cell true true 0 0 [(3, 120), (5, 0xA6)]), (5, cell false false 0x1F40 1 [(4, 0xA6), (0, 60)])] }
  { State.reset with now := 44, coves := [(0, v)] }
/-- R245's example: the draws of cells 0 and 2, and the generator after them. -/
theorem test_sweep_phase0 :
    (match exec (.spindriftSweep 0) sixCells with
     | .next t => ((t.cove 0).g, (t.cove 0).sweep.map (·.next)) == (0x100041060C011441, some [(0, true), (2, true)])
     | _ => false) = true := by decide +kernel
/-- R102: the signed and the natural condition of -1 against 1. -/
theorem test_cmp_signed : written (exec (.cmp 5 1 2 .lt) (xy (-1) 1)) = [(.q 1 5, .bit true)] ∧ written (exec (.cmp 5 1 2 .ltu) (xy (-1) 1)) = [(.q 1 5, .bit false)] := by
  refine ⟨?_, ?_⟩ <;> decide +kernel
/-- R110, by hand: a branch back by 0x800 bundles' halves from 0x1000 goes to 0. -/
theorem test_br_back : (match exec (.br 0xFF800) (w1 []) with | .next t => t.frame.target | _ => none) = some 0 := by decide +kernel
/-- R119: a LOOP of count 0 skips its body, one of count 3 repeats it. -/
theorem test_loop_skips : (match exec (.loop 5 1 0 false false 4) (w1 [(1, 0)]) with | .next t => t.frame.opened.map (·.skip) | _ => none) = some true ∧
    (match exec (.loop 5 1 0 false false 4) (w1 [(1, 3)]) with | .next t => t.frame.opened.map (fun l => (l.skip, l.len, l.count)) | _ => none) = some (false, 4, 3) := by
  refine ⟨?_, ?_⟩ <;> decide +kernel
/-- R397's example of queue 9: notifies b, d, e and f after a. -/
theorem test_notify_checks :
    let k := { Queue.reset with state := 1, log2n := 6, wridx := 104, rdidx := 100, lastseq := 8 }
    k.inRange 170 = false ∧ k.inRange 103 = false ∧ k.inRange 104 = true ∧ k.inRange 164 = true := by decide +kernel
/-- R343's example: logical core 37 is physical 0x0136, and its entry quay is core 5 of die 0. -/
theorem test_entry_quay : entryOf 0x0136 = 0x4005 ∧ shoreOf 0x0136 = 21 := by decide
/-- R71's fields by an exact sum: 1.5 + 2.25 in FP32 is 3.75, with no flag. -/
theorem test_fop_add : written (exec (.fop .add .f32 5 1 2) (xy 0x3FC00000 0x40100000)) = [(.x 1 5, .word 0x40700000)] := by decide +kernel
/-- R154, R159, by hand: bytes that clamp, signed and natural. -/
theorem test_viadd_saturates :
    (firstVec (exec (.viadd .i8 .signed 3 1 2) (wv [] [(1, bytesV [0x7F, 0x80]), (2, bytesV [1, 0xFF])]))).extractLsb' 0 16 = 0x807F ∧
    (firstVec (exec (.viadd .i8 .natural 3 1 2) (wv [] [(1, bytesV [0x7F, 0x80]), (2, bytesV [1, 0xFF])]))).extractLsb' 0 16 = 0xFF80 := by
  refine ⟨?_, ?_⟩ <;> decide +kernel
/-- R194, by hand: the lowest three 6-bit elements packed. -/
theorem test_vpack_six : (firstVec (exec (.vpack false 3 1) (wv [] [(1, bytesV [0x3F, 0x01, 0x20])]))).extractLsb' 0 18 = 0x2007F := by decide +kernel
/-- R378: a hart at 0x1000 of Cliffstack, its x5 given, with the bytes of one instruction. -/
def hartAt (x5 : DWord) (code : List Byte) : State :=
  hubState (fun h => { h with harts := [(0, { Hart.reset with pc := 0x1000, xs := [(5, x5)] })] })
    (((upTo code.length).map fun i => (0x1000 + i, nthD 0 code i)).filter fun c => c.2 != 0)
/-- The pc and x6 of hart 0 after its step. -/
def hartAfter (s : State) : DWord × DWord := let h := (s.hartStep 0).hart 0; (h.pc, h.x 6)
/-- R378, words by hand from RISC-V's encodings: ADDI x6,x5,-1; C.ADDI x6,1 beside x6 = 0; MULHU x6,x5,x5; SH1ADD x6,x5,x5; BEQ x5,x5,-16. -/
theorem test_hart_steps :
    hartAfter (hartAt 0 [0x13, 0x83, 0xF2, 0xFF]) = (0x1004, -1) ∧ hartAfter (hartAt 0 [0x05, 0x03]) = (0x1002, 1) ∧
    hartAfter (hartAt (-1) [0x33, 0xB3, 0x52, 0x02]) = (0x1004, -2) ∧ hartAfter (hartAt 5 [0x33, 0xA3, 0x52, 0x20]) = (0x1004, 15) ∧
    hartAfter (hartAt 5 [0xE3, 0x88, 0x52, 0xFE]) = (0xFF0, 0) := by decide +kernel

end Sys2Proof.Tests
end

/-! ## Reasoning rules: cores, contexts and register writes -/
namespace Sys2Proof.Machine

/-! ### A core or context after a change -/

theorem State.core_onCore (s : State) (p q : Nat) (f : Core → Core) :
    (s.onCore p f).core q = if q = p then f (s.core p) else s.core q := by
  by_cases h : q = p
  · subst h; simp
  · simp [h, State.core_onCore_other s f h]
@[simp] theorem State.core_onCtx_same (s : State) (p n : Nat) (f : Ctx → Ctx) :
    (s.onCtx p n f).core p = (s.core p).onCtx n f := State.core_onCore_same s p _
@[simp] theorem State.core_bump (s : State) (p : Nat) : s.bump.core p = s.core p := rfl
@[simp] theorem State.ctx_bump (s : State) (p n : Nat) : s.bump.ctx p n = s.ctx p n := rfl
@[simp] theorem State.core_onHub (s : State) (f : Hub → Hub) (p : Nat) : (s.onHub f).core p = s.core p := rfl

/-! ### A register write (R17) -/

/-- The record of a write of latency `lat` that the issuing context makes now. -/
def State.issuedWrite (s : State) (d : Dest) (v : Val) (lat : Nat) : Write :=
  ⟨d, v, s.frame.ctx, s.now, some (s.now + 16 * lat - 1), 0, []⟩
@[simp] theorem State.here_write (s : State) (d : Dest) (v : Val) (lat : Nat) :
    (s.write d v lat).here = { s.here with writes := s.here.writes ++ [s.issuedWrite d v lat] } :=
  State.here_onHere s _
theorem State.core_write_other (s : State) (d : Dest) (v : Val) (lat : Nat) {p : Nat} (h : p ≠ s.frame.core) :
    (s.write d v lat).core p = s.core p := State.core_onHere_other s _ h
/-- Every core after a register write is the core before it, but for the writes that are to land. -/
theorem State.core_write (s : State) (d : Dest) (v : Val) (lat p : Nat) :
    ∃ l, (s.write d v lat).core p = { s.core p with writes := l } := by
  by_cases h : p = s.frame.core
  · subst h; exact ⟨_, State.here_write s d v lat⟩
  · exact ⟨_, State.core_write_other s d v lat h⟩

end Sys2Proof.Machine

namespace Sys2Proof.Proofs
open Sys2Proof.Machine Sys2Proof.Claims

/-! ### O23: what a register result leaves unchanged -/

/-- A state that differs from another in at most one further write of the issuing core (R17). -/
def AddsAtMostOneWrite (s t : State) : Prop :=
  (∀ p n, t.ctx p n = s.ctx p n) ∧ (∀ p, (t.core p).ls = (s.core p).ls ∧ (t.core p).ks = (s.core p).ks ∧
    (t.core p).ws = (s.core p).ws ∧ (t.core p).accs = (s.core p).accs ∧ (t.core p).empties = (s.core p).empties) ∧
  (∀ p, p ≠ s.frame.core → t.core p = s.core p) ∧ t.cliff = s.cliff ∧ t.hub = s.hub ∧ t.frame = s.frame ∧
  ∃ l, t.here.writes = s.here.writes ++ l ∧ l.length ≤ 1

theorem addsAtMostOneWrite_refl (s : State) : AddsAtMostOneWrite s s :=
  ⟨fun _ _ => rfl, fun _ => ⟨rfl, rfl, rfl, rfl, rfl⟩, fun _ _ => rfl, rfl, rfl, rfl, [], by simp⟩
theorem addsAtMostOneWrite_write (s : State) (d : Dest) (v : Val) (lat : Nat) : AddsAtMostOneWrite s (s.write d v lat) := by
  refine ⟨fun p n => ?_, fun p => ?_, fun p => State.core_write_other s d v lat, rfl, rfl, rfl, [s.issuedWrite d v lat], by simp⟩
  all_goals obtain ⟨l, h⟩ := State.core_write s d v lat p
  · simp [State.ctx, Core.ctx, h]
  · simp [h]
theorem addsAtMostOneWrite_wx (s : State) (r : SReg) (v : DWord) (lat : Nat) : AddsAtMostOneWrite s (s.wx r v lat) := by
  by_cases h : r = 0
  · subst h; exact addsAtMostOneWrite_refl s
  · rw [State.wx_eq s h]; exact addsAtMostOneWrite_write s _ _ _
theorem addsAtMostOneWrite_wq (s : State) (q : PReg) (b : Bool) (lat : Nat) : AddsAtMostOneWrite s (s.wq q b lat) := by
  unfold State.wq
  split
  · exact addsAtMostOneWrite_refl s
  · exact addsAtMostOneWrite_write s _ _ _

/-- Settles O23: each of the three results is no write or one write of the issuing core. -/
theorem resultWritesFrame : Obligations.ResultWritesFrame := by
  intro s r v q w x b lat t ht
  rcases (by simpa using ht : t = s.wx r w lat ∨ t = s.wv v x lat ∨ t = s.wq q b lat) with rfl | rfl | rfl
  · exact addsAtMostOneWrite_wx s r w lat
  · exact addsAtMostOneWrite_write s _ _ lat
  · exact addsAtMostOneWrite_wq s q b lat

/-! ### O7: x0 and q0 -/

/-- A predicate that lands leaves every other context alone. -/
theorem store_q_other (c : Core) {n m : Nat} (p : PReg) (v : Val) (h : m ≠ n) : (c.store (.q n p) v).ctx m = c.ctx m :=
  Core.ctx_onCtx_other c _ h

/-- Settles O7: x0 and q0 are read and written without regard to the state, and a predicate lands in its own context. -/
theorem zeroRegisterAndTruePredicate : Obligations.ZeroRegisterAndTruePredicate :=
  ⟨fun s v b lat => ⟨s.rx_zero, s.wx_zero v lat, s.rq_zero, s.wq_zero b lat⟩,
    fun c _ _ p v h => by rw [store_q_other c p v h]⟩

/-! ### O8: the window of a write -/

theorem overlaps_xDest_self (n : Nat) (r : SReg) : (xDest n r).overlaps (xDest n r) = true := by
  unfold xDest; split <;> simp [Dest.overlaps]
theorem bits_xDest (n : Nat) (r : SReg) : (xDest n r).bits = BitVec.allOnes 256 := by
  unfold xDest; split <;> rfl
/-- A scalar register holds the value that has landed in it. -/
theorem xVal_store_xDest (c : Core) (n : Nat) {r : SReg} (v : DWord) (h : r ≠ 0) :
    (c.store (xDest n r) (.word v)).xVal n r = v := by
  unfold xDest Core.xVal
  rw [if_neg h]
  by_cases hr : r.toNat < 32
  · have h5 : (r.setWidth 5).toNat = r.toNat := by simp; omega
    simp [hr, Core.store, h5, Val.word!]
  · have h5 : (r.setWidth 5).toNat = r.toNat - 32 := by have := r.isLt; simp; omega
    simp [hr, Core.store, h5, Val.word!]
theorem writes_store_xDest (c : Core) (n : Nat) (r : SReg) (v : Val) : (c.store (xDest n r) v).writes = c.writes := by
  unfold xDest; split <;> rfl
theorem storeBits_xDest (c : Core) (n : Nat) (r : SReg) (v : Val) (m : Vec) :
    c.storeBits (xDest n r) v m = c.store (xDest n r) v := by
  unfold xDest; split <;> rfl
/-- What is read of a register does not depend on the writes that are to land. -/
theorem xVal_writes (c : Core) (l : List Write) (n : Nat) (r : SReg) : ({ c with writes := l } : Core).xVal n r = c.xVal n r := rfl

/-- The window of a write ended before cycle `now` (R17). -/
def windowEnded (now : Nat) (w : Write) : Bool :=
  match w.due with
  | some t => t < now
  | none => false
theorem land_eq (c : Core) (now free : Nat) :
    c.land now free = if (c.writes.filter (windowEnded now)).isEmpty then c
      else c.landAll free (sortBy landOrder (c.writes.filter (windowEnded now))) := rfl
/-- Nothing lands before the last cycle of its window has passed. -/
theorem land_eq_self {c : Core} {now free : Nat} (h : ∀ w ∈ c.writes, windowEnded now w = false) : c.land now free = c := by
  have hd : c.writes.filter (windowEnded now) = [] := List.filter_eq_nil_iff.2 fun w hw => by simp [h w hw]
  rw [land_eq, hd]
  rfl
theorem landAll_single {c : Core} {free t : Nat} {w : Write} (hw : c.writes = [w]) (hd : w.due = some t) :
    c.landAll free [w] = ({ c with writes := [] } : Core).landOne t w (Config.freeBit (free * 65536 + 8000)) := by
  have hf : firstOf (fun u => { u with contested := w.contested } == w) [w] = some w := by simp [firstOf]
  simp only [Core.landAll, hw, hf]
  simp [hd]
theorem setWrites_self {c : Core} {l : List Write} (h : c.writes = l) : { c with writes := l } = c := by subst h; rfl
/-- An uncontested write to a scalar register lands whole where no other write is to land. -/
theorem landOne_xDest {c : Core} {n t : Nat} {r : SReg} {w : Write} {choice : Bool} (hw : c.writes = []) (hx : w.dst = xDest n r)
    (hc : w.contested = []) : c.landOne t w choice = c.store (xDest n r) w.val := by
  have hl : w.lost t choice = 0 := by simp [Write.lost, hc]
  have hk : ¬ (xDest n r).bits &&& ~~~(0 : Vec) = 0 := by rw [bits_xDest]; decide
  have hs : (c.store (xDest n r) w.val).writes = [] := (writes_store_xDest c n r w.val).trans hw
  unfold Core.landOne
  rw [hl, hx]
  dsimp only
  rw [if_neg hk, storeBits_xDest, hs, List.filterMap_nil]
  exact setWrites_self hs
/-- The one write that is to land, uncontested and to a scalar register, lands once its window has passed. -/
theorem land_single_xDest {c : Core} {now free n t : Nat} {r : SReg} {w : Write} (hw : c.writes = [w]) (hd : w.due = some t)
    (ht : t < now) (hx : w.dst = xDest n r) (hc : w.contested = []) :
    c.land now free = ({ c with writes := [] } : Core).store (xDest n r) w.val := by
  have he : windowEnded now w = true := by simp [windowEnded, hd, ht]
  have hs : sortBy landOrder [w] = [w] := rfl
  rw [land_eq, hw, List.filter_cons_of_pos he, List.filter_nil, hs, landAll_single hw hd, landOne_xDest rfl hx hc]
  rfl
/-- What an unlanded write keeps of itself when another has landed. -/
theorem meet_keeps {u v : Write} {t n issue : Nat} {b : Vec} (h : u.meet t n issue b = some v) :
    v.dst = u.dst ∧ v.byCtx = u.byCtx ∧ v.issue = u.issue := by
  unfold Write.meet at h
  split at h
  · split at h
    · split at h
      · cases h
      · cases h; exact ⟨rfl, rfl, rfl⟩
    · cases h; exact ⟨rfl, rfl, rfl⟩
  · cases h; exact ⟨rfl, rfl, rfl⟩
/-- A write that its own context's later one has covered is discarded (R18). -/
theorem meet_own_covered {u : Write} {t issue : Nat} {b : Vec} (hi : u.issue < issue) (hb : u.dst.bits &&& ~~~b = 0) :
    u.meet t u.byCtx issue b = none := by
  simp [Write.meet, hi, hb]
/-- R18: of the writes that a landing leaves, those of its context that it covers are not older than it. -/
theorem landOne_discards (c : Core) (t : Nat) (w : Write) (choice : Bool) : ∀ u ∈ (c.landOne t w choice).writes,
    u.dst.overlaps w.dst = true → u.dst.bits &&& ~~~w.dst.bits = 0 → u.byCtx = w.byCtx → w.issue ≤ u.issue := by
  intro u hu ho hb hn
  refine Nat.not_lt.1 fun hlt => ?_
  obtain ⟨v, -, hv⟩ := List.mem_filterMap.1 hu
  split at hv
  · split at hv
    next hold =>
      obtain ⟨hd, hc, hi⟩ := meet_keeps hv
      rw [← show v.byCtx = w.byCtx from hc.symm.trans hn, meet_own_covered (by omega) (by rwa [← hd])] at hv
      cases hv
    next hnew =>
      have hage : u.byCtx = v.byCtx ∧ u.issue = v.issue := by
        split at hv
        · cases hv; exact ⟨rfl, rfl⟩
        · exact ⟨(meet_keeps hv).2.1, (meet_keeps hv).2.2⟩
      simp [← hage.1, hn] at hnew
      omega
  next hapart => cases hv; exact hapart ho

/-- A write is not yet in its window in the cycle of its issue (R17). -/
theorem early_write (s : State) (d e : Dest) (v : Val) (lat : Nat) : (s.write d v lat).here.early s.now e = s.here.early s.now e := by
  simp [Core.early, State.issuedWrite]
/-- An operand reads in the cycle of a write's issue as before it (R17, R44). -/
theorem rx_write (s : State) (d : Dest) (v : Val) (lat : Nat) (r : SReg) : (s.write d v lat).rx r = s.rx r := by
  unfold State.rx
  rw [State.write_now, State.write_frame, early_write, State.here_write]
  rfl

/-- Settles O8: before, within and after the window of the one write that is to land, and what its landing discards. -/
theorem writesLandInOrder : Obligations.WritesLandInOrder := by
  refine ⟨fun s r v lat free e hq hr hlat => ?_, landOne_discards⟩
  intro n t
  have hw : t.here.writes = [s.issuedWrite (xDest n r) (.word v) lat] := by
    simp [t, State.wx_eq s hr, show s.here.writes = [] from hq, n]
  refine ⟨?_, fun hlo hhi => ⟨land_eq_self ?_, ?_⟩, fun he => ?_⟩
  · simp only [t, State.wx_eq s hr, rx_write]
  · simp [hw, windowEnded, State.issuedWrite]; omega
  · simp [Core.early, hw, State.issuedWrite, overlaps_xDest_self, hlo]
  · rw [land_single_xDest hw rfl (by omega) rfl rfl]
    exact ⟨xVal_store_xDest _ n v hr, writes_store_xDest _ n r _⟩
end Sys2Proof.Proofs

namespace Sys2Proof.Proofs
open Sys2Proof.Machine Sys2Proof.Claims

/-! ### O20: reset, and what a write of memory reads back as -/

/-- Every core is as reset leaves it. -/
theorem core_reset (p : Nat) : State.reset.core p = Core.reset := rfl
/-- C0 is in STOP after reset, every other context is FREE (R38). -/
theorem ctx_reset (p n : Nat) : State.reset.ctx p n = if n = 0 then Ctx.resetC0 else Ctx.reset := rfl
/-- Every context is as Ctx.reset but for the state of C0. -/
theorem ctx_reset_eq (p n : Nat) : ∃ st, State.reset.ctx p n = { Ctx.reset with st := st } := by
  rw [ctx_reset]; split <;> exact ⟨_, rfl⟩
/-- No launch is on a core after reset, so the launch registers read 0 (R24). -/
theorem launchOf_reset (n : Nat) : Core.reset.launchOf n = none := by
  unfold Core.launchOf
  split
  · rfl
  · split <;> rfl

/-- Settles O20: the reset columns by evaluation, and the laws of memory. -/
theorem resetState : Obligations.ResetState := by
  refine ⟨⟨⟨Memory.wf_nil, by simp [State.reset], by simp [State.reset, Hub.reset]⟩, Memory.wf_nil, fun _ => Memory.wf_nil, rfl,
    fun p n h => by rw [ctx_reset, if_neg h]; rfl, fun p => rfl, fun p n => ?_, fun p n => ?_,
    fun p => ⟨rfl, rfl, rfl, rfl, rfl, rfl, rfl, rfl⟩, fun p => ⟨rfl, rfl, fun n => ?_⟩, fun q => rfl⟩,
    fun m a n v b hm => ⟨Memory.wf_write hm a n v, memRead_write_same m a n v, memGet_write_other m a n v b⟩⟩
  · obtain ⟨st, h⟩ := ctx_reset_eq p n
    rw [h]; exact ⟨rfl, rfl, rfl⟩
  · obtain ⟨st, h⟩ := ctx_reset_eq p n
    rw [h]; exact ⟨rfl, rfl, rfl, rfl, rfl, rfl, rfl, rfl, rfl, rfl, rfl, rfl, rfl⟩
  · rw [core_reset, Core.logicalReg, Core.launchReg, Core.banksReg, launchOf_reset]
    exact ⟨rfl, rfl, rfl⟩
end Sys2Proof.Proofs

namespace Sys2Proof.Machine
open Sys2Proof.Claims

/-! ### The first field check that fails (R61) -/

@[simp] theorem Trap.orIf_of_false (t : Trap) (rest : Option Trap) : Trap.orIf false t rest = rest := rfl
@[simp] theorem Trap.orIf_of_true (t : Trap) (rest : Option Trap) : Trap.orIf true t rest = some t := rfl
/-- Step 3: an operation of the V or M slot in C0. -/
theorem State.fieldTrap_vm {s : State} {i : Instr} (h0 : s.frame.ctx = 0) (h : Instr.isV i = true ∨ Instr.isM i = true) :
    s.fieldTrap i = some ⟨3, 0x05, headerTval s.frame.hdr⟩ :=
  Trap.orIf_true (by simp [h0, h]) _ _
/-- Step 4: an operation that this kind of core, or this code, does not have. -/
theorem State.fieldTrap_absent {s : State} {i : Instr} (h3 : Instr.isV i = false ∧ Instr.isM i = false)
    (h : Instr.absent i s.frame.core s.here.emonef = true) : s.fieldTrap i = some ⟨4, 0x02, s.tval61 0⟩ :=
  (Trap.orIf_false (by simp [h3]) _ _).trans (Trap.orIf_true h _ _)
/-- Step 6: an operation of workers in C0. -/
theorem State.fieldTrap_workerOnly {s : State} {i : Instr} (h0 : s.frame.ctx = 0) (h3 : Instr.isV i = false ∧ Instr.isM i = false)
    (h4 : Instr.absent i s.frame.core s.here.emonef = false) (h : Instr.workerOnly i = true) :
    s.fieldTrap i = some ⟨6, 0x03, s.tval61 0⟩ :=
  (Trap.orIf_false (by simp [h3]) _ _).trans <| (Trap.orIf_false h4 _ _).trans (Trap.orIf_true (by simp [h0, h]) _ _)
/-- Step 7: an operation of C0 in a worker. -/
theorem State.fieldTrap_c0Only {s : State} {i : Instr} (h0 : s.frame.ctx ≠ 0)
    (h4 : Instr.absent i s.frame.core s.here.emonef = false) (hx : Instr.special i = false) (h : Instr.c0Only i = true) :
    s.fieldTrap i = some ⟨7, 0x04, s.tval61 0⟩ := by
  refine (Trap.orIf_false (by simp [h0]) _ _).trans <| (Trap.orIf_false h4 _ _).trans <| (Trap.orIf_false (by simp [h0]) _ _).trans <|
    (Trap.orIf_false ?_ _ _).trans (Trap.orIf_true (by simp [h0, h]) _ _)
  split
  · cases hx
  · cases hx
  · rfl
/-- Step 8: a vector register of C0. -/
theorem State.fieldTrap_vector {s : State} {i : Instr} (h0 : s.frame.ctx = 0) (h3 : Instr.isV i = false ∧ Instr.isM i = false)
    (h4 : Instr.absent i s.frame.core s.here.emonef = false) (h6 : Instr.workerOnly i = false) (hx : Instr.special i = false)
    (h : (∃ r, Reg.v r ∈ Instr.dests i) ∨ ∃ r : VReg, r.toNat < 32 ∧ Reg.v r ∈ Instr.srcs i) :
    s.fieldTrap i = some ⟨8, 0x05, s.tval61 0⟩ := by
  refine (Trap.orIf_false (by simp [h3]) _ _).trans <| (Trap.orIf_false h4 _ _).trans <| (Trap.orIf_false (by simp [h6]) _ _).trans <|
    (Trap.orIf_false ?_ _ _).trans <| (Trap.orIf_false (by simp [h0]) _ _).trans <| (Trap.orIf_false (by simp [h0]) _ _).trans
    (Trap.orIf_true ?_ _ _)
  · split
    · cases hx
    · cases hx
    · rfl
  · simp only [h0, beq_self_eq_true, Bool.true_and, Bool.or_eq_true, List.any_eq_true]
    rcases h with ⟨r, hr⟩ | ⟨r, hlt, hr⟩
    · exact .inl ⟨_, hr, rfl⟩
    · exact .inr ⟨_, hr, by simpa using hlt⟩

/-! ### Field checks of the special-register operations (R20) -/

/-- A special register that its context, or its kind of core, does not let an operation write or read: step 6 of R61. -/
def Instr.sprRefused (n p : Nat) : Instr → Bool
  | .mts r _ => (n == 0 && r == 0x14) || (n != 0 && sprRoWorker r) || (r == 0x28 && isOrdinary p)
  | .mfs _ r => r == 0x28 && isOrdinary p
  | _ => false
/-- A special register that is closed to workers: step 7 of R61. -/
def Instr.sprDenied : Instr → Bool
  | .mts r _ | .mfs _ r => sprClosed r
  | .timerWrite _ | .xvalWrite _ => true
  | _ => false
/-- The checks of R61 that no special register decides find nothing in an operation. -/
structure Instr.Plain (i : Instr) : Prop where
  slot : Instr.isV i = false ∧ Instr.isM i = false
  present : ∀ p e, Instr.absent i p e = false
  shared : Instr.workerOnly i = false ∧ Instr.c0Only i = false
  dests : ∀ r, Reg.v r ∉ Instr.dests i
  srcs : ∀ r, Reg.v r ∉ Instr.srcs i
  single : (Instr.dests i).length ≤ 1
theorem noVector_x (a : SReg) (r : VReg) : Reg.v r ∉ [Reg.x a] := by simp
theorem Instr.plain_mts (n : BitVec 6) (a : SReg) : Instr.Plain (.mts n a) :=
  ⟨⟨rfl, rfl⟩, fun _ _ => rfl, ⟨rfl, rfl⟩, nofun, noVector_x a, Nat.zero_le 1⟩
theorem Instr.plain_mfs (d : SReg) (n : BitVec 6) : Instr.Plain (.mfs d n) :=
  ⟨⟨rfl, rfl⟩, fun _ _ => rfl, ⟨rfl, rfl⟩, noVector_x d, nofun, Nat.le_refl 1⟩
theorem Instr.plain_timerWrite (a : SReg) : Instr.Plain (.timerWrite a) :=
  ⟨⟨rfl, rfl⟩, fun _ _ => rfl, ⟨rfl, rfl⟩, nofun, noVector_x a, Nat.zero_le 1⟩
theorem Instr.plain_xvalWrite (a : SReg) : Instr.Plain (.xvalWrite a) :=
  ⟨⟨rfl, rfl⟩, fun _ _ => rfl, ⟨rfl, rfl⟩, nofun, noVector_x a, Nat.zero_le 1⟩
/-- Only its special register can trap an operation that is otherwise plain. -/
theorem State.fieldTrap_plain (s : State) {i : Instr} (h : Instr.Plain i) : s.fieldTrap i =
    (Trap.orIf (Instr.sprRefused s.frame.ctx s.frame.core i) ⟨6, 0x03, s.tval61 0⟩ <|
      Trap.orIf (s.frame.ctx != 0 && Instr.sprDenied i) ⟨7, 0x04, s.tval61 0⟩ none) := by
  refine (Trap.orIf_false (by simp [h.slot]) _ _).trans <| (Trap.orIf_false (h.present _ _) _ _).trans <|
    (Trap.orIf_false (by simp [h.shared]) _ _).trans ?_
  have h8 : (Trap.orIf (s.frame.ctx == 0 && ((Instr.dests i).any (fun r => match r with | .v _ => true | _ => false) ||
      (Instr.srcs i).any (fun r => match r with | .v r => r.toNat < 32 | _ => false))) ⟨8, 0x05, s.tval61 0⟩ <|
      Trap.orIf (hasDup (Instr.destsOf i s.frame.ctx)) ⟨9, 0x01, s.tval61 0⟩ none) = none := by
    rw [Instr.destsOf_short _ h.single, Trap.orIf_of_false]
    refine Trap.orIf_false (Bool.and_eq_false_iff.2 (.inr (Bool.or_eq_false_iff.2 ⟨?_, ?_⟩))) _ _
    · refine List.any_eq_false.2 fun r hr => ?_
      cases r with
      | v r => exact absurd hr (h.dests r)
      | x r => simp
      | q r => simp
    · refine List.any_eq_false.2 fun r hr => ?_
      cases r with
      | v r => exact absurd hr (h.srcs r)
      | x r => simp
      | q r => simp
  exact congrArg (Trap.orIf (Instr.sprRefused s.frame.ctx s.frame.core i) _) <|
    (Trap.orIf_false (by simp [h.shared]) _ _).trans <| congrArg (Trap.orIf (s.frame.ctx != 0 && Instr.sprDenied i) _) h8
theorem State.fieldTrap_mfs (s : State) (d : SReg) (n : BitVec 6) : s.fieldTrap (.mfs d n) =
    (Trap.orIf (n == 0x28 && isOrdinary s.frame.core) ⟨6, 0x03, s.tval61 0⟩ <|
      Trap.orIf (s.frame.ctx != 0 && sprClosed n) ⟨7, 0x04, s.tval61 0⟩ none) := s.fieldTrap_plain (Instr.plain_mfs d n)
theorem State.fieldTrap_mts (s : State) (n : BitVec 6) (a : SReg) : s.fieldTrap (.mts n a) =
    (Trap.orIf ((s.frame.ctx == 0 && n == 0x14) || (s.frame.ctx != 0 && sprRoWorker n) || (n == 0x28 && isOrdinary s.frame.core))
      ⟨6, 0x03, s.tval61 0⟩ <|
      Trap.orIf (s.frame.ctx != 0 && sprClosed n) ⟨7, 0x04, s.tval61 0⟩ none) := s.fieldTrap_plain (Instr.plain_mts n a)
theorem State.fieldTrap_timerWrite (s : State) (a : SReg) :
    s.fieldTrap (.timerWrite a) = Trap.orIf (s.frame.ctx != 0 && true) ⟨7, 0x04, s.tval61 0⟩ none :=
  s.fieldTrap_plain (Instr.plain_timerWrite a)
theorem State.fieldTrap_xvalWrite (s : State) (a : SReg) :
    s.fieldTrap (.xvalWrite a) = Trap.orIf (s.frame.ctx != 0 && true) ⟨7, 0x04, s.tval61 0⟩ none :=
  s.fieldTrap_plain (Instr.plain_xvalWrite a)
end Sys2Proof.Machine

namespace Sys2Proof.Proofs
open Sys2Proof.Machine Sys2Proof.Claims

/-! ### O10: operations closed to a context -/

/-- An operation of the V or M slot is one that a bundle can hold. -/
theorem isOp_of_vm {i : Instr} (h : Instr.isV i = true ∨ Instr.isM i = true) : i.isOp = true := by
  unfold Instr.isOp
  split
  · rfl
  · rcases h with h | h
    · simp [show (encVop i).isSome = true from h]
    · simp [show (encM i).isSome = true from h]
/-- An operation of a bundle that fails a field check traps as a bundle of its own (R61). -/
theorem exec_traps {s : State} {i : Instr} {t : Trap} (hw : s.frame.phase = .whole) (hi : i.isOp = true) (ht : s.fieldTrap i = some t) :
    exec i s = .next (s.issueTrap t.cause t.tval) := by
  obtain ⟨chk, perf, he⟩ := exec_operation i hi
  rw [he]
  exact operation_traps hw (by simp [State.firstTrap, ht])

theorem sprClosed_not_qarb {n : BitVec 6} (h : sprClosed n = true) : (n == 0x28#6) = false ∧ sprRoWorker n = false := by
  revert n; decide
theorem sprRoWorker_not_qarb {n : BitVec 6} (h : sprRoWorker n = true) : (n == 0x28#6) = false := by
  revert n; decide

/-- A worker's number as the checks of R61 test it. -/
theorem worker_tests {n : Nat} (h : n ≠ 0) : (n != 0) = true ∧ (n == 0) = false := by simp [h]

/-- R20: the special registers closed to a context, and those it may only read. -/
theorem specialRegisters_trap (s : State) (d a : SReg) (n : BitVec 6) (hw : s.frame.phase = .whole) :
    let trap (k : Nat) : Out := .next (s.issueTrap k (s.tval61 0))
    (s.frame.ctx ≠ 0 → sprClosed n = true → exec (.mfs d n) s = trap 4 ∧ exec (.mts n a) s = trap 4) ∧
    (s.frame.ctx ≠ 0 → exec (.timerWrite a) s = trap 4 ∧ exec (.xvalWrite a) s = trap 4) ∧
    (s.frame.ctx ≠ 0 → sprRoWorker n = true → exec (.mts n a) s = trap 3) ∧
    (s.frame.ctx = 0 → exec (.mts 0x14 a) s = trap 3) := by
  have h3 (i : Instr) (hi : i.isOp = true) (h : s.fieldTrap i = some ⟨6, 3, s.tval61 0⟩) := exec_traps hw hi h
  have h4 (i : Instr) (hi : i.isOp = true) (h : s.fieldTrap i = some ⟨7, 4, s.tval61 0⟩) := exec_traps hw hi h
  refine ⟨fun h0 hn => ⟨h4 (.mfs d n) rfl ?_, h4 (.mts n a) rfl ?_⟩, fun h0 => ⟨h4 (.timerWrite a) rfl ?_, h4 (.xvalWrite a) rfl ?_⟩,
    fun h0 hn => h3 (.mts n a) rfl ?_, fun h0 => h3 (.mts 0x14 a) rfl ?_⟩
  · simp [State.fieldTrap_mfs, sprClosed_not_qarb hn, worker_tests h0, hn]
  · simp [State.fieldTrap_mts, sprClosed_not_qarb hn, worker_tests h0, hn]
  · simp [State.fieldTrap_timerWrite, worker_tests h0]
  · simp [State.fieldTrap_xvalWrite, worker_tests h0]
  · simp [State.fieldTrap_mts, worker_tests h0, hn]
  · simp [State.fieldTrap_mts, h0]

/-- Bundles of one operation trap, all with one cause and the TVAL of R61. -/
def AllTrap (s : State) (l : List Instr) (k : Nat) : Prop := ∀ i ∈ l, exec i s = .next (s.issueTrap k (s.tval61 0))
theorem allTrap_of_fieldTrap {s : State} {l : List Instr} {st k : Nat} (hw : s.frame.phase = .whole) (hi : l.all Instr.isOp = true)
    (h : ∀ i ∈ l, s.fieldTrap i = some ⟨st, k, s.tval61 0⟩) : AllTrap s l k :=
  fun i hl => exec_traps (t := ⟨st, k, s.tval61 0⟩) hw (List.all_eq_true.1 hi i hl) (h i hl)
/-- An operation of the S, L or N slot that names no special register. -/
def Instr.slotSLN (i : Instr) : Bool := !Instr.isV i && !Instr.isM i && !Instr.special i
theorem slotSLN_iff {i : Instr} : Instr.slotSLN i = true ↔ (Instr.isV i = false ∧ Instr.isM i = false) ∧ Instr.special i = false := by
  simp [Instr.slotSLN]
/-- Operations of C0 in a worker (R262). -/
theorem c0Only_trap {s : State} {l : List Instr} (hw : s.frame.phase = .whole) (h0 : s.frame.ctx ≠ 0)
    (hl : (l.all fun i => i.isOp && Instr.c0Only i && Instr.slotSLN i && !Instr.absent i s.frame.core s.here.emonef) = true) : AllTrap s l 4 := by
  simp only [List.all_eq_true, Bool.and_eq_true, Bool.not_eq_true', slotSLN_iff] at hl
  refine allTrap_of_fieldTrap (st := 7) hw (List.all_eq_true.2 fun i hi => (hl i hi).1.1.1) fun i hi => ?_
  obtain ⟨⟨⟨-, hc⟩, -, hx⟩, ha⟩ := hl i hi
  exact State.fieldTrap_c0Only h0 ha hx hc
/-- Operations of workers in C0 (R262). -/
theorem workerOnly_trap {s : State} {l : List Instr} (hw : s.frame.phase = .whole) (h0 : s.frame.ctx = 0)
    (hl : (l.all fun i => i.isOp && Instr.workerOnly i && Instr.slotSLN i && !Instr.absent i s.frame.core s.here.emonef) = true) :
    AllTrap s l 3 := by
  simp only [List.all_eq_true, Bool.and_eq_true, Bool.not_eq_true', slotSLN_iff] at hl
  refine allTrap_of_fieldTrap (st := 6) hw (List.all_eq_true.2 fun i hi => (hl i hi).1.1.1) fun i hi => ?_
  obtain ⟨⟨⟨-, ho⟩, hs, -⟩, ha⟩ := hl i hi
  exact State.fieldTrap_workerOnly h0 hs ha ho
/-- Operations that name a vector register of C0 (R141, R143, R152). -/
theorem vector_trap {s : State} {l : List Instr} (hw : s.frame.phase = .whole) (h0 : s.frame.ctx = 0)
    (hl : (l.all fun i => i.isOp && !Instr.workerOnly i && Instr.slotSLN i && !Instr.absent i s.frame.core s.here.emonef) = true)
    (hv : ∀ i ∈ l, (∃ r, Reg.v r ∈ Instr.dests i) ∨ ∃ r : VReg, r.toNat < 32 ∧ Reg.v r ∈ Instr.srcs i) : AllTrap s l 5 := by
  simp only [List.all_eq_true, Bool.and_eq_true, Bool.not_eq_true', slotSLN_iff] at hl
  refine allTrap_of_fieldTrap (st := 8) hw (List.all_eq_true.2 fun i hi => (hl i hi).1.1.1) fun i hi => ?_
  obtain ⟨⟨⟨-, ho⟩, hs, hx⟩, ha⟩ := hl i hi
  exact State.fieldTrap_vector h0 hs ha ho hx (hv i hi)
/-- Operations that this kind of core, or this code, does not have (R60, R420). -/
theorem absent_trap {s : State} {l : List Instr} (hw : s.frame.phase = .whole) (hl : (l.all fun i => i.isOp && Instr.slotSLN i) = true)
    (ha : ∀ i ∈ l, Instr.absent i s.frame.core s.here.emonef = true) : AllTrap s l 2 := by
  simp only [List.all_eq_true, Bool.and_eq_true, slotSLN_iff] at hl
  refine allTrap_of_fieldTrap (st := 4) hw (List.all_eq_true.2 fun i hi => (hl i hi).1) fun i hi => ?_
  exact State.fieldTrap_absent (hl i hi).2.1 (ha i hi)
/-- QARB on an ordinary core (R20). -/
theorem qarb_trap {s : State} (hw : s.frame.phase = .whole) (hp : isOrdinary s.frame.core = true) (d a : SReg) :
    AllTrap s [.mfs d 0x28, .mts 0x28 a] 3 := by
  refine allTrap_of_fieldTrap (st := 6) hw rfl ?_
  simp [State.fieldTrap_mfs, State.fieldTrap_mts, hp]

/-- Settles O10: each clause names the first check of R61 that its operations fail. -/
theorem forbiddenOperationsTrap : Obligations.ForbiddenOperationsTrap := by
  refine ⟨specialRegisters_trap,
    fun s i hw h0 h => exec_traps (t := ⟨3, 5, headerTval s.frame.hdr⟩) hw (isOp_of_vm h) (State.fieldTrap_vm h0 h),
    fun s a b c d v w q m f e p z sh bar ch hw => ⟨fun h0 => c0Only_trap hw h0 rfl,
      fun h0 => ⟨workerOnly_trap hw h0 rfl, vector_trap hw h0 rfl ?_, fun hv => vector_trap hw h0 rfl ?_⟩,
      fun hk => absent_trap hw rfl ?_, fun hk => absent_trap hw rfl ?_, fun hk => absent_trap hw rfl ?_, fun hk => qarb_trap hw hk d a⟩⟩
  all_goals simp only [List.forall_mem_cons, List.not_mem_nil, false_imp_iff, implies_true, and_true]
  · exact ⟨.inl ⟨v, List.mem_cons_self⟩, .inl ⟨v, List.mem_cons_self⟩⟩
  · exact ⟨.inr ⟨v, hv, List.mem_cons_self⟩, .inr ⟨v, hv, List.mem_cons_self⟩,
      .inr ⟨v, hv, List.mem_cons_of_mem _ (List.mem_cons_of_mem _ List.mem_cons_self)⟩⟩
  · exact ⟨bne_iff_ne.2 hk, bne_iff_ne.2 hk, bne_iff_ne.2 hk⟩
  · exact ⟨congrArg not hk, congrArg not hk, congrArg not hk⟩
  · exact ⟨congrArg not hk, congrArg not hk⟩
end Sys2Proof.Proofs

namespace Sys2Proof.Machine

/-! ### What MTS to XVAL does (R26, R27) -/

@[simp] theorem State.writes_noteSeed (s : State) (n : Nat) : (s.noteSeed n).here.writes = s.here.writes := by
  unfold State.noteSeed State.here
  rw [State.onCtx_frame, State.core_onCtx_same]
  rfl
/-- What MTS to XVAL does once its checks have passed (R26, R27). -/
def State.writeXval (s : State) (a : SReg) : State :=
  match xvalDest s.here.csel (s.rx a) with
  | none => s
  | some (d, val) =>
    if cselClass s.here.csel = 3 && cselItem s.here.csel = 0x0A && !cselRp s.here.csel
    then (s.write d val 1).noteSeed (cselCtx s.here.csel) else s.write d val 1
theorem State.writeXval_none {s : State} {a : SReg} (hd : xvalDest s.here.csel (s.rx a) = none) : s.writeXval a = s := by
  simp [State.writeXval, hd]
theorem State.writeXval_some {s : State} {a : SReg} {d : Dest} {v : Val} (hd : xvalDest s.here.csel (s.rx a) = some (d, v))
    (hs : cselClass s.here.csel ≠ 3 ∨ cselItem s.here.csel ≠ 0x0A ∨ cselRp s.here.csel = true) : s.writeXval a = s.write d v 1 := by
  simp only [State.writeXval, hd]
  refine if_neg ?_
  rcases hs with hs | hs | hs <;> simp [hs]
theorem State.writeXval_seed {s : State} {a : SReg} {d : Dest} {v : Val} (hd : xvalDest s.here.csel (s.rx a) = some (d, v)) :
    (s.writeXval a).here.writes = (s.write d v 1).here.writes := by
  simp only [State.writeXval, hd]
  split
  · exact writes_noteSeed _ _
  · rfl

/-! ### The destination that CSEL selects (R26, R27) -/

section
variable {v : DWord} (w : DWord)
theorem poolItem_class2 (hc : cselClass v = 2) : poolItem v = some 0x10 := by simp [poolItem, hc]
theorem poolItem_class3 (hc : cselClass v = 3) : poolItem v = find class3 (cselItem v) := by simp [poolItem, hc]
theorem xvalDest_x0 (hc : cselClass v = 0) (hi : cselItem v = 0) : xvalDest v w = none := by
  cases hr : cselRp v <;> simp [xvalDest, poolItem, hr, hc, hi]
theorem xvalDest_q0 (hc : cselClass v = 2) (hi : cselItem v = 0) : xvalDest v w = none := by
  cases hr : cselRp v <;> simp [xvalDest, poolItem, hr, hc, hi]
/-- TURN, PHASE and VSEQ are read only (R27). -/
theorem xvalDest_readOnly (hc : cselClass v = 3) (hi : cselItem v ∈ [0x03, 0x1A, 0x1C]) : xvalDest v w = none := by
  simp only [xvalDest, hc, hi, decide_true, Bool.and_self, if_true]

section
variable (hr : cselRp v = false)
include hr
theorem xvalDest_x (hc : cselClass v = 0) (hi : cselItem v ≠ 0) :
    xvalDest v w = some (.x (cselCtx v) (BitVec.ofNat 5 (cselItem v)), .word w) := by simp [xvalDest, hr, hc, hi]
theorem xvalDest_v (hc : cselClass v = 1) :
    xvalDest v w = some (.vq (cselCtx v) (BitVec.ofNat 5 (cselItem v)) (cselQtr v), .word w) := by simp [xvalDest, hr, hc]
theorem xvalDest_q (hc : cselClass v = 2) (hi : cselItem v ≠ 0) :
    xvalDest v w = some (.q (cselCtx v) (BitVec.ofNat 3 (cselItem v)), .bit (w.getLsbD 0)) := by simp [xvalDest, hr, hc, hi]
theorem xvalDest_spr (hc : cselClass v = 3) (hi : cselItem v ∉ [0x03, 0x1A, 0x1C]) :
    xvalDest v w = some (.spr (cselCtx v) (BitVec.ofNat 6 (cselItem v)) (xvalMask (cselItem v)), .word w) := by
  simp only [xvalDest, hr, hc, hi, decide_false, Bool.and_false]; rfl
theorem xvalDest_next (hc : cselClass v = 4) : xvalDest v w = some (.next (cselCtx v), .word w) := by simp [xvalDest, hr, hc]
end

section
variable (hr : cselRp v = true)
include hr
theorem xvalDest_pool (hc : cselClass v ∈ [0, 1, 4]) {o : Nat} (ho : poolItem v = some o) :
    xvalDest v w = some (.pool (cselCtx v) o (BitVec.allOnes 64), .word w) := by
  have h3 : cselClass v ≠ 3 ∧ cselClass v ≠ 2 := by
    simp only [List.mem_cons, List.not_mem_nil, or_false] at hc
    omega
  simp [xvalDest, hr, h3, ho]
theorem xvalDest_pool_q (hc : cselClass v = 2) (hi : cselItem v ≠ 0) :
    xvalDest v w = some (.pool (cselCtx v) 0x10 (1 <<< cselItem v), .word ((w &&& 1) <<< cselItem v)) := by
  simp [xvalDest, hr, hc, hi, poolItem_class2 hc]
theorem xvalDest_pool_spr (hc : cselClass v = 3) (hi : cselItem v ∉ [0x03, 0x1A, 0x1C]) {o : Nat} (ho : find class3 (cselItem v) = some o) :
    xvalDest v w = some (.pool (cselCtx v) o (xvalMask (cselItem v)), .word w) := by
  simp only [xvalDest, hr, hc, hi, poolItem_class3 hc, ho]; rfl
end
end
end Sys2Proof.Machine

namespace Sys2Proof.Proofs
open Sys2Proof.Machine Sys2Proof.Claims

/-! ### O11: writes through the cross-context window -/

theorem exec_xvalWrite_eq (s : State) (a : SReg) : exec (.xvalWrite a) s =
    operation (.xvalWrite a) (fun s => xvalCheck s.here.csel (s.rx a)) (fun s => s.writeXval a) s := rfl
/-- C0's MTS to XVAL passes its checks unless FCR would refuse the value (R27). -/
theorem exec_xvalWrite {s : State} {a : SReg} (h : C0Issues s)
    (hf : cselClass s.here.csel = 3 → cselItem s.here.csel = 0x08 → fcrRefused (s.rx a) = false) :
    exec (.xvalWrite a) s = .next (s.writeXval a) := by
  have hc : (cselClass s.here.csel == 3 && cselItem s.here.csel == 0x08 && fcrRefused (s.rx a)) = false := by
    by_cases h38 : cselClass s.here.csel = 3 ∧ cselItem s.here.csel = 0x08
    · simp [h38, hf h38.1 h38.2]
    · have hb : (cselClass s.here.csel == 3 && cselItem s.here.csel == 0x08) = false := by simpa using h38
      rw [hb]
      rfl
  rw [exec_xvalWrite_eq]
  exact operation_issues h.1 ((State.fieldTrap_xvalWrite s a).trans (by simp [h.2])) (Trap.orIf_false hc _ _)

/-- Settles O11: the destination that CSEL names, item by item. -/
theorem xvalWritesSelectedItem : Obligations.XvalWritesSelectedItem := by
  intro s a h v i n href hf
  rw [exec_xvalWrite h hf]
  have hsome {d : Dest} {x : Val} (hd : xvalDest v (s.rx a) = some (d, x)) (hs : cselClass v ≠ 3 ∨ i ≠ 0x0A ∨ cselRp v = true) :
      (Host.Outcome.next (s.writeXval a) : Out) = .next (s.write d x 1) := congrArg _ (State.writeXval_some hd hs)
  have hnone (hd : xvalDest v (s.rx a) = none) : (Host.Outcome.next (s.writeXval a) : Out) = .next s :=
    congrArg _ (State.writeXval_none hd)
  have h3 (hc : cselClass v ≠ 3) : cselClass v ≠ 3 ∨ i ≠ 0x0A ∨ cselRp v = true := .inl hc
  refine ⟨fun hr hc hi => hsome (xvalDest_x _ hr hc hi) (h3 (by simp [hc])), fun hc hi => hnone (xvalDest_x0 _ hc hi),
    fun hr hc => hsome (xvalDest_v _ hr hc) (h3 (by simp [hc])), fun hr hc hi => hsome (xvalDest_q _ hr hc hi) (h3 (by simp [hc])),
    fun hc hi => hnone (xvalDest_q0 _ hc hi), fun hc hi => hnone (xvalDest_readOnly _ hc hi),
    fun hr hc hi => hsome (xvalDest_spr _ hr hc ?_) (.inr (.inl ?_)), fun hr hc hi => ⟨_, rfl, State.writeXval_seed ?_⟩,
    fun hr hc => hsome (xvalDest_next _ hr hc) (h3 (by simp [hc])), fun hr hc o ho => hsome (xvalDest_pool _ hr hc ho) (.inr (.inr hr)),
    fun hr hc hi => hsome (xvalDest_pool_q _ hr hc hi) (.inr (.inr hr)),
    fun hr hc hi o ho => hsome (xvalDest_pool_spr _ hr hc hi ho) (.inr (.inr hr))⟩
  · simp only [List.mem_cons, List.not_mem_nil, or_false] at hi ⊢
    omega
  · simp only [List.mem_cons, List.not_mem_nil, or_false] at hi
    omega
  · have hi' : cselItem s.here.csel = 0x0A := hi
    rw [xvalDest_spr _ hr hc (by rw [hi']; decide), hi']
    rfl
end Sys2Proof.Proofs

namespace Sys2Proof.Machine
open Sys2Proof.Claims

/-! ### The first element that satisfies a test -/

theorem firstOf_eq_find? {α : Type} (p : α → Bool) (l : List α) : firstOf p l = l.find? p := by
  induction l with
  | nil => rfl
  | cons a t ih => cases h : p a <;> simp [firstOf, h, ih]
theorem firstOf_some {α : Type} {p : α → Bool} {l : List α} {a : α} (h : firstOf p l = some a) : a ∈ l ∧ p a = true := by
  rw [firstOf_eq_find?] at h
  exact ⟨List.mem_of_find?_eq_some h, List.find?_some h⟩
theorem firstOf_none {α : Type} {p : α → Bool} {l : List α} (h : ∀ a ∈ l, p a = false) : firstOf p l = none := by
  rw [firstOf_eq_find?, List.find?_eq_none]
  exact fun a ha => by simp [h a ha]
theorem firstOf_unique {α : Type} {p : α → Bool} {l : List α} {a : α} (ha : a ∈ l) (hp : p a = true)
    (hu : ∀ b ∈ l, p b = true → b = a) : firstOf p l = some a := by
  cases h : firstOf p l with
  | none => rw [firstOf_eq_find?, List.find?_eq_none] at h; exact absurd hp (h a ha)
  | some b => rw [hu b (firstOf_some h).1 (firstOf_some h).2]

/-! ### Fields of PHASE and VSEQ (R24, R25) -/

theorem Ctx.phaseReg_shows (x : Ctx) : ShowsPhase x.phaseReg x := by
  refine ⟨?_, ?_, ?_⟩
  · simp (disch := decide) only [Ctx.phaseReg, bit_high]
    simp
  · simp (disch := decide) only [Ctx.phaseReg, extract_high, extract_low, extract_all, Nat.reduceSub]
  · simp (disch := decide) only [Ctx.phaseReg, extract_low, extract_all]
theorem Ctx.selected_unique {x : Ctx} {e : RingEntry} (he : e ∈ x.ring) (hs : e.seq = x.vseqSel)
    (hu : ∀ f ∈ x.ring, f.seq = x.vseqSel → f = e) : x.selected = some e :=
  firstOf_unique he (by simpa using hs) fun f hf hp => hu f hf (by simpa using hp)
theorem Ctx.selected_none {x : Ctx} (h : ∀ e ∈ x.ring, e.seq ≠ x.vseqSel) : x.selected = none :=
  firstOf_none fun e he => by simpa using h e he
/-- The upper half of VSEQ: the selected entry of the dispatch ring, if there is one. -/
def Ctx.vseqEntry (x : Ctx) : Word :=
  match x.selected with
  | some e => (1 : BitVec 1) ++ BitVec.ofBool e.m ++ (0 : BitVec 13) ++ e.caddr
  | none => 0
theorem Ctx.vseqReg_eq (x : Ctx) : x.vseqReg = x.vseqEntry ++ x.vseqNext ++ x.vseqSel := by
  unfold Ctx.vseqReg Ctx.vseqEntry
  cases x.selected with
  | some e => rfl
  | none => rfl
theorem Ctx.vseqEntry_some {x : Ctx} {e : RingEntry} (h : x.selected = some e) :
    x.vseqEntry = (1 : BitVec 1) ++ BitVec.ofBool e.m ++ (0 : BitVec 13) ++ e.caddr := by simp [Ctx.vseqEntry, h]
theorem Ctx.vseqEntry_none {x : Ctx} (h : x.selected = none) : x.vseqEntry = 0 := by simp [Ctx.vseqEntry, h]
theorem Ctx.vseqEntry_reserved (x : Ctx) : x.vseqEntry.extractLsb' 17 13 = 0 := by
  cases h : x.selected with
  | some e =>
    rw [Ctx.vseqEntry_some h]
    simp (disch := decide) only [extract_high, extract_low, extract_all, Nat.reduceSub]
  | none => rw [Ctx.vseqEntry_none h]; rfl
theorem Ctx.vseqReg_shows (x : Ctx) : ShowsVseq x.vseqReg x := by
  rw [Ctx.vseqReg_eq]
  refine ⟨?_, ?_, ?_, fun e he hs hu => ?_, fun h => ?_⟩
  · simp (disch := decide) only [extract_high, Nat.reduceSub]
    exact x.vseqEntry_reserved
  · simp (disch := decide) only [extract_high, extract_low, extract_all, Nat.reduceSub]
  · simp (disch := decide) only [extract_low, extract_all]
  · rw [Ctx.vseqEntry_some (Ctx.selected_unique he hs hu)]
    refine ⟨?_, ?_, ?_⟩
    · simp (disch := decide) only [bit_high]; rfl
    · simp (disch := decide) only [bit_high, bit_low]; simp
    · simp (disch := decide) only [extract_high, extract_low, extract_all, Nat.reduceSub]
  · rw [Ctx.vseqEntry_none (Ctx.selected_none h)]
    simp (disch := decide) only [extract_high, extract_all, Nat.reduceSub]

/-! ### What MFS of XVAL shows (R26, R27) -/

/-- With no write to land, no register is undefined (R17). -/
theorem early_quiet {s : State} (hq : Quiet s) (now : Nat) (d : Dest) : s.here.early now d = false := by
  simp [Core.early, show s.here.writes = [] from hq]
theorem shift_and_one (w : DWord) (i : Nat) : (w >>> i) &&& 1 = (BitVec.ofBool (w.getLsbD i)).setWidth 64 := by
  apply BitVec.eq_of_getLsbD_eq
  intro j hj
  cases j with
  | zero => simp
  | succ j => simp
theorem shift_setWidth (w : Vec) (k : Nat) : (w >>> k).setWidth 64 = w.extractLsb' k 64 := by
  apply BitVec.eq_of_getLsbD_eq
  intro j hj
  simp [hj]
/-- The offsets of R36 are those of the table. -/
theorem find_class3 : ∀ r ∈ class3, find class3 r.1 = some r.2 := by decide

section
variable {s : State} (hr : cselRp s.here.csel = true)
include hr
theorem xvalRead_pool_x0 (hc : cselClass s.here.csel = 0) (hi : cselItem s.here.csel = 0) : s.xvalRead = 0 := by
  simp [State.xvalRead, hr, poolItem, hc, hi]
theorem xvalRead_pool_q (hc : cselClass s.here.csel = 2) : s.xvalRead = if cselItem s.here.csel = 0 then 1 else
    (BitVec.ofBool ((s.here.word (poolAddr (cselCtx s.here.csel) 0x10)).getLsbD (cselItem s.here.csel))).setWidth 64 := by
  rw [← shift_and_one]
  simp [State.xvalRead, hr, poolItem_class2 hc, hc]
theorem xvalRead_pool (hc : cselClass s.here.csel ≠ 2) {o : Nat} (ho : poolItem s.here.csel = some o) :
    s.xvalRead = s.here.word (poolAddr (cselCtx s.here.csel) o) := by
  simp [State.xvalRead, hr, hc, ho]
end

section
variable {s : State} (hr : cselRp s.here.csel = false)
include hr
theorem xvalRead_free (hf : (s.here.ctx (cselCtx s.here.csel)).st = .free) :
    s.xvalRead = if cselClass s.here.csel = 2 ∧ cselItem s.here.csel = 0 then 1 else 0 := by
  simp [State.xvalRead, hr, hf]
theorem xvalRead_x0 (hc : cselClass s.here.csel = 0) (hi : cselItem s.here.csel = 0) : s.xvalRead = 0 := by
  simp [State.xvalRead, hr, hc, hi]
variable (hq : Quiet s) (hf : (s.here.ctx (cselCtx s.here.csel)).st ≠ .free)
include hq hf
theorem xvalRead_x (hc : cselClass s.here.csel = 0) (hi : cselItem s.here.csel ≠ 0) :
    s.xvalRead = look 0 (s.here.ctx (cselCtx s.here.csel)).xs (cselItem s.here.csel) := by
  simp [State.xvalRead, hr, hf, hc, hi, early_quiet hq]
theorem xvalRead_v (hc : cselClass s.here.csel = 1) :
    s.xvalRead = (look 0 (s.here.ctx (cselCtx s.here.csel)).vs (cselItem s.here.csel)).extractLsb' (64 * (cselQtr s.here.csel).toNat) 64 := by
  simp [State.xvalRead, hr, hf, hc, early_quiet hq, shift_setWidth]
theorem xvalRead_q (hc : cselClass s.here.csel = 2) : s.xvalRead = if cselItem s.here.csel = 0 then 1 else
    (BitVec.ofBool ((s.here.ctx (cselCtx s.here.csel)).qs.getLsbD (cselItem s.here.csel))).setWidth 64 := by
  by_cases hi : cselItem s.here.csel = 0 <;> simp [State.xvalRead, hr, hf, hc, hi, early_quiet hq]
theorem xvalRead_spr (hc : cselClass s.here.csel = 3) :
    s.xvalRead = (s.here.ctx (cselCtx s.here.csel)).spr (cselItem s.here.csel) := by
  simp [State.xvalRead, hr, hf, hc, early_quiet hq]
theorem xvalRead_next (hc : cselClass s.here.csel = 4) : s.xvalRead = (s.here.ctx (cselCtx s.here.csel)).next := by
  simp [State.xvalRead, hr, hf, hc, early_quiet hq]
end
end Sys2Proof.Machine

namespace Sys2Proof.Proofs
open Sys2Proof.Machine Sys2Proof.Claims

/-! ### O9: MFS and MTS -/

/-- MFS of XVAL shows the selected item (R26, R27). -/
theorem xvalRead_shows {s : State} (hq : Quiet s) : ShowsSelected s s.xvalRead := by
  intro _
  refine ⟨fun hc hi => ?_, fun hc hi => ?_, fun hr hf hc => (xvalRead_free hr hf).trans (if_neg fun h => ?_),
    fun hr hf => ⟨fun hc hi => xvalRead_x hr hq hf hc hi, fun hc => xvalRead_v hr hq hf hc,
      fun hc hi => (xvalRead_q hr hq hf hc).trans (if_neg hi), fun hc => ?_, fun hc => ⟨fun hi => ?_, fun hi => ?_⟩,
      fun hc => xvalRead_next hr hq hf hc⟩,
    fun hr => ⟨fun hc hi => xvalRead_pool hr (by simp [hc]) (by simp [poolItem, hc, hi]),
      fun hc => xvalRead_pool hr (by simp [hc]) (by simp [poolItem, hc]),
      fun hc hi => (xvalRead_pool_q hr hc).trans (if_neg hi),
      fun hc r hm hi => xvalRead_pool hr (by simp [hc]) (by rw [poolItem_class3 hc, ← hi]; exact find_class3 r hm),
      fun hc => xvalRead_pool hr (by simp [hc]) (by simp [poolItem, hc])⟩⟩
  · cases hr : cselRp s.here.csel with
    | true => exact xvalRead_pool_x0 hr hc hi
    | false => exact xvalRead_x0 hr hc hi
  · cases hr : cselRp s.here.csel with
    | true => exact (xvalRead_pool_q hr hc).trans (if_pos hi)
    | false =>
      by_cases hf : (s.here.ctx (cselCtx s.here.csel)).st = .free
      · exact (xvalRead_free hr hf).trans (if_pos ⟨hc, hi⟩)
      · exact (xvalRead_q hr hq hf hc).trans (if_pos hi)
  · omega
  · rw [xvalRead_spr hr hq hf hc]
    simp only [List.forall_mem_cons, List.not_mem_nil, false_imp_iff, implies_true, and_true]
    refine ⟨?_, ?_, ?_, ?_, ?_, ?_, ?_, ?_⟩ <;> (intro h; rw [← h]; rfl)
  · rw [xvalRead_spr hr hq hf hc, hi]
    exact Ctx.phaseReg_shows _
  · rw [xvalRead_spr hr hq hf hc, hi]
    exact Ctx.vseqReg_shows _

/-- A register of the issuing context reads as it has landed (R112). -/
theorem mfsVal_spr {s : State} (hq : Quiet s) {n : BitVec 6}
    (hn : n.toNat ∈ [0x08, 0x09, 0x0A, 0x10, 0x11, 0x12, 0x16, 0x1A, 0x1C, 0x1D]) : s.mfsVal n = s.cur.spr n.toNat := by
  simp only [List.mem_cons, List.not_mem_nil, or_false] at hn
  rcases hn with h | h | h | h | h | h | h | h | h | h <;> simp [State.mfsVal, h, early_quiet hq]
/-- What MFS does: it writes the register's value, and a read of TIDE is noted in the log (R112, R335). -/
def performMfs (d : SReg) (n : BitVec 6) (s : State) : State :=
  if n = 0x04 then (s.wx d (s.mfsVal n) 1).onHere fun c =>
    c.receive (receiveOf 0x09 s.frame.ctx (c.logicalOf s.frame.ctx) s.frame.ctx s.now (BitVec.ofNat 64 s.now) 0 8 [] none)
  else s.wx d (s.mfsVal n) 1
theorem exec_mfs_eq (d : SReg) (n : BitVec 6) (s : State) : exec (.mfs d n) s = operation (.mfs d n) noCheck (performMfs d n) s := rfl
theorem writes_receive (s : State) (f : Core → Receive) : (s.onHere fun c => c.receive (f c)).here.writes = s.here.writes := by
  rw [State.here_onHere]
  unfold Core.receive
  split <;> rfl
/-- The read of TIDE that is noted leaves the writes that are to land. -/
theorem writes_performMfs_tide (s : State) (d : SReg) :
    (performMfs d 0x04 s).here.writes = (s.wx d (s.mfsVal 0x04) 1).here.writes := by
  unfold performMfs
  rw [if_pos rfl, writes_receive]
/-- What MTS does: it writes the register, and the cycle of a write to SEED is kept (R84, R112). -/
def performMts (n : BitVec 6) (a : SReg) (s : State) : State :=
  if n = 0x0A then (s.write (mtsDest s.frame.ctx n) (.word (s.rx a)) 1).noteSeed s.frame.ctx
  else s.write (mtsDest s.frame.ctx n) (.word (s.rx a)) 1
theorem exec_mts_eq (n : BitVec 6) (a : SReg) (s : State) : exec (.mts n a) s =
    operation (.mts n a) (fun s => mtsCheck n (s.rx a)) (performMts n a) s := rfl
theorem exec_timerWrite_eq (a : SReg) (s : State) : exec (.timerWrite a) s =
    operation (.timerWrite a) noCheck (fun s => s.write (.cspr 0x15) (.word (s.rx a)) 1) s := rfl

theorem beq_and_false {α : Type} [BEq α] [LawfulBEq α] {x y : α} {b : Bool} (h : x = y → b = false) : (x == y && b) = false := by
  cases hb : x == y with
  | true => rw [h (eq_of_beq hb)]; rfl
  | false => rfl
theorem bne_and_false {x : Nat} {b : Bool} (h : x ≠ 0 → b = false) : (x != 0 && b) = false := by
  by_cases hx : x = 0
  · simp [hx]
  · simp [h hx]
/-- MFS passes its field checks where R20 opens its register to the context. -/
theorem fieldTrap_mfs_none {s : State} {d : SReg} {n : BitVec 6} (hc : s.frame.ctx ≠ 0 → sprClosed n = false)
    (hq : n = 0x28 → isOrdinary s.frame.core = false) : s.fieldTrap (.mfs d n) = none := by
  rw [State.fieldTrap_mfs, beq_and_false hq, bne_and_false hc]
  rfl
/-- MTS passes its field checks where R20 lets the context write its register. -/
theorem fieldTrap_mts_none {s : State} {a : SReg} {n : BitVec 6} (h0 : n ≠ 0x14 ∨ s.frame.ctx ≠ 0)
    (hc : s.frame.ctx ≠ 0 → sprClosed n = false ∧ sprRoWorker n = false)
    (hq : n = 0x28 → isOrdinary s.frame.core = false) : s.fieldTrap (.mts n a) = none := by
  have hd : (s.frame.ctx == 0 && n == 0x14) = false :=
    beq_and_false fun h => beq_eq_false_iff_ne.2 (h0.resolve_right (not_not_intro h))
  rw [State.fieldTrap_mts, hd, beq_and_false hq, bne_and_false fun h => (hc h).1, bne_and_false fun h => (hc h).2]
  rfl
/-- The values that MTS refuses, by their register (R21, R26). -/
theorem mtsCheck_none {n : BitVec 6} {v : DWord} (hf : n = 0x08 → fcrRefused v = false) (hc : n = 0x20 → cselRefused v = false) :
    mtsCheck n v = none := by
  unfold mtsCheck
  rw [beq_and_false hf, beq_and_false hc]
  rfl
/-- With CHECK.LV = 0 a value that FCR or CSEL refuses traps 0x03 (R21, R26). -/
theorem mts_refuses {s : State} {a : SReg} {n : BitVec 6} (hw : s.frame.phase = .whole) (hg : s.frame.guard = true)
    (hl : s.cur.lv = false) (hn : s.fieldTrap (.mts n a) = none)
    (hr : ((n == 0x08 && fcrRefused (s.rx a)) || (n == 0x20 && cselRefused (s.rx a))) = true) :
    exec (.mts n a) s = .next (s.issueTrap 0x03 (s.rx a)) := by
  have hc : mtsCheck n (s.rx a) = some ⟨13, 0x03, s.rx a⟩ := by rw [mtsCheck, hr]; rfl
  have ht : s.firstTrap (.mts n a) (fun s => mtsCheck n (s.rx a)) = some ⟨13, 0x03, s.rx a⟩ := by
    simp [State.firstTrap, hn, hg, State.earlyTrap, hl, hc]
  rw [exec_mts_eq, operation_traps hw ht]

/-- CORE, BANKS and LAUNCH show the launch of their context (R24). -/
theorem mfsVal_launch {s : State} {l : CoreLaunch} (h : s.here.launchOf s.frame.ctx = some l) :
    s.mfsVal 0x01 = l.logical.setWidth 64 ∧ s.mfsVal 0x18 = l.own.setWidth 64 ∧
      (s.mfsVal 0x19).getLsbD 63 = l.mode ∧ (s.mfsVal 0x19).getLsbD 62 = l.cls ∧ (s.mfsVal 0x19).extractLsb' 44 18 = 0 ∧
      (s.mfsVal 0x19).extractLsb' 32 12 = l.reach ∧ (s.mfsVal 0x19).extractLsb' 0 32 = l.id := by
  have hl : s.mfsVal 0x19 = BitVec.ofBool l.mode ++ BitVec.ofBool l.cls ++ (0 : BitVec 18) ++ l.reach ++ l.id := by
    simp [State.mfsVal, Core.launchReg, h]
  rw [hl]
  refine ⟨by simp [State.mfsVal, Core.logicalReg, h], by simp [State.mfsVal, Core.banksReg, h], ?_, ?_, ?_, ?_, ?_⟩
  · simp (disch := decide) only [bit_high, Nat.reduceSub]
    simp
  · simp (disch := decide) only [bit_high, bit_low, Nat.reduceSub]
    simp
  all_goals simp (disch := decide) only [extract_high, extract_low, extract_all, Nat.reduceSub]
/-- They read 0 in a context of no launch (R24). -/
theorem mfsVal_no_launch {s : State} (h : s.here.launchOf s.frame.ctx = none) :
    s.mfsVal 0x01 = 0 ∧ s.mfsVal 0x18 = 0 ∧ s.mfsVal 0x19 = 0 := by
  simp [State.mfsVal, Core.logicalReg, Core.banksReg, Core.launchReg, h]
/-- MFS shows every register that the context may read (R20 to R26, R112). -/
theorem mfs_access (s : State) (d : SReg) (n : BitVec 6) (h : Issues s)
    (hc : s.frame.ctx ≠ 0 → sprClosed n = false) (ho : n = 0x28 → isOrdinary s.frame.core = false) :
    (n ≠ 0x04 → exec (.mfs d n) s = .next (s.wx d (s.mfsVal n) 1)) ∧
    (n = 0x04 → ∃ t, exec (.mfs d n) s = .next t ∧ t.here.writes = (s.wx d (s.mfsVal 0x04) 1).here.writes) := by
  have hx : exec (.mfs d n) s = .next (performMfs d n s) := (exec_mfs_eq d n s).trans (operation_issues h (fieldTrap_mfs_none hc ho) rfl)
  exact ⟨fun hn => hx.trans (congrArg _ (if_neg hn)), fun hn => ⟨_, hx, hn ▸ writes_performMfs_tide s d⟩⟩

/-- Settles O9: each register's value by the definition of what MFS reads, where no write of the core is to land; MTS by its issue and its
refusal. -/
theorem specialRegisterAccess : Obligations.SpecialRegisterAccess := by
  refine ⟨fun s d n h (hq : Quiet s) _ hc ho => ?_, fun s a h n _ h0 hc ho hf hs => ?_, fun s a hw hg hl => ⟨fun hf => ?_, fun h0 hs => ?_⟩⟩
  · have hl := early_quiet hq
    have hspr (m : BitVec 6) := @mfsVal_spr s hq m
    have hmseq : s.mfsVal 0x1D = s.cur.mseqReg := hspr 0x1D (by decide)
    obtain ⟨hx, ht⟩ := mfs_access s d n h hc ho
    refine ⟨hx, ht, rfl, rfl, fun he => ⟨by simp [State.mfsVal, he], by simp [State.mfsVal, he]⟩,
      fun he => ⟨by simp [State.mfsVal, he], by simp [State.mfsVal, he]⟩, hspr 0x08 (by decide), hspr 0x09 (by decide),
      hspr 0x0A (by decide), hspr 0x10 (by decide), hspr 0x11 (by decide), hspr 0x12 (by decide), by simp [State.mfsVal, hl], rfl,
      by simp [State.mfsVal, hl], hspr 0x16 (by decide), by simp [State.mfsVal, hl], by simp [State.mfsVal, hl],
      fun _ => mfsVal_launch, mfsVal_no_launch, ?_, ?_, fun e he hs hu => ?_, fun hn => ?_, xvalRead_shows hq⟩
    · rw [hspr 0x1A (by decide)]
      exact s.cur.phaseReg_shows
    · rw [hspr 0x1C (by decide)]
      exact s.cur.vseqReg_shows
    · rw [hmseq, Ctx.mseqReg, Ctx.selected_unique he hs hu]
    · rw [hmseq, Ctx.mseqReg, Ctx.selected_none hn]
  · have hx : exec (.mts n a) s = .next (performMts n a s) :=
      (exec_mts_eq n a s).trans (operation_issues h (fieldTrap_mts_none h0 hc ho) (mtsCheck_none hf hs))
    refine ⟨fun hn => hx.trans (congrArg _ (if_neg hn)), fun hn => ⟨_, hx, ?_⟩, rfl, fun hk => by simp [mtsDest, hk], rfl, rfl, rfl,
      fun hk => ?_⟩
    · rw [hn, performMts, if_pos rfl, State.writes_noteSeed]
      rfl
    · rw [exec_timerWrite_eq]
      exact operation_issues h (by rw [State.fieldTrap_timerWrite, hk]; rfl) rfl
  · exact mts_refuses hw hg hl (fieldTrap_mts_none (.inl (by decide)) (fun _ => by decide) (fun h => absurd h (by decide)))
      (by simp [hf])
  · exact mts_refuses hw hg hl (fieldTrap_mts_none (.inl (by decide)) (fun h => absurd h0 h) (fun h => absurd h (by decide)))
      (by simp [hs])
end Sys2Proof.Proofs

namespace Sys2Proof.Machine
open Sys2Proof.Claims

/-! ### What a late fault, a refusal and the flags of a matrix command change (R79, R212) -/

/-- A late fault changes contexts and Rockpool entries only. -/
theorem State.core_lateFault (s : State) (p n q : Nat) (l : Late) :
    ∃ xs pl, (s.lateFault p n l).core q = { s.core q with ctxs := xs, pool := pl } := by
  have keep (r : Nat) (f : Core → Core) (hf : ∀ c, ∃ xs pl, f c = { c with ctxs := xs, pool := pl }) :
      ∃ xs pl, (s.onCore r f).core q = { s.core q with ctxs := xs, pool := pl } := by
    rw [State.core_onCore]
    split
    · next h => rw [h]; exact hf _
    · exact ⟨_, _, rfl⟩
  unfold State.lateFault
  dsimp only
  split
  · exact keep _ _ fun _ => ⟨_, _, rfl⟩
  · exact keep _ _ fun _ => ⟨_, _, rfl⟩
theorem State.home_of_lt (s : State) (p : Nat) {n : Nat} (h : n < 32) : s.home p n = (p, n) := if_pos h
/-- A resident context has the late fault itself. -/
theorem State.lateFault_resident (s : State) (p : Nat) {n : Nat} (l : Late) (h : n < 16) :
    s.lateFault p n l = s.onCtx p n fun x => x.addLate l := by
  unfold State.lateFault
  rw [s.home_of_lt p (by omega)]
  exact if_neg (by omega)

section
variable (s : State) (p n q : Nat) (l : Late)
@[simp] theorem State.accs_lateFault : ((s.lateFault p n l).core q).accs = (s.core q).accs := by
  obtain ⟨xs, pl, h⟩ := s.core_lateFault p n q l; rw [h]
@[simp] theorem State.ls_lateFault : ((s.lateFault p n l).core q).ls = (s.core q).ls := by
  obtain ⟨xs, pl, h⟩ := s.core_lateFault p n q l; rw [h]
@[simp] theorem State.writes_lateFault : ((s.lateFault p n l).core q).writes = (s.core q).writes := by
  obtain ⟨xs, pl, h⟩ := s.core_lateFault p n q l; rw [h]
@[simp] theorem State.hazards_lateFault : ((s.lateFault p n l).core q).hazards = (s.core q).hazards := by
  obtain ⟨xs, pl, h⟩ := s.core_lateFault p n q l; rw [h]
@[simp] theorem State.mq_lateFault : ((s.lateFault p n l).core q).mq = (s.core q).mq := by
  obtain ⟨xs, pl, h⟩ := s.core_lateFault p n q l; rw [h]
@[simp] theorem State.mwait_lateFault : ((s.lateFault p n l).core q).mwait = (s.core q).mwait := by
  obtain ⟨xs, pl, h⟩ := s.core_lateFault p n q l; rw [h]
@[simp] theorem State.mflight_lateFault : ((s.lateFault p n l).core q).mflight = (s.core q).mflight := by
  obtain ⟨xs, pl, h⟩ := s.core_lateFault p n q l; rw [h]
end

/-- The write of a resident context's flags that is to land at the end of cycle `at_` (R79). -/
def Cmd.flagWrite (k : Cmd) (fl : Fl) (now at_ : Nat) : Write :=
  ⟨.flags k.ctx, .word (fl.setWidth 64 <<< 8), k.ctx, now, some at_, 0, []⟩
/-- The core with a command's flags merged, or to be merged (R79, R212). -/
def Core.mergeFlags (c : Core) (k : Cmd) (fl : Fl) (now at_ : Nat) : Core :=
  if fl = 0 then c
  else if k.ctx < 16 then
    if at_ < now then c.store (.flags k.ctx) (.word (fl.setWidth 64 <<< 8)) else { c with writes := c.writes ++ [k.flagWrite fl now at_] }
  else c.setWord (poolAddr (k.ctx - 16) 0x128) (c.word (poolAddr (k.ctx - 16) 0x128) ||| fl.setWidth 64 <<< 8)
/-- The late fault of a flag that was enabled (R78, R80). -/
def Cmd.flagLate (k : Cmd) (e : Fl) (at_ : Nat) : Late := ⟨.vm k.seq, causeWord 0x13 true 0 0x16 k.seq, fpTval k.addr e, at_⟩
theorem State.mFlags_eq (s : State) (p : Nat) (k : Cmd) (fl : Fl) (at_ : Nat) : s.mFlags p k fl at_ =
    if fl &&& k.fcr.extractLsb' 16 5 = 0 then s.onCore p fun c => c.mergeFlags k fl s.now at_
    else (s.onCore p fun c => c.mergeFlags k fl s.now at_).lateFault p k.ctx (k.flagLate (fl &&& k.fcr.extractLsb' 16 5) at_) := rfl

/-- Merging flags changes contexts, the writes that are to land, and the local store. -/
theorem Core.mergeFlags_eq (c : Core) (k : Cmd) (fl : Fl) (now at_ : Nat) :
    ∃ xs ws m, c.mergeFlags k fl now at_ = { c with ctxs := xs, writes := ws, ls := m } := by
  unfold Core.mergeFlags
  split
  · exact ⟨_, _, _, rfl⟩
  · split
    · split
      · exact ⟨_, _, _, rfl⟩
      · exact ⟨_, _, _, rfl⟩
    · exact ⟨_, _, _, rfl⟩
/-- The flags of a resident context leave the local store. -/
theorem Core.ls_mergeFlags (c : Core) {k : Cmd} {fl : Fl} (h : k.ctx < 16 ∨ fl = 0) (now at_ : Nat) :
    (c.mergeFlags k fl now at_).ls = c.ls := by
  unfold Core.mergeFlags
  split
  · rfl
  · next hf =>
    rw [if_pos (h.resolve_right hf)]
    split <;> rfl
theorem Core.writes_mergeFlags_zero (c : Core) (k : Cmd) (now at_ : Nat) : (c.mergeFlags k 0 now at_).writes = c.writes := rfl
theorem Core.writes_mergeFlags (c : Core) {k : Cmd} {fl : Fl} {now at_ : Nat} (hk : k.ctx < 16) (hf : fl ≠ 0) (ha : now ≤ at_) :
    (c.mergeFlags k fl now at_).writes = c.writes ++ [k.flagWrite fl now at_] := by
  rw [Core.mergeFlags, if_neg hf, if_pos hk, if_neg (by omega)]

section
variable (s : State) (p : Nat) (k : Cmd) (fl : Fl) (at_ : Nat)
/-- Every field but the contexts and the Rockpool entries is as the merged flags leave it. -/
theorem State.core_mFlags : ∃ xs pl,
    (s.mFlags p k fl at_).core p = { (s.core p).mergeFlags k fl s.now at_ with ctxs := xs, pool := pl } := by
  rw [State.mFlags_eq]
  split
  · rw [State.core_onCore_same]; exact ⟨_, _, rfl⟩
  · obtain ⟨xs, pl, h⟩ := State.core_lateFault (s.onCore p fun c => c.mergeFlags k fl s.now at_) p k.ctx p
      (k.flagLate (fl &&& k.fcr.extractLsb' 16 5) at_)
    rw [h, State.core_onCore_same]; exact ⟨_, _, rfl⟩
theorem State.core_mFlags_frame : ∃ xs pl ws m,
    (s.mFlags p k fl at_).core p = { s.core p with ctxs := xs, pool := pl, writes := ws, ls := m } := by
  obtain ⟨xs, pl, h⟩ := s.core_mFlags p k fl at_
  obtain ⟨ys, ws, m, hm⟩ := (s.core p).mergeFlags_eq k fl s.now at_
  rw [h, hm]
  exact ⟨_, _, _, _, rfl⟩
@[simp] theorem State.accs_mFlags : ((s.mFlags p k fl at_).core p).accs = (s.core p).accs := by
  obtain ⟨_, _, _, _, h⟩ := s.core_mFlags_frame p k fl at_; rw [h]
@[simp] theorem State.hazards_mFlags : ((s.mFlags p k fl at_).core p).hazards = (s.core p).hazards := by
  obtain ⟨_, _, _, _, h⟩ := s.core_mFlags_frame p k fl at_; rw [h]
@[simp] theorem State.mq_mFlags : ((s.mFlags p k fl at_).core p).mq = (s.core p).mq := by
  obtain ⟨_, _, _, _, h⟩ := s.core_mFlags_frame p k fl at_; rw [h]
@[simp] theorem State.mwait_mFlags : ((s.mFlags p k fl at_).core p).mwait = (s.core p).mwait := by
  obtain ⟨_, _, _, _, h⟩ := s.core_mFlags_frame p k fl at_; rw [h]
@[simp] theorem State.mflight_mFlags : ((s.mFlags p k fl at_).core p).mflight = (s.core p).mflight := by
  obtain ⟨_, _, _, _, h⟩ := s.core_mFlags_frame p k fl at_; rw [h]
theorem State.writes_mFlags : ((s.mFlags p k fl at_).core p).writes = ((s.core p).mergeFlags k fl s.now at_).writes := by
  obtain ⟨xs, pl, h⟩ := s.core_mFlags p k fl at_; rw [h]
theorem State.ls_mFlags (h : k.ctx < 16 ∨ fl = 0) : ((s.mFlags p k fl at_).core p).ls = (s.core p).ls := by
  obtain ⟨xs, pl, hc⟩ := s.core_mFlags p k fl at_
  rw [hc]
  exact (s.core p).ls_mergeFlags h s.now at_
/-- A flag that was enabled gives a resident context a late fault (R78, R80). -/
theorem State.late_mFlags (he : fl &&& k.fcr.extractLsb' 16 5 ≠ 0) (hk : k.ctx < 16) :
    k.flagLate (fl &&& k.fcr.extractLsb' 16 5) at_ ∈ ((s.mFlags p k fl at_).ctx p k.ctx).late := by
  rw [State.mFlags_eq, if_neg he, State.lateFault_resident _ _ _ hk, State.ctx, State.core_onCtx_same, Core.ctx_onCtx_same]
  simp [Ctx.addLate]
end

/-- A core that a command has left: its regions, its place and its destination are released (R212). -/
def Core.dropCmd (c : Core) (k : Cmd) : Core :=
  { ((c.releaseHazards k.id).forgo k.id) with
    mq := c.mq.filter (·.id != k.id), mflight := c.mflight.filter (·.id != k.id), mwait := c.mwait.filter (·.id != k.id) }
theorem State.mRefuse_eq (s : State) (p : Nat) (k : Cmd) (sub : Nat) (tval : DWord) : s.mRefuse p k sub tval =
    ((s.onCore p fun c => c.dropCmd k).mFlags p k k.flags (if k.step = 0 then s.now else k.until_)).lateFault p k.ctx
      ⟨.vm k.seq, causeWord 0x13 true 0 sub k.seq, tval, s.now⟩ := rfl
theorem ne_of_mem_filter_id {l : List Cmd} {id : Nat} {w : Cmd} (h : w ∈ l.filter (·.id != id)) : w.id ≠ id := by
  simpa using (List.mem_filter.1 h).2
/-- A refused command leaves the queue and the unit, with its regions (R212). -/
theorem State.mRefuse_leaves (s : State) (p : Nat) (k : Cmd) (sub : Nat) (v : DWord) :
    let t := s.mRefuse p k sub v
    (∀ w ∈ (t.core p).mq ++ (t.core p).mwait ++ (t.core p).mflight, w.id ≠ k.id) ∧ (∀ h ∈ (t.core p).hazards, h.cmd ≠ k.id) ∧
      (k.ctx < 16 ∨ k.flags = 0 → (t.core p).ls = (s.core p).ls) ∧ (t.core p).accs = (s.core p).accs := by
  dsimp only
  rw [State.mRefuse_eq]
  refine ⟨fun w hw => ?_, fun h hh => ?_, fun hk => ?_, ?_⟩
  · simp only [State.mq_lateFault, State.mwait_lateFault, State.mflight_lateFault, State.mq_mFlags, State.mwait_mFlags,
      State.mflight_mFlags, State.core_onCore_same, Core.dropCmd, List.mem_append] at hw
    obtain (hw | hw) | hw := hw
    · exact ne_of_mem_filter_id hw
    · exact ne_of_mem_filter_id hw
    · exact ne_of_mem_filter_id hw
  · simp only [State.hazards_lateFault, State.hazards_mFlags, State.core_onCore_same, Core.dropCmd, Core.forgo, Core.releaseHazards] at hh
    simpa using (List.mem_filter.1 hh).2
  · rw [State.ls_lateFault, State.ls_mFlags _ _ _ _ _ hk, State.core_onCore_same]
    rfl
  · rw [State.accs_lateFault, State.accs_mFlags, State.core_onCore_same]
    rfl

/-! ### Hazard-table entry (R225) -/

/-- Entering the hazard table changes the table and the count of entries alone. -/
theorem Core.tryEnter_eq (c : Core) (k : Cmd) : ∃ hs n, c.tryEnter k = { c with hazards := hs, cmdOrder := n } := by
  unfold Core.tryEnter Core.enterHazards
  split
  · exact ⟨_, _, rfl⟩
  · exact ⟨_, _, rfl⟩
theorem Cmd.behind_iff (k w : Cmd) :
    k.behind w = true ↔ w.ctx = k.ctx ∧ w.order < k.order ∧ (w.saved = true ∨ w.issue ≠ k.issue) := by
  simp [Cmd.behind, and_assoc]
/-- A command's regions enter the table where it has room and no earlier command of its context waits to enter. -/
theorem Core.tryEnter_hazards {c : Core} {k : Cmd} (he : c.entered k = false) (hr : c.roomFor k = true)
    (hb : ∀ w ∈ c.mwait ++ c.ewait, w.ctx = k.ctx → w.order < k.order → w.saved = true ∨ w.issue ≠ k.issue → c.entered w = true) :
    (c.tryEnter k).hazards = c.hazards ++ k.foot.map (fun r => ⟨k.id, k.order, c.cmdOrder, r⟩) := by
  have hn : ((c.mwait ++ c.ewait).any fun w => k.behind w && !c.entered w) = false := by
    refine List.any_eq_false.2 fun w hw => ?_
    cases hkw : k.behind w with
    | false => simp
    | true =>
      obtain ⟨hc, ho, hi⟩ := (Cmd.behind_iff k w).1 hkw
      simp [hb w hw hc ho hi]
  rw [Core.tryEnter, he, hr, hn]
  rfl

/-! ### Starts and completions (R196, R197) -/

/-- Taking the start of a cycle changes nothing else. -/
theorem Core.takeStart_eq (c : Core) (k : Cmd) (now : Nat) : ∃ m, c.takeStart k now = { c with mtaken := m } := by
  unfold Core.takeStart
  split
  · exact ⟨_, rfl⟩
  · exact ⟨_, rfl⟩
@[simp] theorem Core.notPerformable_takeStart (c : Core) (k : Cmd) (now : Nat) :
    (c.takeStart k now).notPerformable k = c.notPerformable k := by
  obtain ⟨m, h⟩ := c.takeStart_eq k now; rw [h]; rfl
@[simp] theorem Core.occupancy_takeStart (c : Core) (k : Cmd) (now : Nat) : (c.takeStart k now).occupancy k = c.occupancy k := by
  obtain ⟨m, h⟩ := c.takeStart_eq k now; rw [h]; rfl
theorem Core.occupancy_ge (c : Core) (k : Cmd) : 32 ≤ c.occupancy k := by
  have two (b : Bool) : 32 ≤ if b then 64 else 32 := by cases b <;> decide
  unfold Core.occupancy
  extract_lets slow
  split
  case h_5 => exact Nat.le_refl _
  all_goals exact two _
theorem Core.notPerformable_unclaimed {c : Core} {k : Cmd} (h : (accOf k.op, k.ctx) ∉ c.claims) :
    c.notPerformable k = some (0x03, BitVec.ofNat 64 (accOf k.op)) := by
  simp [Core.notPerformable, Core.unclaimed, h]
/-- A command that is not performable is refused (R212). -/
theorem State.mStart_refused {s : State} {p : Nat} {k : Cmd} {sub : Nat} {v : DWord} (h : (s.core p).notPerformable k = some (sub, v)) :
    s.mStart p k = (s.onCore p fun c => c.takeStart k s.now).mRefuse p k sub v := by
  simp [State.mStart, h]
/-- The record of a command in the unit, from its start until its results are ready (R197). -/
def State.startedCmd (s : State) (p : Nat) (k : Cmd) : Cmd :=
  { k with started := some s.now, until_ := s.now + 1 + s.anyBelow (2000 + p % 4096) ((s.core p).occupancy k - 1),
           data := (s.core p).captured k, began := some (k.began.getD s.now) }
/-- A command's results are ready within its occupancy (R197). -/
theorem State.startedCmd_until (s : State) (p : Nat) (k : Cmd) :
    s.now < (s.startedCmd p k).until_ ∧ (s.startedCmd p k).until_ ≤ s.now + (s.core p).occupancy k - 1 := by
  have ho := (s.core p).occupancy_ge k
  have hb : s.anyBelow (2000 + p % 4096) ((s.core p).occupancy k - 1) < (s.core p).occupancy k - 1 := Nat.mod_lt _ (by omega)
  constructor
  · simp only [State.startedCmd]; omega
  · simp only [State.startedCmd]; omega
/-- A performable command leaves the queue and keeps the unit for its occupancy (R196, R197). -/
theorem State.mStart_starts {s : State} {p : Nat} {k : Cmd} (h : (s.core p).notPerformable k = none) :
    ∃ m, (s.mStart p k).core p =
      { s.core p with mtaken := m, munit := s.now + (s.core p).occupancy k, mq := (s.core p).mq.filter (·.id != k.id),
                      mflight := (s.core p).mflight.filter (·.id != k.id) ++ [s.startedCmd p k] } := by
  obtain ⟨m, hm⟩ := (s.core p).takeStart_eq k s.now
  refine ⟨m, ?_⟩
  simp only [State.mStart, State.core_onCore_same, Core.notPerformable_takeStart, h, Core.occupancy_takeStart]
  rw [hm]
  rfl

/-- Reports of bad words reach no core, and take no time (R328). -/
theorem State.reportWords (p : Nat) (l : List Nat) (s : State) :
    (l.foldl (fun t w => t.reportWord p w) s).now = s.now ∧ ∀ q, (l.foldl (fun t w => t.reportWord p w) s).core q = s.core q := by
  induction l generalizing s with
  | nil => exact ⟨rfl, fun _ => rfl⟩
  | cons w l ih => exact ih (s.reportWord p w)
/-- Undefined elements are in accumulators only (R211). -/
theorem State.mPoison_accs (s : State) (p : Nat) (k : Cmd) :
    (s.mPoison p k).now = s.now ∧ ∃ a, (s.mPoison p k).core p = { s.core p with accs := a } := by
  unfold State.mPoison
  extract_lets c bad failed hit t
  obtain ⟨hn, hc⟩ := t.reportWords p bad
  rw [hn, hc]
  unfold t
  split
  · exact ⟨rfl, _, rfl⟩
  · exact ⟨rfl, _, State.core_onCore_same _ _ _⟩
/-- The cycle in which results are ready does not depend on what a command writes (R197). -/
theorem Core.readyAt_congr {c d : Core} (h : c.launches = d.launches) (k : Cmd) (now : Nat) : c.readyAt_ k now = d.readyAt_ k now := by
  unfold Core.readyAt_ Core.occupancy
  rw [h]
theorem Core.le_readyAt (c : Core) (k : Cmd) (now : Nat) : now ≤ c.readyAt_ k now := by
  unfold Core.readyAt_
  split
  · exact Nat.le_max_left _ _
  · exact Nat.le_refl _

/-! ### The events of the matrix unit -/

theorem exec_matrixCommandStart {s : State} {p : Nat} {k : Cmd} (h : cmdOf (s.core p).mq k.id = some k)
    (hw : (s.core p).timedWinner s.now = some k ∨ (s.core p).freeWinner s.now = some k) :
    exec (.matrixCommandStart p k.id) s = .next (s.mStart p k).bump := by
  change execMatrixCommandStart p k.id s = _
  rw [execMatrixCommandStart, event_next]
  simp [h, hw]
theorem exec_matrixStartRefused {s : State} {p : Nat} {k : Cmd}
    (h : cmdOf ((s.core p).mq ++ (s.core p).mwait ++ (s.core p).mflight) k.id = some k) (hr : (s.core p).startRefused s.now k = true) :
    exec (.matrixStartRefused p k.id) s =
      .next (((s.onCore p fun c => c.takeStart k s.now).mRefuse p k 0x0A ((s.core p).stepTval k)).endWait p k.ctx k.id none).bump := by
  change execMatrixStartRefused p k.id s = _
  rw [execMatrixStartRefused, event_next]
  simp only [h, hr, if_true]
/-- A tide-locked step that cannot start at its boundary (R196, R204; log 19). -/
def Core.stepBlocked (c : Core) (now : Nat) (k : Cmd) : Prop :=
  c.cmdUnowned k ≠ none ∨ now < c.munit ∨ ∃ w, c.timedWinner now = some w ∧ w.ctx < k.ctx
theorem exec_mseqStepStart {s : State} {p : Nat} {k : Cmd} (h : cmdOf (s.core p).mflight k.id = some k)
    (hd : (s.core p).stepDue s.now k = true) :
    (k.timed = false ∨ ¬ (s.core p).stepBlocked s.now k → exec (.mseqStepStart p k.id) s = .next (s.mStart p k).bump) ∧
    (k.timed = true → (s.core p).stepBlocked s.now k →
      exec (.mseqStepStart p k.id) s = .next (s.mRefuse p k 0x0A ((s.core p).stepTval k)).bump) := by
  have he : exec (.mseqStepStart p k.id) s = .next (if k.timed && (((s.core p).cmdUnowned k).isSome || decide (s.now < (s.core p).munit) ||
      ((s.core p).timedWinner s.now).any fun w => decide (w.ctx < k.ctx)) then s.mRefuse p k 0x0A ((s.core p).stepTval k)
      else s.mStart p k).bump := by
    change execMseqStepStart p k.id s = _
    rw [execMseqStepStart, event_next]
    simp only [h, hd]
    cases (s.core p).timedWinner s.now with
    | none => rfl
    | some w => rfl
  have ht : (((s.core p).cmdUnowned k).isSome || decide (s.now < (s.core p).munit) ||
      ((s.core p).timedWinner s.now).any fun w => decide (w.ctx < k.ctx)) = true ↔ (s.core p).stepBlocked s.now k := by
    simp [Core.stepBlocked, Option.any_eq_true, Option.isSome_iff_ne_none, or_assoc]
  rw [he]
  refine ⟨fun hk => ?_, fun hk hs => ?_⟩
  · rw [if_neg]
    rw [Bool.and_eq_true, ht]
    rcases hk with hk | hk
    · simp [hk]
    · exact fun h => hk h.2
  · rw [if_pos (by rw [Bool.and_eq_true]; exact ⟨hk, ht.2 hs⟩)]
/-- The core that a waiting command enters, the queue included (R195). -/
theorem exec_matrixQueueEnter {s : State} {p : Nat} {k : Cmd} (h : (s.core p).firstWaiting k.ctx true = some k) :
    exec (.matrixQueueEnter p k.ctx) s = .next (if 16 ≤ (s.core p).mq.length ∨ ((s.core p).tryEnter k).entered k = false
      then s.onCore p fun c => c.tryEnter k
      else ((s.onCore p fun c => c.tryEnter k).onCore p fun c =>
          { c with mq := c.mq ++ [k], mwait := c.mwait.filter (·.id != k.id) }).onCtx p k.ctx fun x => x.onPark k.id fun q => { q with ended := .done }).bump := by
  change execMatrixQueueEnter p k.ctx s = _
  rw [execMatrixQueueEnter, event_next]
  simp [h]
/-- The core that a completed command leaves (R197). -/
def Core.retire (c : Core) (k : Cmd) (ready : Nat) : Core :=
  { (c.releaseHazards k.id) with
    mflight := c.mflight.filter (·.id != k.id), mdone := if k.timed then c.mdone ++ [(k.ctx, ready)] else c.mdone }
theorem exec_matrixCommandComplete {s : State} {p : Nat} {k : Cmd} (h : cmdOf (s.core p).mflight k.id = some k)
    (hs : k.started.isSome = true) (hu : k.until_ ≤ s.now) (hl : k.stepsLeft = 1) :
    let r := (s.core p).mEffect s.now k (s.mRead p k)
    exec (.matrixCommandComplete p k.id) s =
      .next ((((s.setCore p r.1).mPoison p k).onCore p fun c => c.retire k (r.1.readyAt_ k s.now)).mFlags p k (k.flags ||| r.2)
        (r.1.readyAt_ k s.now)).bump := by
  intro r
  change execMatrixCommandComplete p k.id s = _
  have hn : (k.started.isNone || decide (s.now < k.until_)) = false := by
    rw [Option.isNone_eq_false_iff.2 hs]; simpa using hu
  rw [execMatrixCommandComplete, event_next]
  simp only [h, hn, hl]
  rfl
end Sys2Proof.Machine

namespace Sys2Proof.Proofs
open Sys2Proof.Machine Sys2Proof.Claims

/-! ### O46: the events of the matrix unit -/

/-- A waiting command's queue entry ends every wait of its name (R195). -/
theorem onPark_done {x : Ctx} {id : Nat} :
    ∀ w ∈ (x.onPark id fun q => { q with ended := .done }).parks, w.id = id → w.ended ≠ .waiting := by
  intro w hw hi
  obtain ⟨v, -, rfl⟩ := List.mem_map.1 hw
  by_cases hv : (v.id = id && v.ended == .waiting) = true
  · rw [if_pos hv]
    exact ParkEnd.noConfusion
  · rw [if_neg hv] at hi ⊢
    exact fun he => hv (by simp [hi, he])
theorem matrixQueueEnter_holds {s : State} {p : Nat} {k : Cmd} (h : (s.core p).firstWaiting k.ctx true = some k) :
    let c := s.core p
    ∃ t, exec (.matrixQueueEnter p k.ctx) s = .next t ∧ (t.core p).hazards = (c.tryEnter k).hazards ∧ (t.core p).accs = c.accs ∧
      (t.core p).ls = c.ls ∧
      (c.mq.length < 16 → (c.tryEnter k).entered k = true → (t.core p).mq = c.mq ++ [k] ∧
        (t.core p).mwait = c.mwait.filter (·.id != k.id) ∧ ∀ w ∈ (t.ctx p k.ctx).parks, w.id = k.id → w.ended ≠ .waiting) ∧
      (16 ≤ c.mq.length ∨ (c.tryEnter k).entered k = false → (t.core p).mq = c.mq ∧ (t.core p).mwait = c.mwait) := by
  intro c
  obtain ⟨hs, n, he⟩ := c.tryEnter_eq k
  refine ⟨_, exec_matrixQueueEnter h, ?_⟩
  by_cases hw : 16 ≤ c.mq.length ∨ (c.tryEnter k).entered k = false
  · rw [if_pos hw, State.core_bump, State.core_onCore_same]
    refine ⟨rfl, ?_, ?_, fun hl ht => ?_, fun _ => ?_⟩
    · rw [he]
    · rw [he]
    · obtain hw | hw := hw
      · omega
      · rw [hw] at ht; cases ht
    · rw [he]; exact ⟨rfl, rfl⟩
  · rw [if_neg hw, State.core_bump, State.ctx_bump, State.ctx, State.core_onCtx_same, State.core_onCore_same, State.core_onCore_same,
      Core.ctx_onCtx_same]
    refine ⟨rfl, ?_, ?_, fun _ _ => ⟨?_, ?_, onPark_done⟩, fun h => absurd h hw⟩ <;>
      (rw [he]; rfl)
theorem matrixCommandStart_holds {s : State} {p : Nat} {k : Cmd} (h : cmdOf (s.core p).mq k.id = some k)
    (hw : (s.core p).timedWinner s.now = some k ∨ (s.core p).freeWinner s.now = some k) (hn : (s.core p).notPerformable k = none) :
    let c := s.core p
    ∃ t k', exec (.matrixCommandStart p k.id) s = .next t ∧ (t.core p).mq = c.mq.filter (·.id != k.id) ∧ k' ∈ (t.core p).mflight ∧
      k'.id = k.id ∧ k'.op = k.op ∧ k'.started = some s.now ∧ s.now < k'.until_ ∧ k'.until_ ≤ s.now + c.occupancy k - 1 ∧
      (t.core p).munit = s.now + c.occupancy k ∧ (t.core p).accs = c.accs ∧ (t.core p).ls = c.ls := by
  obtain ⟨m, hm⟩ := State.mStart_starts hn
  obtain ⟨hlo, hhi⟩ := s.startedCmd_until p k
  refine ⟨_, s.startedCmd p k, exec_matrixCommandStart h hw, ?_⟩
  rw [State.core_bump, hm]
  exact ⟨rfl, List.mem_append_right _ (List.mem_singleton.2 rfl), rfl, rfl, rfl, hlo, hhi, rfl, rfl, rfl⟩
theorem matrixCommandComplete_holds {s : State} {p : Nat} {k : Cmd} (h : cmdOf (s.core p).mflight k.id = some k)
    (hs : k.started.isSome = true) (hu : k.until_ ≤ s.now) (hl : k.stepsLeft = 1) :
    let r := (s.core p).mEffect s.now k (s.mRead p k)
    let u := (s.setCore p r.1).mPoison p k
    let fl := k.flags ||| r.2
    ∃ t, exec (.matrixCommandComplete p k.id) s = .next t ∧ (t.core p).accs = (u.core p).accs ∧
      (∀ a, memGet (t.core p).ls a = memGet (u.core p).ls a ∨ 16 ≤ k.ctx) ∧ (∀ w ∈ (t.core p).mflight, w.id ≠ k.id) ∧
      (∀ h ∈ (t.core p).hazards, h.cmd ≠ k.id) ∧ (k.ctx < 16 → fl = 0 → (t.core p).writes = (u.core p).writes) ∧
      (k.ctx < 16 → fl ≠ 0 → (t.core p).writes =
        (u.core p).writes ++ [⟨.flags k.ctx, .word (fl.setWidth 64 <<< 8), k.ctx, s.now, some ((u.core p).readyAt_ k s.now), 0, []⟩]) := by
  intro r u fl
  obtain ⟨hnow, a, ha⟩ := (s.setCore p r.1).mPoison_accs p k
  have hready : (u.core p).readyAt_ k s.now = r.1.readyAt_ k s.now := by
    refine Core.readyAt_congr ?_ k s.now
    rw [ha, State.core_setCore_same]
  refine ⟨_, exec_matrixCommandComplete h hs hu hl, ?_⟩
  rw [State.core_bump, State.accs_mFlags, State.mflight_mFlags, State.hazards_mFlags, State.writes_mFlags, State.core_onCore_same]
  refine ⟨rfl, fun x => ?_, fun w hw => ne_of_mem_filter_id hw, fun h hh => ?_, fun _ hf => ?_, fun hk hf => ?_⟩
  · by_cases hk : k.ctx < 16
    · left
      rw [State.ls_mFlags _ _ _ _ _ (.inl hk), State.core_onCore_same]
      rfl
    · exact .inr (by omega)
  · simpa using (List.mem_filter.1 hh).2
  · rw [show k.flags ||| r.2 = 0 from hf]
    rfl
  · rw [Core.writes_mergeFlags _ hk hf (by rw [State.onCore_now, hnow]; exact r.1.le_readyAt k s.now), State.onCore_now, hnow, hready]
    rfl

/-- Settles O46: each event by its own equation, with what entry in the hazard table, a start, a refusal and the merging of flags change. -/
theorem matrixUnitEvents : Obligations.MatrixUnitEvents := by
  refine fun s p k => ⟨matrixQueueEnter_holds, Core.tryEnter_hazards, fun h hw => ⟨matrixCommandStart_holds h hw, fun hc => ?_⟩,
    exec_matrixStartRefused, fun h hd => ⟨fun hk => ?_, fun hk hb => (exec_mseqStepStart h hd).2 hk hb⟩, s.mRefuse_leaves p k,
    matrixCommandComplete_holds, fun n v => ?_, fun fl at_ he hk => ⟨_, s.late_mFlags p k fl at_ he hk, rfl, rfl⟩⟩
  · rw [exec_matrixCommandStart h hw, State.mStart_refused (Core.notPerformable_unclaimed hc)]
  · refine (exec_mseqStepStart h hd).1 (hk.imp_right fun ⟨hu, hm, hw⟩ hb => ?_)
    obtain hb | hb | ⟨w, hw', hlt⟩ := hb
    · exact hb hu
    · omega
    · exact absurd (hw w hw') (by omega)
  · simp [Core.store, Val.word!]
end Sys2Proof.Proofs

namespace Sys2Proof.Machine
open Sys2Proof.Claims

/-! ### Bytes read back as they were written (R29, R341) -/

theorem memGet_putBytes_other (bs : List Byte) (m : List Host.Cell) (a c : Nat) (h : c < a) :
    memGet (memPutBytes m a bs) c = memGet m c := by
  induction bs generalizing m a with
  | nil => rfl
  | cons b t ih => rw [memPutBytes, ih _ _ (by omega), memGet_set_other _ _ (by omega)]
theorem memBytes_putBytes (bs : List Byte) (m : List Host.Cell) (a : Nat) : memBytes (memPutBytes m a bs) a bs.length = bs := by
  induction bs generalizing m a with
  | nil => rfl
  | cons b t ih =>
    rw [List.length_cons, memBytes, memPutBytes, ih, memGet_putBytes_other _ _ _ _ (by omega), memGet_set_same]
theorem memBytes_write (bs : List Byte) (m : List Host.Cell) (a : Nat) :
    memBytes (memWrite m a bs.length (natOf bs)) a bs.length = bs := by
  induction bs generalizing m a with
  | nil => rfl
  | cons b t ih =>
    have hd : natOf (b :: t) / 256 = natOf t := by have := b.isLt; simp only [natOf]; omega
    have hb : BitVec.ofNat 8 (natOf (b :: t)) = b := by
      apply BitVec.eq_of_toNat_eq
      have := b.isLt
      simp only [natOf, BitVec.toNat_ofNat]
      omega
    rw [List.length_cons, memBytes, memWrite, hd, hb, ih, memGet_write_other _ _ _ _ _ (by omega), memGet_set_same]

/-! ### A core's log of receives (R335) -/

theorem Core.receive_eq (c : Core) (r : Receive) : ∃ rs n, c.receive r = { c with recvs := rs, lostLog := n } := by
  unfold Core.receive
  split
  · exact ⟨_, _, rfl⟩
  · exact ⟨_, _, rfl⟩
/-- A receive that is logged changes the logs of its core alone. -/
theorem State.core_logReceive (s : State) (p kind ctx src sctx : Nat) (value : DWord) (laddr len : Nat) (bytes : List Byte)
    (what : Option Got) (q : Nat) : ∃ rs n, (s.logReceive p kind ctx src sctx value laddr len bytes what).core q =
      { s.core q with recvs := rs, lostLog := n } := by
  unfold State.logReceive
  rw [State.core_onCore]
  split
  · next h => rw [h]; exact Core.receive_eq _ _
  · exact ⟨_, _, rfl⟩
/-- A migration request joins the pending set of its core, and is logged (R281, R326). -/
theorem State.core_requestMigration (s : State) (p : Nat) (v : DWord) : ∃ rs n, (s.requestMigration p v).core p =
    { s.core p with recvs := rs, lostLog := n,
                    pending := { (s.core p).pending with migration := (s.core p).pending.migration ++ [v] } } := by
  obtain ⟨rs, n, h⟩ := State.core_logReceive
    (s.onCore p fun c => { c with pending := { c.pending with migration := c.pending.migration ++ [v] } })
    p 0x0A 0 hubId 0 v 0 8 [] (some (.migration v)) p
  rw [State.core_onCore_same] at h
  exact ⟨rs, n, h⟩
/-- A descriptor joins the messages and the wakes of its core, and is logged (R334). -/
theorem State.core_giveDescriptor (s : State) (p : Nat) (bytes : List Byte) (q : Nat) : ∃ rs n ms pd,
    (s.giveDescriptor p bytes).core q = { s.core q with recvs := rs, lostLog := n, msgs := ms, pending := pd } := by
  obtain ⟨rs, n, h⟩ := State.core_logReceive (s.onCore p fun c => c.takeDescriptor bytes)
    p 0x0A 0 hubId 0 127 0 64 bytes (some .descriptor) q
  unfold State.giveDescriptor
  rw [h, State.core_onCore]
  split
  · next hq => rw [hq]; exact ⟨_, _, _, _, rfl⟩
  · exact ⟨_, _, _, _, rfl⟩

/-! ### Traps at a context's turn, and C0's timer (R23, R280, R327, R328) -/

/-- A worker's trap of any cause but an uncorrectable error (R280). -/
theorem State.takeTrap_worker (s : State) (p : Nat) {n : Nat} {cause : DWord} (epc tval : DWord) (hn : n ≠ 0)
    (hc : cause.toNat % 256 ≠ 0x1D) : s.takeTrap p n epc cause tval = s.onCore p fun c => c.workerTrap n epc cause tval := by
  rw [State.takeTrap, if_neg hn, if_neg hc]
theorem exec_workerTrapTaken {s : State} {p n : Nat} {epc : Option DWord} {cause tval : DWord} {y : Ctx} (hn : n ≠ 0)
    (hr : (s.ctx p n).st = .run) (hp : (s.ctx p n).pickTrap s.now = some (epc, cause, tval, y)) :
    exec (.workerTrapTaken p n) s =
      .next ((s.onCtx p n fun _ => y).takeTrap p n (epc.getD (s.ctx p n).next) cause tval).bump := by
  change execWorkerTrapTaken p n s = _
  rw [execWorkerTrapTaken, event_next]
  simp [hn, hr, hp]
theorem exec_c0TrapToLighthouse {s : State} {p : Nat} {epc : Option DWord} {cause tval : DWord} {y : Ctx}
    (hr : (s.ctx p 0).st = .run) (hp : (s.ctx p 0).pickTrap s.now = some (epc, cause, tval, y)) :
    exec (.c0TrapToLighthouse p) s = .next ((s.onCtx p 0 fun _ => y).c0Trap p (epc.getD (s.ctx p 0).next) cause tval).bump := by
  change execC0TrapToLighthouse p s = _
  rw [execC0TrapToLighthouse, event_next]
  simp [hr, hp]
/-- C0 with the registers of its own trap (R327). -/
def Ctx.c0Trapped (x : Ctx) (epc cause tval : DWord) : Ctx :=
  { x with epc := epc, cause := cause, tval := tval, next := epc, st := .stop, hold := none, epcWritten := false }
/-- C0's own trap changes its context and the mode that it is delivered to; all else of the core stands (R327). -/
theorem State.c0Trap_core (s : State) (p : Nat) (epc cause tval : DWord) : ∃ b, (s.c0Trap p epc cause tval).core p =
    { (s.core p).onCtx 0 fun x => x.c0Trapped epc cause tval with delivered := some b } := by
  unfold State.c0Trap
  exact ⟨_, State.core_setCore_same _ _ _⟩
theorem State.c0Trap_ctx (s : State) (p : Nat) (epc cause tval : DWord) :
    (s.c0Trap p epc cause tval).ctx p 0 = (s.ctx p 0).c0Trapped epc cause tval := by
  obtain ⟨b, hb⟩ := s.c0Trap_core p epc cause tval
  rw [State.ctx, hb]
  exact look_put_same _ _ _ _
theorem exec_c0TimerExpiry {s : State} {p : Nat} (he : (s.core p).timer.getLsbD 63 = true)
    (hc : (s.core p).timer.extractLsb' 0 32 = 1) : exec (.c0TimerExpiry p) s =
      .next (s.onCore p fun c => { c with timer := 0x4000000000000000, pending := { c.pending with timer := true } }).bump := by
  change execC0TimerExpiry p s = _
  rw [execC0TimerExpiry, event_next]
  simp [Core.timerEnds, he, hc]
/-- An uncorrectable error met by a worker (R328). -/
theorem State.workerError_core (s : State) (p n : Nat) (epc cause tval : DWord) : (s.workerError p n epc cause tval).core p =
    (s.core p).onCtx n fun x =>
      { x with epc := epc, cause := withSrc n cause, tval := tval, next := epc, st := .stop, hold := none, nextWritten := false,
               mmode := true } := State.core_onCtx_same _ _ _ _
/-- A word of the local store is known to be bad (R33). -/
def Core.poisoned (c : Core) (w : Nat) : Core := { c with poison := w :: c.poison.filter (· != w) }
theorem exec_uncorrectableLsError {s : State} {p n : Nat} (a : Nat) (hn : n ≠ 0) (hr : (s.ctx p n).st = .run) :
    exec (.uncorrectableLsError p n a) s = .next ((s.onCore p fun c => c.poisoned (a % 2 ^ 19 / 8 * 8)).workerError p n (s.ctx p n).next
      (causeOf 0x1D) (BitVec.ofNat 64 (a % 2 ^ 19 / 8 * 8))).bump := by
  have hc : (causeOf 0x1D).toNat % 256 = 0x1D := by decide
  change execUncorrectableLsError p n a s = _
  rw [execUncorrectableLsError, event_next]
  simp only [hr, State.takeTrap, if_neg hn, if_pos hc]
  rfl

/-! ### Core control (R385) -/

theorem State.mayRestart_delivered {s : State} {p : Nat} {b : Bool} {mode : HartMode} (h : (s.core p).delivered = some b)
    (hm : mode = (if b then .supervisor else .machine)) : s.mayRestart mode p = true := by
  cases b
  · subst hm; simp [State.mayRestart, h]
  · subst hm; simp [State.mayRestart, h]
theorem State.mayRestart_refused {s : State} {p : Nat} {b : Bool} {mode : HartMode}
    (h : (s.core p).delivered = none ∨ ((s.core p).delivered = some b ∧ mode = (if b then .machine else .supervisor))) :
    s.mayRestart mode p = false := by
  obtain h | ⟨h, hm⟩ := h
  · simp [State.mayRestart, h]
  · cases b
    · subst hm; simp [State.mayRestart, h]
    · subst hm; simp [State.mayRestart, h]
theorem exec_coreControlRestartEpc (mode : HartMode) (p : Nat) (s : State) : exec (.coreControlRestartEpc mode p) s = .next
    (if s.mayRestart mode p then (s.restartC0 p (s.ctx p 0).epc true).controlDone false else s.controlDone true).bump := rfl
theorem exec_coreControlRestartData (mode : HartMode) (p : Nat) (s : State) : exec (.coreControlRestartData mode p) s = .next
    (if s.mayRestart mode p then (s.restartC0 p s.hub.ctlData false).controlDone false else s.controlDone true).bump := rfl
/-- A restart of C0 gives its next address and is noted as a change of the next core turn (R263, R385). -/
theorem State.restartC0_done (s : State) (p : Nat) (at_ : DWord) (keep : Bool) :
    let t := ((s.restartC0 p at_ keep).controlDone false).bump
    (t.ctx p 0).next = at_ ∧ (t.core p).changes = (s.core p).changes ++ [.resume 0 .run] ∧ (t.core p).handler = (s.core p).handler ∧
      t.hub.ctlStatus = 0 := by
  intro t
  have hc : t.core p = (s.restartC0 p at_ keep).core p := rfl
  unfold State.restartC0 at hc
  rw [State.core_onCore_same] at hc
  refine ⟨?_, by rw [hc]; rfl, by rw [hc]; rfl, rfl⟩
  rw [State.ctx, hc]
  exact congrArg Ctx.next (look_put_same _ _ _ _)
theorem exec_coreControlSetDeleg (mode : HartMode) (p : Nat) (s : State) : exec (.coreControlSetDeleg mode p) s = .next
    (if mode = .machine then (s.onCore p fun c => { c with deleg := s.hub.ctlData &&& ~~~bitAt 0x1D }).controlDone false
     else s.controlDone true).bump := rfl

/-! ### Logs and checkpoints (R334, R337, R338) -/

theorem State.oweBursts_keeps (name : Nat) (l : List Nat) (s : State) :
    (s.oweBursts name l).cores = s.cores ∧ (s.oweBursts name l).hub = s.hub ∧ (s.oweBursts name l).cliff = s.cliff := by
  induction l generalizing s with
  | nil => exact ⟨rfl, rfl, rfl⟩
  | cons a l ih => exact ih (s.onQuay (servingQuay a) fun u => { u with hubQueue := u.hubQueue ++ [(name, s.now)] })
/-- Where the launch has a replay buffer, its bytes are written behind what the buffer holds; no core is changed (R337). -/
theorem State.putReplay_keeps (s : State) (l : Option Nat) (bs : List Byte) :
    (s.putReplay l bs).cores = s.cores ∧ (s.putReplay l bs).hub.drained = s.hub.drained ∧
      ∀ i a, l = some i → find s.hub.replayAt i = some a →
        memBytes (s.putReplay l bs).cliff a bs.length = bs ∧ find (s.putReplay l bs).hub.replayAt i = some (a + bs.length) := by
  cases hl : l.bind fun i => (find s.hub.replayAt i).map fun a => (i, a) with
  | none =>
    have he : s.putReplay l bs = s := by simp only [State.putReplay, hl]
    refine ⟨by rw [he], by rw [he], fun i a hi ha => ?_⟩
    simp [hi, ha] at hl
  | some ia =>
    obtain ⟨i, a⟩ := ia
    obtain ⟨hc, hh, hm⟩ := State.oweBursts_keeps 0 (burstsAt a bs.length) (s.putStack a bs)
    have he : s.putReplay l bs = { (s.putStack a bs).charge a bs.length with hub :=
      { ((s.putStack a bs).charge a bs.length).hub with
        replayAt := put ((s.putStack a bs).charge a bs.length).hub.replayAt i (a + bs.length) } } := by
      simp only [State.putReplay, hl]
    rw [he]
    have hd : ((s.putStack a bs).charge a bs.length).hub.drained = s.hub.drained := (congrArg Hub.drained hh).trans rfl
    refine ⟨hc, hd, fun j b hj hb => ?_⟩
    obtain ⟨rfl, rfl⟩ : j = i ∧ b = a := by simpa [hj, hb] using hl
    refine ⟨?_, find_put_same _ _ _⟩
    show memBytes ((s.putStack b bs).charge b bs.length).cliff b bs.length = bs
    rw [State.charge, hm]
    exact memBytes_putBytes bs s.cliff b
/-- A core's entries are drained, and its logs are empty (R334, R337). -/
theorem State.drainLog_keeps (s : State) (p : Nat) :
    (s.drainLog p).core p = { s.core p with recvs := [], traces := [] } ∧
      (s.drainLog p).hub.drained = s.hub.drained ++ (s.core p).recvs.map (fun r => (p, r)) ∧
      ∀ i a, (s.core p).logLaunch = some i → find s.hub.replayAt i = some a →
        let bs := ((s.core p).recvs.map Receive.stored).flatten ++ ((((s.core p).traces.map (·.2)).flatten).map traceBytes).flatten
        memBytes (s.drainLog p).cliff a bs.length = bs ∧ find (s.drainLog p).hub.replayAt i = some (a + bs.length) := by
  obtain ⟨hc, hd, hb⟩ := s.putReplay_keeps (s.core p).logLaunch
    (((s.core p).recvs.map Receive.stored).flatten ++ ((((s.core p).traces.map (·.2)).flatten).map traceBytes).flatten)
  refine ⟨?_, congrArg (· ++ (s.core p).recvs.map fun r => (p, r)) hd, hb⟩
  unfold State.drainLog
  rw [State.core_onCore_same]
  exact congrArg (fun cs => { look Core.reset cs p with recvs := [], traces := [] }) hc
/-- A checkpoint is kept for its core, which but for its log stands as it was (R338). -/
theorem State.takeSnapshot_keeps (s : State) (p : Nat) (l : Option Launch) :
    find (s.takeSnapshot p l).hub.snapshots p = some ⟨s.now, s.core p, s.cove (shoreKey p), l⟩ ∧
      ((s.takeSnapshot p l).core p).ctxs = (s.core p).ctxs ∧ ((s.takeSnapshot p l).core p).ls = (s.core p).ls := by
  obtain ⟨rs, n, h⟩ := State.core_logReceive
    (s.onHub fun h => { h with snapshots := put h.snapshots p ⟨s.now, s.core p, s.cove (shoreKey p), l⟩ })
    p 0x0A 0 hubId 0 0 0 0 [] none p
  refine ⟨find_put_same _ _ _, ?_, ?_⟩
  · rw [State.takeSnapshot, h]; rfl
  · rw [State.takeSnapshot, h]; rfl

/-! ### A degraded core, and the target that its migration request proposes (R326, R432) -/

theorem mem_of_nth {α : Type} {l : List α} {i : Nat} {a : α} (h : nth l i = some a) : a ∈ l := by
  induction l generalizing i with
  | nil => cases h
  | cons b l ih =>
    cases i with
    | zero => rw [nth, Option.some.injEq] at h; exact h ▸ List.mem_cons_self
    | succ i => exact List.mem_cons_of_mem _ (ih h)
theorem mem_upFrom {a n i : Nat} : i ∈ upFrom a n ↔ a ≤ i ∧ i < a + n := by
  induction n generalizing a with
  | zero => simp [upFrom]
  | succ n ih => rw [upFrom, List.mem_cons, ih]; omega
theorem lt_of_mem_ordinaryCores {q : Nat} (h : q ∈ ordinaryCores) : q < 16384 := by
  simp only [ordinaryCores, List.mem_flatten, List.mem_map, upTo, mem_upFrom] at h
  obtain ⟨_, ⟨d, hd, rfl⟩, hq⟩ := h
  obtain ⟨i, hi, rfl⟩ := List.mem_map.1 hq
  rw [mem_upFrom] at hi
  omega
theorem State.isOrdinary_of_spare {s : State} {q : Nat} (hq : q < 16384) (h : s.spare (BitVec.ofNat 64 q) = true) :
    isOrdinary q = true := by
  have hn : (BitVec.ofNat 64 q).toNat = q := by rw [BitVec.toNat_ofNat]; omega
  simp only [State.spare, hn, Bool.and_eq_true] at h
  exact h.1.1.2
/-- A proposed target is a spare ordinary core other than the one that leaves, or none (R326; log 15). -/
theorem State.proposedTarget_spare (s : State) (p : Nat) : s.proposedTarget p = 0xFFFF ∨
    (isOrdinary (s.proposedTarget p) = true ∧ s.spare (BitVec.ofNat 64 (s.proposedTarget p)) = true ∧ s.proposedTarget p ≠ p) := by
  cases hq : nth (ordinaryCores.filter fun q => q != p && s.spare (BitVec.ofNat 64 q) && !s.hub.parking (dieOf q))
      (s.anyBelow (9700 + p % 4096)
        ((ordinaryCores.filter fun q => q != p && s.spare (BitVec.ofNat 64 q) && !s.hub.parking (dieOf q)).length + 1)) with
  | none => left; simp only [State.proposedTarget, hq]
  | some q =>
    right
    have he : s.proposedTarget p = q := by simp only [State.proposedTarget, hq]
    obtain ⟨hm, ht⟩ := List.mem_filter.1 (mem_of_nth hq)
    simp only [Bool.and_eq_true, bne_iff_ne] at ht
    obtain ⟨⟨hp, hs⟩, -⟩ := ht
    rw [he]
    exact ⟨State.isOrdinary_of_spare (lt_of_mem_ordinaryCores hm) hs, hs, hp⟩
@[simp] theorem State.core_noticeM (s : State) (kind : Nat) (v : DWord) (p : Nat) : (s.noticeM kind v).core p = s.core p := rfl
/-- Interrupts leave the watches as active as they were. -/
theorem State.active_noticeM (s : State) (kind : Nat) (v : DWord) : (s.noticeM kind v).active = s.active := by
  simp only [State.active, State.noticeM, Hub.raise, List.any_map]
  rfl
/-- A core that is found to be degraded, its launches noted as spoilt from this cycle on (R432). -/
def Core.degrade (c : Core) (now : Nat) : Core :=
  { c with degraded := true, launches := c.launches.map fun (l : CoreLaunch) => { l with failure := some (l.failure.getD now) } }
theorem exec_degradedCoreDetect_idle {s : State} {p : Nat} (h : (s.core p).launches = []) :
    exec (.degradedCoreDetect p) s = .next (s.onCore p fun c => { c with degraded := true }).bump := by
  change execDegradedCoreDetect p s = _
  rw [execDegradedCoreDetect, event_next]
  simp [h]
theorem exec_degradedCoreDetect_launched {s : State} {p : Nat} (h : (s.core p).launches ≠ []) (ha : s.active = true) :
    exec (.degradedCoreDetect p) s = .next (((s.onCore p fun c => c.degrade s.now).noticeM 3 (BitVec.ofNat 64 p)).requestMigration p
      (s.migrationTval p 3 0 (shoreOf p))).bump := by
  have hi : (s.core p).launches.isEmpty = false := by simpa using h
  have hn : ((s.onCore p fun c => c.degrade s.now).noticeM 3 (BitVec.ofNat 64 p)).active = true := (State.active_noticeM _ _ _).trans ha
  change execDegradedCoreDetect p s = _
  rw [execDegradedCoreDetect, event_next]
  simp only [hi, State.proposeMigration]
  exact congrArg _ (congrArg _ (if_pos hn))

/-! ### Replay (R339) -/

/-- A core whose launch instant is another cycle's has no workers to start. -/
theorem State.replayInstant_of_ne {s : State} {p : Nat} (h : (s.core p).latch ≠ some s.now) : s.replayInstant p = s := by
  simp [State.replayInstant, h]
section
variable {s : State} {p n : Nat} {r : Receive} {rest : List (Nat × Receive)} (hr : (s.core p).replaying = true)
  (hl : (s.core p).replay = (n, r) :: rest) (hi : (s.core p).latch ≠ some s.now)
include hr hl hi
/-- The next receive of this cycle takes effect. -/
theorem exec_replayReceive_performed {u : State} (hn : n = s.now) (hu : s.replayOne p r = some u) :
    exec (.replayReceive p) s = .next (u.onCore p fun c => { c with replay := rest }).bump := by
  change execReplayReceive p s = _
  rw [execReplayReceive, event_next]
  simp [hr, hl, State.replayInstant_of_ne hi, hn, hu]
/-- Replay stops at a receive whose cycle has passed, and at one that cannot be replayed. -/
theorem exec_replayReceive_stopped (h : n < s.now ∨ n = s.now ∧ s.replayOne p r = none) :
    exec (.replayReceive p) s = .next (s.stopReplay p).bump := by
  change execReplayReceive p s = _
  rw [execReplayReceive, event_next]
  obtain hn | ⟨hn, hu⟩ := h
  · simp [hr, hl, State.replayInstant_of_ne hi, hn, Nat.not_lt.2 (Nat.le_of_lt hn)]
  · simp [hr, hl, State.replayInstant_of_ne hi, hn, hu]
end
theorem State.replayOne_none (s : State) (p : Nat) {r : Receive} (h : r.gap = true ∨ r.bare = true ∨ r.kind = 0x0B) :
    s.replayOne p r = none := by
  rcases h with h | h | h <;> simp [State.replayOne, h]
/-- A remote write whose bytes were captured is written again (R339, kind 0x06). -/
theorem State.replayOne_write (s : State) (p : Nat) {r : Receive} (hw : r.what = none) (hk : r.kind = 0x06) (hg : r.gap = false)
    (hb : r.bytes ≠ []) :
    s.replayOne p r = some (s.onCore p fun c => c.storeBytes r.laddr.toNat r.bytes.length (natOf r.bytes)) := by
  simp [State.replayOne, Receive.bare, hw, hk, hg, hb]

/-! ### The copies of a migration (R334) -/

/-- The target of a migration with what the hub copies from the core that leaves: shared registers, claimed accumulators, rings, deque,
spill chain and ready queue. -/
def Core.takeMoved (t c : Core) : Core :=
  { t with ks := c.ks, ws := c.ws, claims := c.claims,
           accs := ((c.claims.map (·.1)).eraseDups).foldl (fun a m => put a m (look [] c.accs m)) t.accs,
           rings := c.rings, ringTold := c.ringTold, deque := c.deque, chain := c.chain, zeroSpilled := c.zeroSpilled, ready := c.ready }
/-- The state once a migration's copies are made, before its descriptor. -/
def State.movedTo (s : State) (p q : Nat) : State :=
  (s.onCore q fun t => t.takeMoved (s.core p)).onCore p fun c => { c with migration := none }
theorem State.core_movedTo (s : State) (p q : Nat) :
    ∃ m, (s.movedTo p q).core q = { (s.core q).takeMoved (s.core p) with migration := m } := by
  unfold State.movedTo
  rw [State.core_onCore]
  split
  · next h => rw [← h, State.core_onCore_same]; exact ⟨_, rfl⟩
  · rw [State.core_onCore_same]; exact ⟨_, rfl⟩
theorem State.migration_movedTo (s : State) (p q : Nat) : ((s.movedTo p q).core p).migration = none := by
  rw [State.movedTo, State.core_onCore_same]
/-- A target that is in a launch is woken with the migration descriptor. -/
def State.wakeMoved (s : State) (p q : Nat) (logical : Half) : State :=
  match s.launch ((s.core q).launchId 0) with
  | some l => s.giveDescriptor q (s.descriptorFor 2 q l (BitVec.ofNat 64 (p + 65536 * logical.toNat)))
  | none => s
theorem State.wakeMoved_cases (s : State) (p q : Nat) (logical : Half) :
    s.wakeMoved p q logical = s ∨ ∃ bs, s.wakeMoved p q logical = s.giveDescriptor q bs := by
  unfold State.wakeMoved
  split
  · exact .inr ⟨_, rfl⟩
  · exact .inl rfl
theorem exec_migrationStateCopy {s : State} {p q : Nat} {f : Bool} {logical : Half} {due : Nat}
    (hm : (s.core p).migration = some ⟨q, f, some (logical, due)⟩) (hd : due ≤ s.now) :
    exec (.migrationStateCopy p) s = .next ((s.movedTo p q).wakeMoved p q logical).bump := by
  change execMigrationStateCopy p s = _
  rw [execMigrationStateCopy, event_next]
  simp only [hm, if_neg (Nat.not_lt.2 hd)]
  rfl
end Sys2Proof.Machine

namespace Sys2Proof.Proofs
open Sys2Proof.Machine Sys2Proof.Claims

/-! ### O56: the events of one core that the hub takes part in -/

theorem workerTrapTaken_holds {s : State} {p n : Nat} {epc : Option DWord} {cause tval : DWord} {y : Ctx} (hr : (s.ctx p n).st = .run)
    (hp : (s.ctx p n).pickTrap s.now = some (epc, cause, tval, y)) (hn : n ≠ 0) (hc : cause.toNat % 256 ≠ 0x1D) :
    ∃ t, exec (.workerTrapTaken p n) s = .next t ∧ (t.ctx p n).epc = epc.getD (s.ctx p n).next ∧
      (t.ctx p n).cause = cause ||| (BitVec.ofNat 64 n <<< 8) ∧ (t.ctx p n).tval = tval ∧ (t.ctx p n).st = .stop ∧
      (t.ctx p n).late = y.late ∧ (t.ctx p n).backlog = y.backlog ∧
      (t.core p).pending.workers = (s.core p).pending.workers ++ [(n, cause ||| (BitVec.ofNat 64 n <<< 8), tval)] ∧
      (t.core p).ls = (s.core p).ls := by
  refine ⟨_, exec_workerTrapTaken hn hr hp, ?_⟩
  rw [State.takeTrap_worker _ _ _ _ hn hc, State.ctx_bump, State.core_bump, State.ctx, State.core_onCore_same, Core.workerTrap_ctx,
    State.core_onCtx_same, Core.ctx_onCtx_same]
  exact ⟨rfl, rfl, rfl, rfl, rfl, rfl, rfl, rfl⟩
theorem c0TrapToLighthouse_holds {s : State} {p : Nat} {epc : Option DWord} {cause tval : DWord} {y : Ctx} (hr : (s.ctx p 0).st = .run)
    (hp : (s.ctx p 0).pickTrap s.now = some (epc, cause, tval, y)) :
    ∃ t, exec (.c0TrapToLighthouse p) s = .next t ∧ (t.ctx p 0).epc = epc.getD (s.ctx p 0).next ∧ (t.ctx p 0).cause = cause ∧
      (t.ctx p 0).tval = tval ∧ (t.ctx p 0).st = .stop ∧ (t.ctx p 0).late = y.late ∧ (t.core p).delivered.isSome = true ∧
      (t.core p).handler = (s.core p).handler ∧ (t.core p).pending = (s.core p).pending := by
  obtain ⟨b, hb⟩ := (s.onCtx p 0 fun _ => y).c0Trap_core p (epc.getD (s.ctx p 0).next) cause tval
  refine ⟨_, exec_c0TrapToLighthouse hr hp, ?_⟩
  rw [State.ctx_bump, State.core_bump, State.c0Trap_ctx, hb, State.ctx, State.core_onCtx_same, Core.ctx_onCtx_same]
  exact ⟨rfl, rfl, rfl, rfl, rfl, rfl, rfl, rfl⟩
theorem uncorrectableLsError_holds {s : State} {p n : Nat} (a : Nat) (hn : n ≠ 0) (hr : (s.ctx p n).st = .run) :
    ∃ t, exec (.uncorrectableLsError p n a) s = .next t ∧ (t.ctx p n).st = .stop ∧ (t.ctx p n).mmode = true ∧
      (t.ctx p n).cause = 0x1D ||| (BitVec.ofNat 64 n <<< 8) ∧ (t.ctx p n).tval = BitVec.ofNat 64 (a % 2 ^ 19 / 8 * 8) ∧
      (t.ctx p n).epc = (s.ctx p n).next ∧ a % 2 ^ 19 / 8 * 8 ∈ (t.core p).poison ∧ (t.core p).pending = (s.core p).pending ∧
      (t.core p).ls = (s.core p).ls := by
  refine ⟨_, exec_uncorrectableLsError a hn hr, ?_⟩
  rw [State.ctx_bump, State.core_bump, State.ctx, State.workerError_core, Core.ctx_onCtx_same, State.core_onCore_same]
  exact ⟨rfl, rfl, congrArg (· ||| _) (by decide : causeOf 0x1D = 0x1D), rfl, rfl, List.mem_cons_self, rfl, rfl⟩
theorem migrationStateCopy_holds {s : State} {p q : Nat} {f : Bool} {logical : Half} {due : Nat}
    (hm : (s.core p).migration = some ⟨q, f, some (logical, due)⟩) (hd : due ≤ s.now) :
    let c := s.core p
    ∃ t, exec (.migrationStateCopy p) s = .next t ∧ (t.core q).ks = c.ks ∧ (t.core q).ws = c.ws ∧ (t.core q).claims = c.claims ∧
      (t.core q).rings = c.rings ∧ (t.core q).deque = c.deque ∧ (t.core q).chain = c.chain ∧ (t.core q).ready = c.ready ∧
      (t.core p).migration = none ∧ (t.core q).ls = (s.core q).ls ∧ (t.core q).code = (s.core q).code ∧
      (t.core q).routes = (s.core q).routes := by
  intro c
  obtain ⟨m, hq⟩ := s.core_movedTo p q
  have hp := s.migration_movedTo p q
  refine ⟨_, exec_migrationStateCopy hm hd, ?_⟩
  rw [State.core_bump, State.core_bump]
  obtain hu | ⟨bs, hu⟩ := (s.movedTo p q).wakeMoved_cases p q logical
  · rw [hu, hp, hq]
    exact ⟨rfl, rfl, rfl, rfl, rfl, rfl, rfl, rfl, rfl, rfl, rfl⟩
  · obtain ⟨rs, n, ms, pd, hg⟩ := (s.movedTo p q).core_giveDescriptor q bs q
    obtain ⟨rs', n', ms', pd', hg'⟩ := (s.movedTo p q).core_giveDescriptor q bs p
    rw [hu, hg, hg', hq]
    exact ⟨rfl, rfl, rfl, rfl, rfl, rfl, rfl, hp, rfl, rfl, rfl⟩
theorem coreControlRestart_holds {s : State} {p : Nat} {b : Bool} {mode : HartMode} (h : (s.core p).delivered = some b)
    (hm : mode = (if b then .supervisor else .machine)) :
    (∃ t, exec (.coreControlRestartEpc mode p) s = .next t ∧ (t.ctx p 0).next = (s.ctx p 0).epc ∧
      (t.core p).changes = (s.core p).changes ++ [.resume 0 .run] ∧ (t.core p).handler = (s.core p).handler ∧ t.hub.ctlStatus = 0) ∧
    (∃ t, exec (.coreControlRestartData mode p) s = .next t ∧ (t.ctx p 0).next = s.hub.ctlData ∧
      (t.core p).changes = (s.core p).changes ++ [.resume 0 .run] ∧ (t.core p).handler = (s.core p).handler ∧ t.hub.ctlStatus = 0) := by
  have ha := State.mayRestart_delivered h hm
  rw [exec_coreControlRestartEpc, exec_coreControlRestartData, if_pos ha, if_pos ha]
  exact ⟨⟨_, rfl, s.restartC0_done p _ true⟩, _, rfl, s.restartC0_done p _ false⟩
theorem coreControlRestart_refused {s : State} {p : Nat} (b : Bool) (mode : HartMode)
    (h : (s.core p).delivered = none ∨ ((s.core p).delivered = some b ∧ mode = (if b then .machine else .supervisor))) :
    ∀ e ∈ [Instr.coreControlRestartEpc mode p, .coreControlRestartData mode p], ∃ t, exec e s = .next t ∧
      t.hub.ctlStatus = 2 ∧ t.cores = s.cores := by
  have hr : ¬ s.mayRestart mode p = true := by rw [State.mayRestart_refused h]; exact Bool.false_ne_true
  simp only [List.forall_mem_cons, List.not_mem_nil, false_imp_iff, implies_true, and_true]
  rw [exec_coreControlRestartEpc, exec_coreControlRestartData, if_neg hr, if_neg hr]
  exact ⟨⟨_, rfl, rfl, rfl⟩, _, rfl, rfl, rfl⟩
theorem coreControlSetDeleg_holds (s : State) (p : Nat) :
    (∃ t, exec (.coreControlSetDeleg .machine p) s = .next t ∧ (t.core p).deleg = s.hub.ctlData &&& ~~~((1 : DWord) <<< 0x1D) ∧
      t.hub.ctlStatus = 0 ∧ (t.core p).ctxs = (s.core p).ctxs) ∧
    (∀ mode ∈ [HartMode.supervisor, .port], ∃ t, exec (.coreControlSetDeleg mode p) s = .next t ∧ t.hub.ctlStatus = 2 ∧
      t.cores = s.cores) := by
  refine ⟨⟨_, (exec_coreControlSetDeleg _ p s).trans (by rw [if_pos rfl]), ?_⟩, ?_⟩
  · rw [State.core_bump, State.controlDone, State.core_onHub, State.core_onCore_same]
    exact ⟨rfl, rfl, rfl⟩
  · simp only [List.forall_mem_cons, List.not_mem_nil, false_imp_iff, implies_true, and_true]
    exact ⟨⟨_, rfl, rfl, rfl⟩, _, rfl, rfl, rfl⟩
theorem coreControlMigration_holds (s : State) (p : Nat) :
    (∀ mode ∈ [HartMode.supervisor, .machine], ∃ t, exec (.coreControlMigration mode p) s = .next t ∧ t.hub.ctlStatus = 0 ∧
      (t.core p).pending = { (s.core p).pending with migration := (s.core p).pending.migration ++ [s.hub.ctlData] }) ∧
    (∃ t, exec (.coreControlMigration .port p) s = .next t ∧ t.hub.ctlStatus = 2 ∧ t.cores = s.cores) := by
  obtain ⟨rs, n, h⟩ := s.core_requestMigration p s.hub.ctlData
  have hp := congrArg Core.pending h
  refine ⟨?_, _, rfl, rfl, rfl⟩
  simp only [List.forall_mem_cons, List.not_mem_nil, false_imp_iff, implies_true, and_true]
  exact ⟨⟨_, rfl, rfl, hp⟩, _, rfl, rfl, hp⟩
theorem logDrain_holds (s : State) (p : Nat) : let c := s.core p
    ∃ t, exec (.logDrain p) s = .next t ∧ (t.core p).recvs = [] ∧ (t.core p).traces = [] ∧
      t.hub.drained = s.hub.drained ++ c.recvs.map (fun r => (p, r)) ∧ (t.core p).ls = c.ls ∧ (t.core p).ctxs = c.ctxs ∧
      ∀ i a, c.logLaunch = some i → find s.hub.replayAt i = some a →
        let bs := (c.recvs.map Receive.stored).flatten ++ (((c.traces.map (·.2)).flatten).map traceBytes).flatten
        memBytes t.cliff a bs.length = bs ∧ find t.hub.replayAt i = some (a + bs.length) := by
  intro c
  obtain ⟨hc, hd, hb⟩ := s.drainLog_keeps p
  refine ⟨(s.drainLog p).bump, rfl, ?_⟩
  rw [State.core_bump, hc]
  exact ⟨rfl, rfl, hd, rfl, rfl, hb⟩
theorem degradedCoreDetect_holds {s : State} {p : Nat} (h : (s.core p).launches ≠ []) (ha : s.active = true) : let c := s.core p
    ∃ t v, exec (.degradedCoreDetect p) s = .next t ∧ (t.core p).degraded = true ∧
      (t.core p).launches = c.launches.map (fun (l : CoreLaunch) => { l with failure := some (l.failure.getD s.now) }) ∧
      t.hub.mNotices = s.hub.mNotices ++ [(3, BitVec.ofNat 64 p)] ∧
      (v = 0xFFFF ∨ (isOrdinary v = true ∧ s.spare (BitVec.ofNat 64 v) = true ∧ v ≠ p)) ∧
      (t.core p).pending.migration = c.pending.migration ++ [BitVec.ofNat 64 (v + 2 ^ 16 * 3 + 2 ^ 32 * shoreOf p)] := by
  intro c
  obtain ⟨rs, n, hq⟩ := ((s.onCore p fun c => c.degrade s.now).noticeM 3 (BitVec.ofNat 64 p)).core_requestMigration p
    (s.migrationTval p 3 0 (shoreOf p))
  have hc : ((s.onCore p fun c => c.degrade s.now).noticeM 3 (BitVec.ofNat 64 p)).core p = (s.core p).degrade s.now := by
    rw [State.core_noticeM, State.core_onCore_same]
  refine ⟨_, s.proposedTarget p, exec_degradedCoreDetect_launched h ha, ?_⟩
  rw [State.core_bump, hq, hc]
  exact ⟨rfl, rfl, rfl, s.proposedTarget_spare p, rfl⟩
theorem replayReceive_stops {s : State} {p n : Nat} {r : Receive} {rest : List (Nat × Receive)} (hr : (s.core p).replaying = true)
    (hl : (s.core p).replay = (n, r) :: rest) (hi : (s.core p).latch ≠ some s.now)
    (h : n < s.now ∨ n = s.now ∧ (r.gap = true ∨ r.bare = true ∨ r.kind = 0x0B)) :
    ∃ t, exec (.replayReceive p) s = .next t ∧ (t.core p).replaying = false ∧ (t.core p).replay = [] ∧
      t.hub.mNotices = s.hub.mNotices ++ [(4, BitVec.ofNat 64 p)] := by
  have hc : (s.stopReplay p).core p = { s.core p with replay := [], replaying := false } := by
    rw [State.stopReplay, State.core_noticeM, State.core_onCore_same]
  refine ⟨_, exec_replayReceive_stopped hr hl hi (h.imp_right fun ⟨hn, hw⟩ => ⟨hn, s.replayOne_none p hw⟩), ?_⟩
  rw [State.core_bump, hc]
  exact ⟨rfl, rfl, rfl⟩

/-- Settles O56: each event by its own equation, with what taking a trap, logging a receive, draining a log and a notice change. -/
theorem coreEventsOfTheHub : Obligations.CoreEventsOfTheHub := by
  refine fun s p => ⟨fun n epc cause tval y hr hp => ⟨workerTrapTaken_holds hr hp, fun hn => ?_⟩, fun he hc => ?_,
    fun n a hn hr => uncorrectableLsError_holds a hn hr, fun q f logical due => migrationStateCopy_holds,
    fun b mode => coreControlRestart_holds, coreControlRestart_refused, (coreControlSetDeleg_holds s p).1,
    (coreControlSetDeleg_holds s p).2, (coreControlMigration_holds s p).1, (coreControlMigration_holds s p).2, logDrain_holds s p,
    ⟨_, rfl, s.takeSnapshot_keeps p (s.carried p)⟩,
    fun h => ⟨_, exec_degradedCoreDetect_idle h, by rw [State.core_bump, State.core_onCore_same], rfl⟩,
    degradedCoreDetect_holds,
    fun r rest u hr hl hi hu => ⟨_, exec_replayReceive_performed hr hl hi rfl hu, by rw [State.core_bump, State.core_onCore_same]⟩,
    fun r hw hk hg hb => ⟨_, s.replayOne_write p hw hk hg hb, ?_⟩, fun n r rest => replayReceive_stops⟩
  · subst hn
    exact c0TrapToLighthouse_holds hr hp
  · refine ⟨_, exec_c0TimerExpiry he hc, ?_⟩
    rw [State.core_bump, State.core_onCore_same]
    exact ⟨(by decide : (0x4000000000000000 : DWord) = 1 <<< 62), rfl, rfl⟩
  · rw [State.core_onCore_same]
    exact memBytes_write r.bytes (s.core p).ls r.laddr.toNat
end Sys2Proof.Proofs

namespace Sys2Proof.Machine
open Sys2Proof.Claims

/-! ### The lanes of a vector register (R152, R153) -/

theorem upFrom_eq_range' (a n : Nat) : upFrom a n = List.range' a n := by
  induction n generalizing a with
  | zero => rfl
  | succ n ih => rw [upFrom, ih, List.range'_succ]
/-- Lane j as the bits that R152 gives it. -/
theorem toNat_lane (w : Nat) (v : Vec) (j : Nat) : (lane w v j).toNat = laneOf w v j := by
  rw [lane, BitVec.extractLsb'_toNat, Nat.shiftRight_eq_div_pow, laneOf]
theorem packNat_lt (w : Nat) (l : List Nat) : packNat w l < 2 ^ (w * l.length) := by
  induction l with
  | nil => simp [packNat]
  | cons a t ih =>
    have ha : a % 2 ^ w < 2 ^ w := Nat.mod_lt _ (Nat.two_pow_pos w)
    calc a % 2 ^ w + 2 ^ w * packNat w t
      _ < 2 ^ w * (packNat w t + 1) := by rw [Nat.mul_add]; omega
      _ ≤ 2 ^ w * 2 ^ (w * t.length) := Nat.mul_le_mul_left _ ih
      _ = 2 ^ (w * (a :: t).length) := by rw [List.length_cons, Nat.mul_succ, Nat.add_comm, Nat.pow_add]
/-- A packed lane reads back. -/
theorem packNat_lane (w : Nat) (l : List Nat) {j : Nat} (h : j < l.length) :
    packNat w l / 2 ^ (w * j) % 2 ^ w = l[j] % 2 ^ w := by
  induction l generalizing j with
  | nil => cases h
  | cons a t ih =>
    have hp : 0 < 2 ^ w := Nat.two_pow_pos w
    cases j with
    | zero => simp [packNat]
    | succ j =>
      have hd : (a % 2 ^ w + 2 ^ w * packNat w t) / 2 ^ w = packNat w t := by
        rw [Nat.add_mul_div_left _ _ hp, Nat.div_eq_of_lt (Nat.mod_lt _ hp), Nat.zero_add]
      rw [packNat, Nat.mul_succ, Nat.add_comm (w * j), Nat.pow_add, ← Nat.div_div_eq_div_mul, hd]
      exact ih (Nat.lt_of_succ_lt_succ h)
theorem laneOf_packLanes {w : Nat} {l : List Nat} (hw : w * l.length ≤ 256) {j : Nat} (h : j < l.length) :
    laneOf w (packLanes w l) j = l[j] % 2 ^ w := by
  have hb : packNat w l < 2 ^ 256 := Nat.lt_of_lt_of_le (packNat_lt w l) (Nat.pow_le_pow_right Nat.two_pos hw)
  rw [laneOf, packLanes, BitVec.toNat_ofNat, Nat.mod_eq_of_lt hb, packNat_lane w l h]
/-- A lane of a register computed lane by lane. -/
theorem lane_lanesFl {w : Nat} (f : Nat → Nat × Fl) {j : Nat} (h : j < 256 / w) :
    (lane w (lanesFl w f).1 j).toNat = (f j).1 % 2 ^ w := by
  have hl : (((upTo (256 / w)).map f).map (·.1)).length = 256 / w := by simp [upTo, upFrom_eq_range']
  rw [toNat_lane, lanesFl, laneOf_packLanes (by rw [hl]; exact Nat.mul_div_le 256 w) (by rw [hl]; exact h)]
  simp [upTo, upFrom_eq_range']
/-- A union of flags has the flags of every member. -/
theorem getLsbD_foldl_or (l : List (Nat × Fl)) (a : Fl) (k : Nat) :
    (l.foldl (fun a p => a ||| p.2) a).getLsbD k = true ↔ a.getLsbD k = true ∨ ∃ p ∈ l, p.2.getLsbD k = true := by
  induction l generalizing a with
  | nil => simp
  | cons p t ih => simp [ih, or_assoc]
/-- The flags of a register computed lane by lane are the union of the lanes' flags. -/
theorem union_lanesFl (w : Nat) (f : Nat → Nat × Fl) : Union (256 / w) (lanesFl w f).2 fun j => (f j).2 := by
  intro k _
  rw [lanesFl, getLsbD_foldl_or]
  constructor
  · rintro (h0 | ⟨p, hp, hk⟩)
    · exact absurd (BitVec.getLsbD_zero.symm.trans h0) Bool.false_ne_true
    · obtain ⟨j, hj, rfl⟩ := List.mem_map.1 hp
      exact ⟨j, by have := mem_upFrom.1 hj; omega, hk⟩
  · rintro ⟨j, hj, hk⟩
    exact .inr ⟨f j, List.mem_map_of_mem (mem_upFrom.2 ⟨Nat.zero_le j, by omega⟩), hk⟩

/-! ### Operations of the V slot -/

/-- An operation that takes no operand check has its effect in a worker where no field check fails. -/
theorem operation_worker {i : Instr} {perf : State → State} {s : State} (h : WorkerIssues s) (hx : Instr.special i = false)
    (h4 : ∀ p e, Instr.absent i p e = false) (h7 : Instr.c0Only i = false) (h9 : (Instr.dests i).length ≤ 1) :
    operation i noCheck perf s = .next (perf s) :=
  have hc {P : Prop} (h0 : s.frame.ctx = 0) : P := absurd h0 h.2
  operation_issues h.1 (State.fieldTrap_none hx hc (h4 _ _) hc (fun _ => h7) hc (Instr.destsOf_short _ h9)) rfl

section
variable {s : State} (t : FpTy) (d a b c : VReg) (m : Rmo) (h : WorkerIssues s)
include h
theorem exec_vadd : exec (.vadd t d a b m) s = .next (s.fpLanes t (s.rmoNow m) d 1 fun md j =>
    numAdd md (laneNum t (s.rv a) j) (laneNum t (s.rv b) j)) :=
  (operation_worker h rfl (fun _ _ => rfl) rfl (Nat.le_refl 1) : execVadd t d a b m s = _)
theorem exec_vsub : exec (.vsub t d a b m) s = .next (s.fpLanes t (s.rmoNow m) d 1 fun md j =>
    numAdd md (laneNum t (s.rv a) j) (laneNum t (s.rv b) j).neg) :=
  (operation_worker h rfl (fun _ _ => rfl) rfl (Nat.le_refl 1) : execVsub t d a b m s = _)
theorem exec_vmul : exec (.vmul t d a b m) s = .next (s.fpLanes t (s.rmoNow m) d 1 fun _ j =>
    ((numMul (laneNum t (s.rv a) j) (laneNum t (s.rv b) j)).1.exact, (numMul (laneNum t (s.rv a) j) (laneNum t (s.rv b) j)).2)) :=
  (operation_worker h rfl (fun _ _ => rfl) rfl (Nat.le_refl 1) : execVmul t d a b m s = _)
theorem exec_vfma : exec (.vfma t d a b c) s = .next (s.fpLanes t (s.rmoNow .fcr) d 2 fun md j =>
    numFma md false false (laneNum t (s.rv a) j) (laneNum t (s.rv b) j) (laneNum t (s.rv c) j)) :=
  (operation_worker h rfl (fun _ _ => rfl) rfl (Nat.le_refl 1) : execVfma t d a b c s = _)
theorem exec_vfms : exec (.vfms t d a b c) s = .next (s.fpLanes t (s.rmoNow .fcr) d 2 fun md j =>
    numFma md false true (laneNum t (s.rv a) j) (laneNum t (s.rv b) j) (laneNum t (s.rv c) j)) :=
  (operation_worker h rfl (fun _ _ => rfl) rfl (Nat.le_refl 1) : execVfms t d a b c s = _)
end

/-- One rounding per lane: the state that answers, its lanes and the union of their flags (R153 to R156). -/
theorem fpLanes_gives {i : Instr} {s : State} {t : FpTy} {m : RMode} {d : VReg} {lat : Nat} {f : Mode → Nat → Exact × Fl}
    (h : exec i s = .next (s.fpLanes t m d lat f)) :
    GivesFloats i s (s.forMode m).2 d lat fun v fl =>
      (∀ j < t.lanes, (lane t.width v j).toNat =
        ((ffOf t).finish (s.fcrNow.getLsbD 3) (m.at (s.forMode m).1 j) (f (m.at (s.forMode m).1 j) j).1).1 % 2 ^ t.width) ∧
      Union t.lanes fl fun j => (f (m.at (s.forMode m).1 j) j).2 |||
        ((ffOf t).finish (s.fcrNow.getLsbD 3) (m.at (s.forMode m).1 j) (f (m.at (s.forMode m).1 j) j).1).2 :=
  ⟨_, _, h, fun _ hj => lane_lanesFl _ hj, union_lanesFl _ _⟩
end Sys2Proof.Machine

namespace Sys2Proof.Proofs
open Sys2Proof.Machine Sys2Proof.Claims

/-! ### O39: vector arithmetic, one rounding per lane -/

/-- Settles O39: each operation issues, and is one rounding per lane of its exact value. -/
theorem vectorFloatResults : Obligations.VectorFloatResults := by
  intro s t d a b c m h rm ftz num
  have hnum (v : VReg) (j : Nat) : num v j = laneNum t (s.rv v) j := congrArg (ffOf t).num (toNat_lane _ _ _)
  simp only [hnum]
  exact ⟨fpLanes_gives (exec_vadd t d a b m h), fpLanes_gives (exec_vsub t d a b m h), fpLanes_gives (exec_vmul t d a b m h),
    fpLanes_gives (exec_vfma t d a b c h), fpLanes_gives (exec_vfms t d a b c h)⟩
end Sys2Proof.Proofs

namespace Sys2Proof.Machine
open Sys2Proof.Claims

/-! ### Order of two numbers (R115) -/

/-- A finite number in units of 2^i, i at most its exponent. -/
def unitsAt (neg : Bool) (m : Nat) (e i : Int) : Int := (if neg then -1 else 1) * (m * 2 ^ (e - i).toNat : Nat)
theorem unitsAt_eq (neg : Bool) (m : Nat) (e i : Int) : unitsAt neg m e i = signedOf neg m * 2 ^ (e - i).toNat := by
  have hp : ((m * 2 ^ (e - i).toNat : Nat) : Int) = m * 2 ^ (e - i).toNat := by
    rw [Int.natCast_mul, Int.natCast_pow]
    rfl
  cases neg with
  | false => exact (Int.one_mul _).trans hp
  | true => exact (Int.neg_one_mul _).trans ((congrArg _ hp).trans (Int.neg_mul _ _).symm)
/-- Finite numbers compare as their units of the smaller exponent do. -/
theorem numCmp_fin (n k : Bool) (m l : Nat) (e f : Int) :
    numCmp (.fin n m e) (.fin k l f) = compare (unitsAt n m e (min e f)) (unitsAt k l f (min e f)) := by
  have hc (x y : Int) : compare (x + -y) 0 = compare x y := by
    simp only [compare, compareOfLessAndEq, show x + -y < 0 ↔ x < y by omega, show x + -y = 0 ↔ x = y by omega]
  have h1 (x : Int) (a : Int) : x * 2 ^ (a - a).toNat = x := by rw [Int.sub_self, Int.toNat_zero, Int.pow_zero, Int.mul_one]
  simp only [numCmp, addUnits, unitsAt_eq]
  by_cases h : e ≤ f
  · rw [if_pos h, Int.min_eq_left h, h1, Int.neg_mul, hc]
  · rw [if_neg h, Int.min_eq_right (Int.le_of_not_le h), h1, hc]
theorem less_fin (n k : Bool) (m l : Nat) (e f : Int) : less (.fin n m e) (.fin k l f) ↔
    unitsAt n m e (min e f) < unitsAt k l f (min e f) ∨ m = 0 ∧ l = 0 ∧ n = true ∧ k = false := Iff.rfl
/-- x comes before y: as a value, or as −0 before +0. -/
def Num.Before (x y : Num) : Prop := numCmp x y = .lt ∨ numCmp x y = .eq ∧ x.isNeg = true ∧ y.isNeg = false
theorem before_of_less {x y : Num} (h : less x y) : Num.Before x y := by
  cases x with
  | nan s => cases h
  | inf n =>
    cases y with
    | nan s => cases h
    | inf k => obtain ⟨rfl, rfl⟩ := h; exact .inl rfl
    | fin k l f => obtain rfl : n = true := h; exact .inl rfl
  | fin n m e =>
    cases y with
    | nan s => cases h
    | inf k => obtain rfl : k = false := h; exact .inl rfl
    | fin k l f =>
      rcases (less_fin n k m l e f).1 h with h | ⟨rfl, rfl, rfl, rfl⟩
      · exact .inl ((numCmp_fin n k m l e f).trans (Int.compare_eq_lt.2 h))
      · exact .inr ⟨by simp [numCmp_fin, unitsAt], rfl, rfl⟩
theorem numCmp_swap (x y : Num) : numCmp y x = (numCmp x y).swap := by
  cases x with
  | nan s => cases y with
    | nan r => rfl
    | inf k => cases k <;> rfl
    | fin k l f => rfl
  | inf n => cases y with
    | nan r => cases n <;> rfl
    | inf k => cases n <;> cases k <;> rfl
    | fin k l f => cases n <;> rfl
  | fin n m e => cases y with
    | nan r => rfl
    | inf k => cases k <;> rfl
    | fin k l f => rw [numCmp_fin, numCmp_fin, Int.min_comm, Int.compare_swap]
theorem not_nan_of_less {x y : Num} (h : less x y) : x.isNan = false ∧ y.isNan = false := by
  cases x with
  | nan s => cases h
  | inf n => cases y with
    | nan r => cases h
    | inf k => exact ⟨rfl, rfl⟩
    | fin k l f => exact ⟨rfl, rfl⟩
  | fin n m e => cases y with
    | nan r => cases h
    | inf k => exact ⟨rfl, rfl⟩
    | fin k l f => exact ⟨rfl, rfl⟩

/-! ### Minimum and maximum (R115) -/

theorem ite_eq_either {p : Prop} [Decidable p] (x y : Nat) : (if p then x else y) = x ∨ (if p then x else y) = y := by
  split
  · exact .inl rfl
  · exact .inr rfl
section
variable (t : Ff) (mx : Bool) {a b : Nat}
theorem minmax_nans (ha : (t.num a).isNan = true) (hb : (t.num b).isNan = true) : (t.minmax mx a b).1 = t.nan := by
  simp [Ff.minmax, ha, hb]
theorem minmax_nan_left (ha : (t.num a).isNan = true) (hb : (t.num b).isNan = false) : (t.minmax mx a b).1 = b := by
  simp [Ff.minmax, ha, hb]
theorem minmax_nan_right (ha : (t.num a).isNan = false) (hb : (t.num b).isNan = true) : (t.minmax mx a b).1 = a := by
  simp [Ff.minmax, ha, hb]
theorem minmax_either (ha : (t.num a).isNan = false) (hb : (t.num b).isNan = false) :
    (t.minmax mx a b).1 = a ∨ (t.minmax mx a b).1 = b := by
  simp only [Ff.minmax, ha, hb, Bool.and_self, Bool.false_eq_true, if_false]
  split
  · exact (ite_eq_either _ _).symm
  · split
    · exact .inl rfl
    · exact ite_eq_either _ _
theorem minmax_less (h : less (t.num a) (t.num b)) : (t.minmax mx a b).1 = if mx then b else a := by
  obtain ⟨ha, hb⟩ := not_nan_of_less h
  rcases before_of_less h with hc | ⟨hc, hn, hk⟩
  · simp [Ff.minmax, ha, hb, hc]
  · simp [Ff.minmax, ha, hb, hc, hn, hk]
theorem minmax_greater (h : less (t.num b) (t.num a)) : (t.minmax mx a b).1 = if mx then a else b := by
  obtain ⟨hb, ha⟩ := not_nan_of_less h
  have hs := numCmp_swap (t.num b) (t.num a)
  rcases before_of_less h with hc | ⟨hc, hn, hk⟩
  · simp [Ff.minmax, ha, hb, hs, hc]
  · simp [Ff.minmax, ha, hb, hs, hc, hn, hk]
theorem sigFlag_cons (x : Num) (l : List Num) : sigFlag (x :: l) = (if x = .nan true then flNV else 0) ||| sigFlag l := by
  cases x with
  | nan b => cases b <;> simp [sigFlag]
  | inf n => simp [sigFlag]
  | fin n m e => simp [sigFlag]
/-- A signalling NaN among two operands raises NV, and nothing else does (R71). -/
theorem sigFlag_pair (x y : Num) : sigFlag [x, y] = if x = .nan true ∨ y = .nan true then 0x10 else 0 := by
  have h0 : sigFlag [] = 0 := rfl
  by_cases hx : x = .nan true <;> by_cases hy : y = .nan true <;> simp [sigFlag_cons, h0, hx, hy, flNV]
theorem minmax_flags : (t.minmax mx a b).2 = sigFlag [t.num a, t.num b] := by
  simp only [Ff.minmax, apply_ite Prod.snd, ite_self]
end

/-! ### Scalar floating-point operations issue in every context -/

/-- A list of scalar registers holds no vector register. -/
theorem noVector_map (r : VReg) (l : List SReg) : Reg.v r ∉ l.map Reg.x := by simp
theorem Instr.plain_fop (op : FopKind) (t : FpTy) (d a b : SReg) : Instr.Plain (.fop op t d a b) :=
  ⟨⟨rfl, rfl⟩, fun _ _ => rfl, ⟨rfl, rfl⟩, noVector_x d,
    fun r => by
      cases op
      case sqrt => exact noVector_x a r
      all_goals exact noVector_map r [a, b],
    Nat.le_refl 1⟩
theorem Instr.plain_ffma (f : FmaForm) (t : FpTy) (d a b : SReg) : Instr.Plain (.ffma f t d a b) :=
  ⟨⟨rfl, rfl⟩, fun _ _ => rfl, ⟨rfl, rfl⟩, noVector_x d, fun r => noVector_map r [d, a, b], Nat.le_refl 1⟩
theorem Instr.plain_fcmp (c : FCond) (t : FpTy) (q : PReg) (a b : SReg) : Instr.Plain (.fcmp c t q a b) :=
  ⟨⟨rfl, rfl⟩, fun _ _ => rfl, ⟨rfl, rfl⟩, nofun, fun r => noVector_map r [a, b], Nat.le_refl 1⟩
theorem Instr.plain_fcvt (src dst : CvtTy) (cm : CvtMode) (d a : SReg) : Instr.Plain (.fcvt src dst cm d a) :=
  ⟨⟨rfl, rfl⟩, fun _ _ => rfl, ⟨rfl, rfl⟩, noVector_x d, noVector_x a, Nat.le_refl 1⟩
/-- An operation without field restrictions has its effect where its operands pass (R61). -/
theorem operation_plain {i : Instr} {chk : State → Option Trap} {perf : State → State} {s : State} (h : Issues s) (hp : Instr.Plain i)
    (hr : ∀ n p, Instr.sprRefused n p i = false) (hd : Instr.sprDenied i = false) (hc : chk s = none) :
    operation i chk perf s = .next (perf s) := by
  refine operation_issues h ?_ hc
  rw [State.fieldTrap_plain s hp, hr, hd, Bool.and_false]
  rfl
section
variable {s : State} (h : Issues s)
include h
theorem exec_ffma (form : FmaForm) (t : FpTy) (d a b : SReg) : exec (.ffma form t d a b) s =
    .next (s.scalarFp (rmMode (s.fcrNow.extractLsb' 0 3).toNat) d fun md =>
      let r := numFma md (fmaSigns form).1 (fmaSigns form).2 ((ffOf t).num (fpIn t (s.rx a))) ((ffOf t).num (fpIn t (s.rx b)))
        ((ffOf t).num (fpIn t (s.rx d)))
      (((ffOf t).finish (s.fcrNow.getLsbD 3) md r.1).1, r.2 ||| ((ffOf t).finish (s.fcrNow.getLsbD 3) md r.1).2)) :=
  (operation_plain h (Instr.plain_ffma form t d a b) (fun _ _ => rfl) rfl rfl : execFfma form t d a b s = _)
theorem exec_fminmax (mx : Bool) (t : FpTy) (d a b : SReg) : exec (.fop (if mx then .max else .min) t d a b) s =
    .next ((s.wx d (BitVec.ofNat 64 ((ffOf t).minmax mx (fpIn t (s.rx a)) (fpIn t (s.rx b))).1) 2).scalarFlags
      ((ffOf t).minmax mx (fpIn t (s.rx a)) (fpIn t (s.rx b))).2 2) := by
  cases mx
  · exact (operation_plain h (Instr.plain_fop .min t d a b) (fun _ _ => rfl) rfl rfl : execFop .min t d a b s = _)
  · exact (operation_plain h (Instr.plain_fop .max t d a b) (fun _ _ => rfl) rfl rfl : execFop .max t d a b s = _)
end
end Sys2Proof.Machine

namespace Sys2Proof.Proofs
open Sys2Proof.Machine Sys2Proof.Claims

/-! ### O22: scalar floating point -/

/-- Settles O22: every operation issues, its result is by definition the one rounding of its exact value, and min and max order numbers as R115 does. -/
theorem scalarFloatResults : Obligations.ScalarFloatResults := by
  intro s t d a b q h ff x y z rm ftz rounded
  have hop (op : FopKind) := Instr.plain_fop op t d a b
  refine ⟨(operation_plain h (hop .add) (fun _ _ => rfl) rfl rfl : execFop .add t d a b s = _),
    (operation_plain h (hop .sub) (fun _ _ => rfl) rfl rfl : execFop .sub t d a b s = _),
    (operation_plain h (hop .mul) (fun _ _ => rfl) rfl rfl : execFop .mul t d a b s = _),
    (operation_plain h (hop .div) (fun _ _ => rfl) rfl rfl : execFop .div t d a b s = _),
    (operation_plain h (hop .sqrt) (fun _ _ => rfl) rfl rfl : execFop .sqrt t d a b s = _),
    exec_ffma h .ma t d a b, exec_ffma h .ms t d a b, exec_ffma h .nma t d a b, exec_ffma h .nms t d a b,
    fun mx => ⟨_, _, exec_fminmax h mx t d a b, minmax_either ff mx, fun hl => ?_, fun hl => ?_,
      fun hx hy => (minmax_nans ff mx hx hy).trans (show (ffOf t).nan = _ by cases t <;> rfl), (minmax_flags ff mx).trans (sigFlag_pair x y),
      minmax_nan_left ff mx, minmax_nan_right ff mx⟩,
    fun c => (operation_plain h (Instr.plain_fcmp c t q a b) (fun _ _ => rfl) rfl rfl : execFcmp c t q a b s = _),
    fun src dst cm => (operation_plain h (Instr.plain_fcvt src dst cm d a) (fun _ _ => rfl) rfl rfl : execFcvt src dst cm d a s = _)⟩
  · exact (minmax_less ff mx hl).trans (apply_ite (fun r => fpIn t (s.rx r)) _ b a).symm
  · exact (minmax_greater ff mx hl).trans (apply_ite (fun r => fpIn t (s.rx r)) _ a b).symm
end Sys2Proof.Proofs

namespace Sys2Proof.Machine
open Sys2Proof.Claims

/-! ### An atomic at its word (R150, R151) -/

theorem memRead_lt (m : List Host.Cell) (a n : Nat) : memRead m a n < 256 ^ n := by
  induction n generalizing a with
  | zero => simp [memRead]
  | succ n ih =>
    have hb := (memGet m a).isLt
    have ht := ih (a + 1)
    rw [memRead, Nat.pow_succ]
    omega
theorem Core.word_storeBytes (c : Core) (a : Nat) (v : DWord) : (c.storeBytes a 8 v.toNat).word a = v := c.word_setWord a v
theorem Core.memRead_storeBytes4 (c : Core) (a : Nat) (v : Word) : memRead (c.storeBytes a 4 v.toNat).ls a 4 = v.toNat :=
  (memRead_write_same c.ls a 4 v.toNat).trans (Nat.mod_eq_of_lt v.isLt)
/-- The 32-bit value at an address. -/
def Core.word32 (c : Core) (a : Nat) : Word := BitVec.ofNat 32 (memRead c.ls a 4)
theorem Core.toNat_word32 (c : Core) (a : Nat) : (c.word32 a).toNat = memRead c.ls a 4 :=
  Nat.mod_eq_of_lt (memRead_lt c.ls a 4)

section
variable (c : Core) {i : Instr} {a : Nat} {v cmp : DWord}
/-- At 64 bits an atomic leaves the table's value and answers the old word. -/
theorem Core.atomic_word (h : accessSize i = 8) (hf : c.acasFails i a cmp = false) :
    (c.atomic i a v cmp).2 = c.word a ∧ (c.atomic i a v cmp).1.word a = atomicVal 64 i (c.word a) v cmp := by
  simp [Core.atomic, h, hf, Core.word_storeBytes]
/-- At 32 bits an atomic leaves the table's value. -/
theorem Core.atomic_word32 (h : accessSize i = 4) (hf : c.acasFails i a cmp = false) :
    memRead (c.atomic i a v cmp).1.ls a 4 = (atomicVal 32 i (c.word32 a) (v.setWidth 32) (cmp.setWidth 32)).toNat := by
  simp [Core.atomic, h, hf, Core.memRead_storeBytes4, Core.word32]
/-- An ACAS that finds another value than the compared one changes nothing (R151). -/
theorem Core.atomic_fails (h : c.acasFails i a cmp = true) : (c.atomic i a v cmp).1 = c := by
  by_cases hs : accessSize i = 8 <;> simp [Core.atomic, hs, h]
/-- Only the access's own bytes change. -/
theorem Core.atomic_other (h : accessSize i = 8 ∨ accessSize i = 4) {x : Nat} (hx : x < a ∨ a + accessSize i ≤ x) :
    memGet (c.atomic i a v cmp).1.ls x = memGet c.ls x := by
  cases hf : c.acasFails i a cmp with
  | true => rw [c.atomic_fails hf]
  | false =>
    rcases h with h | h <;> rw [h] at hx <;> simp [Core.atomic, h, hf, Core.storeBytes_other _ _ _ _ _ hx]
/-- The core with more of its banks used in this cycle (R131). -/
def Core.withBanks (c : Core) (l : List Nat) : Core := { c with used := c.used ++ l }
/-- The banks in use decide nothing of an atomic. -/
theorem Core.atomic_withBanks (l : List Nat) : ((c.withBanks l).atomic i a v cmp).1.ls = (c.atomic i a v cmp).1.ls ∧
    ((c.withBanks l).atomic i a v cmp).2 = (c.atomic i a v cmp).2 := by
  simp only [Core.atomic, apply_ite Prod.fst, apply_ite Prod.snd, apply_ite Core.ls]
  exact ⟨rfl, rfl⟩
/-- An atomic leaves the writes that are to land and the contexts. -/
theorem Core.atomic_keeps : (c.atomic i a v cmp).1.writes = c.writes ∧ ∀ k, (c.atomic i a v cmp).1.ctx k = c.ctx k := by
  unfold Core.atomic
  cases c.acasFails i a cmp <;> split <;> exact ⟨rfl, fun _ => rfl⟩
end
/-- AMINMAX takes the larger or the smaller of two values, natural or signed (R151). -/
theorem atomicVal_aminmax {n : Nat} (d a b : SReg) (mx u w : Bool) (x y cmp : BitVec n) :
    let new := atomicVal n (.aminmax d a b mx u w) x y cmp
    (new = x ∨ new = y) ∧ (u = true → mx = true → x.toNat ≤ new.toNat ∧ y.toNat ≤ new.toNat) ∧
      (u = true → mx = false → new.toNat ≤ x.toNat ∧ new.toNat ≤ y.toNat) ∧
      (u = false → mx = true → x.toInt ≤ new.toInt ∧ y.toInt ≤ new.toInt) ∧
      (u = false → mx = false → new.toInt ≤ x.toInt ∧ new.toInt ≤ y.toInt) := by
  intro new
  have hn : new = if lessThan u x y then (if mx then y else x) else (if mx then x else y) := rfl
  rw [hn]
  cases u with
  | true =>
    have hl : lessThan true x y = decide (x.toNat < y.toNat) := rfl
    by_cases h : x.toNat < y.toNat <;> cases mx <;> simp [hl, h] <;> omega
  | false =>
    have hl : lessThan false x y = decide (x.toInt < y.toInt) := rfl
    by_cases h : x.toInt < y.toInt <;> cases mx <;> simp [hl, h] <;> omega
/-- The sum of a field of two words, rounded to nearest (R96). -/
def fieldSum (ff : Ff) (x y k n : Nat) : Nat :=
  (ff.finish false .rne (numAdd .rne (ff.num (x / 2 ^ k % 2 ^ n)) (ff.num (y / 2 ^ k % 2 ^ n))).1).1
/-- AFADD adds one FP32 or two BF16 fields (R96). -/
theorem afaddVal_eq (bf : Bool) (x y : Word) : afaddVal bf x.toNat y.toNat =
    if bf then fieldSum ffBf16 x.toNat y.toNat 0 16 + 65536 * fieldSum ffBf16 x.toNat y.toNat 16 16
    else fieldSum ffF32 x.toNat y.toNat 0 32 := by
  have hl : x.toNat % 4294967296 = x.toNat := Nat.mod_eq_of_lt x.isLt
  have hh : x.toNat / 65536 % 65536 = x.toNat / 65536 := Nat.mod_eq_of_lt (by have := x.isLt; omega)
  cases bf <;> simp [afaddVal, fieldSum, hl, hh]

/-! ### The issue of an atomic (R132) -/

/-- An atomic issues in every context (R60, R61, R262). -/
theorem Instr.plain_of_atomic {i : Instr} (h : isAtomic i = true) : Instr.Plain i := by
  unfold isAtomic at h
  split at h
  case h_2 => exact ⟨⟨rfl, rfl⟩, fun _ _ => rfl, ⟨rfl, rfl⟩, noVector_x _, fun r => noVector_map r [_, _, _], Nat.le_refl 1⟩
  case h_7 => cases h
  all_goals exact ⟨⟨rfl, rfl⟩, fun _ _ => rfl, ⟨rfl, rfl⟩, noVector_x _, fun r => noVector_map r [_, _], Nat.le_refl 1⟩
theorem accessSize_atomic {i : Instr} (h : isAtomic i = true) : accessSize i = 8 ∨ accessSize i = 4 := by
  unfold isAtomic at h
  split at h
  case h_6 => exact .inr rfl
  case h_7 => cases h
  all_goals exact (ite_eq_either _ _).symm
/-- What the definitions of the L slot give an atomic: its path, one access to be checked, and the effect of R151. -/
structure Instr.AtomicAccess (i : Instr) : Prop where
  refused : ∀ n p, Instr.sprRefused n p i = false
  denied : Instr.sprDenied i = false
  exec : ∀ s, exec i s = lOp i s
  check : ∀ s : State, s.checkAddr (s.lOperands i).a (accessSize i) false none = none →
    s.here.poisonHit i (laddrOf (s.lOperands i).a) (s.lOperands i).b (s.lOperands i).idx = none → s.lCheck i = none
  access : ∀ (c : Core) (a : Nat) (b : DWord) (data idx : Vec), c.access i a b data idx =
    some ((c.atomic i a b (data.setWidth 64)).1, .word (c.atomic i a b (data.setWidth 64)).2)
theorem Instr.access_of_atomic {i : Instr} (h : isAtomic i = true) : Instr.AtomicAccess i := by
  unfold isAtomic at h
  split at h
  case h_7 => cases h
  all_goals
    exact ⟨fun _ _ => rfl, rfl, fun _ => rfl, fun s hc hn => by simp only [State.lCheck, hc, hn, ite_self], fun _ _ _ _ _ => rfl⟩
theorem Core.poisonHit_clean {c : Core} (h : c.poison = []) (i : Instr) (a : Nat) (b : DWord) (idx : Vec) : c.poisonHit i a b idx = none := by
  rw [Core.poisonHit, h]
  exact ite_eq_left_iff.2 fun _ => firstOf_none fun _ _ => by simp
theorem isRemote_local {a : DWord} (h : a.toNat < 0x80000) : isRemote a = false :=
  Nat.testBit_lt_two_pow (Nat.lt_of_lt_of_le h (by decide))
theorem laddrOf_local {a : DWord} (h : a.toNat < 0x80000) : laddrOf a = a.toNat := by
  rw [laddrOf, BitVec.extractLsb'_toNat]
  exact Nat.mod_eq_of_lt h
/-- A plain access to the context's own local store passes R130. -/
theorem State.checkAddr_local {s : State} {a : DWord} {n : Nat} (h : LocalAt s a n) : s.checkAddr a n false none = none := by
  obtain ⟨-, -, -, hlt, hreach, halign⟩ := h
  simp [State.checkAddr, Core.localOk, isRemote_local hlt, laddrOf_local hlt, hlt, hreach, halign]
/-- A plain local atomic is held for the end of its core turn (R132). -/
theorem exec_atomic_local {s : State} {i : Instr} {a b : SReg} {data : Vec} (h : isAtomic i = true)
    (ho : s.lOperands i = ⟨s.rx a, s.rx b, data, 0⟩) (hl : LocalAt s (s.rx a) (accessSize i)) :
    exec i s = .next (s.turnOp i (s.rx a) (s.rx b) (data.setWidth 64)) := by
  obtain ⟨hi, hrx, hpoison, hlt, -, -⟩ := id hl
  have hx := Instr.access_of_atomic h
  have hc : s.lCheck i = none := hx.check s (by rw [ho]; exact State.checkAddr_local hl) (Core.poisonHit_clean hpoison ..)
  have hp : s.lPerform i = s.turnOp i (s.rx a) (s.rx b) (data.setWidth 64) := by
    simp [State.lPerform, ho, hrx, isRemote_local hlt, h]
  rw [hx.exec, lOp, operation_plain hi (Instr.plain_of_atomic h) hx.refused hx.denied hc, hp]
theorem State.oweAll_single (s : State) {i : Instr} {d : SReg} (hd : Instr.dests i = [.x d]) (id : Nat) : s.oweAll i id = s.oweX d id := by
  have hr : Reg.dest s.frame.ctx (.x d) = if d = 0 then none else some (xDest s.frame.ctx d) := rfl
  by_cases h : d = 0
  · rw [State.oweAll, Instr.destsOf, hd, List.filterMap_cons_none (hr.trans (if_pos h)), State.oweX, if_pos h]
    rfl
  · rw [State.oweAll, Instr.destsOf, hd, List.filterMap_cons_some (hr.trans (if_neg h)), State.oweX, if_neg h]
    rfl
/-- The operation that a core holds for the end of the turn. -/
def State.heldOp (s : State) (i : Instr) (a b c : DWord) : TurnOp :=
  ⟨s.frame.ctx, s.frame.slot, i, s.frame.words, a, b, c, s.rx 4, s.rx 5, s.rx 6, s.rx 7, s.frame.addr, s.now, s.ids⟩
/-- The operation is held, and its destination is owed (R132). -/
theorem State.turnOp_holds (s : State) {i : Instr} {d : SReg} (hd : Instr.dests i = [.x d]) (a b c : DWord) :
    let t := s.turnOp i a b c
    let o := s.heldOp i a b c
    t.here.turnOps = s.here.turnOps ++ [o] ∧ t.here.ls = s.here.ls ∧ (∀ k, t.here.ctx k = s.here.ctx k) ∧
      (d = 0 → t.here.writes = s.here.writes) ∧
      (d ≠ 0 → t.here.writes = s.here.writes ++ [⟨xDest s.frame.ctx d, .word 0, s.frame.ctx, s.now, none, o.id, []⟩]) := by
  have he : s.turnOp i a b c = (({ s with ids := s.ids + 1 } : State).oweX d s.ids).onHere fun k =>
      { k with turnOps := k.turnOps ++ [s.heldOp i a b c] } := by
    rw [← State.oweAll_single _ hd]
    rfl
  rw [he]
  simp only [State.here_onHere]
  by_cases h : d = 0
  · subst h
    exact ⟨rfl, rfl, fun _ => rfl, fun _ => rfl, fun h => absurd rfl h⟩
  · simp only [State.oweX, h, if_false, State.owe, State.here_onHere]
    exact ⟨rfl, rfl, fun _ => rfl, fun h0 => absurd h0 id, fun _ => rfl⟩

/-! ### The end of the core turn (R132, R239, R328) -/

/-- An access that takes effect at its own core uses its banks and may note its words' writer. -/
theorem Core.ownAccess_some {c d : Core} (p n : Nat) {i : Instr} {o : LOperands} {v : Val}
    (h : (c.withBanks ((wordsOf (accessPieces i (laddrOf o.a) o.b o.idx)).map bankOf)).access i (laddrOf o.a) o.b o.data o.idx = some (d, v)) :
    ∃ m, c.ownAccess p n i o = some ({ d with writers := m }, v) := by
  rw [Core.withBanks] at h
  simp only [Core.ownAccess, h]
  split
  · exact ⟨_, rfl⟩
  · exact ⟨_, rfl⟩
/-- An atomic at its own core: the old word, and a core with the atomic's store and the writes and contexts as they were. -/
theorem Core.ownAccess_atomic (c : Core) (p n : Nat) {i : Instr} (h : isAtomic i = true) (o : LOperands) :
    ∃ d : Core, c.ownAccess p n i o = some (d, .word (c.atomic i (laddrOf o.a) o.b (o.data.setWidth 64)).2) ∧
      d.ls = (c.atomic i (laddrOf o.a) o.b (o.data.setWidth 64)).1.ls ∧ d.writes = c.writes ∧ ∀ k, d.ctx k = c.ctx k := by
  obtain ⟨m, hm⟩ := Core.ownAccess_some p n ((Instr.access_of_atomic h).access _ (laddrOf o.a) o.b o.data o.idx)
  obtain ⟨hls, hold⟩ := c.atomic_withBanks ((wordsOf (accessPieces i (laddrOf o.a) o.b o.idx)).map bankOf)
  obtain ⟨hw, hx⟩ := (c.withBanks ((wordsOf (accessPieces i (laddrOf o.a) o.b o.idx)).map bankOf)).atomic_keeps
  rw [hold] at hm
  exact ⟨_, hm, hls, hw, hx⟩
section
variable (s : State) (p : Nat) {o : TurnOp} (h : isAtomic o.op = true)
include h
theorem State.performTurnOp_stopped {e : Nat} {v : DWord} (hs : (s.core p).stopsAt o.ctx o.op (laddrOf o.a) o.b 0 = some (e, v)) :
    s.performTurnOp p o = s.lateFirst p o e v := by
  unfold State.performTurnOp
  split
  case h_6 => simp only [hs]
  all_goals
    rename_i hop
    rw [hop] at h
    cases h
theorem State.performTurnOp_performed {c : Core} {v : Val} (hs : (s.core p).stopsAt o.ctx o.op (laddrOf o.a) o.b 0 = none)
    (ha : (s.core p).ownAccess p o.ctx o.op ⟨o.a, o.b, o.c.setWidth 256, 0⟩ = some (c, v)) :
    s.performTurnOp p o = s.setCore p (c.settle o.id v (o.issue + 15)) := by
  unfold State.performTurnOp
  split
  case h_6 => simp only [hs, ha]
  all_goals
    rename_i hop
    rw [hop] at h
    cases h
end
theorem Core.ctx_forgo (c : Core) (id n : Nat) : (c.forgo id).ctx n = c.ctx n := rfl
/-- A late trap of a held operation: its result is owed no more, and its context traps at its next issue turn. -/
theorem State.lateFirst_keeps (s : State) (p : Nat) (o : TurnOp) (e : Nat) (v : DWord) :
    ((s.lateFirst p o e v).core p).ls = (s.core p).ls ∧
      (∀ w ∈ ((s.lateFirst p o e v).core p).writes, w.id = o.id → w.due ≠ none) ∧
      ((s.lateFirst p o e v).ctx p o.ctx).late = (s.ctx p o.ctx).late ++ [⟨.first o.slot o.addr, causeOf e, v, s.now⟩] := by
  have hc : (s.lateFirst p o e v).core p = ((s.core p).onCtx o.ctx fun x =>
      x.addLate ⟨.first o.slot o.addr, causeOf e, v, s.now⟩).forgo o.id := by
    rw [State.lateFirst, State.core_onCore_same, State.core_onCtx_same]
  rw [State.ctx, hc]
  refine ⟨rfl, fun w hw hid hdue => ?_, ?_⟩
  · have hkept := (List.mem_filter.1 hw).2
    simp [hid, hdue] at hkept
  · rw [Core.ctx_forgo, Core.ctx_onCtx_same]
    rfl
end Sys2Proof.Machine

namespace Sys2Proof.Proofs
open Sys2Proof.Machine Sys2Proof.Claims

/-! ### O35: local atomics -/

/-- An operand kept as a vector's low word reads back. -/
theorem setWidth_vec_word (v : DWord) : (v.setWidth 256).setWidth 64 = v := by simp
/-- A local atomic at its issue: held for the end of the turn, its destination owed, nothing written (R132). -/
theorem atomic_held {s : State} {i : Instr} {d a b : SReg} {w : Bool} {data : Vec} {n : Nat} (h : isAtomic i = true)
    (hn : accessSize i = n) (hd : Instr.dests i = [.x d]) (ho : s.lOperands i = ⟨s.rx a, s.rx b, data, 0⟩)
    (hc : i = .acas d a b w → data.setWidth 64 = s.rx d) (hl : LocalAt s (s.rx a) n) :
    ∃ t o, exec i s = .next t ∧ t.here.turnOps = s.here.turnOps ++ [o] ∧ o.op = i ∧ o.ctx = s.frame.ctx ∧
      o.a = s.rx a ∧ o.b = s.rx b ∧ (i = .acas d a b w → o.c = s.rx d) ∧ o.issue = s.now ∧
      t.here.ls = s.here.ls ∧ (∀ k, t.here.ctx k = s.here.ctx k) ∧ (d = 0 → t.here.writes = s.here.writes) ∧
      (d ≠ 0 → t.here.writes = s.here.writes ++ [⟨xDest s.frame.ctx d, .word 0, s.frame.ctx, s.now, none, o.id, []⟩]) := by
  subst hn
  obtain ⟨hops, hls, hx, h0, hw⟩ := s.turnOp_holds hd (s.rx a) (s.rx b) (data.setWidth 64)
  exact ⟨_, _, exec_atomic_local h ho hl, hops, rfl, rfl, rfl, rfl, hc, rfl, hls, hx, h0, hw⟩
/-- A held atomic at the end of its turn (R132, R239, R328). -/
theorem atomic_performed (s : State) (p : Nat) {o : TurnOp} (h : isAtomic o.op = true) :
    let r := (s.core p).atomic o.op (laddrOf o.a) o.b o.c
    ((s.core p).stopsAt o.ctx o.op (laddrOf o.a) o.b 0 = none →
      ∃ c : Core, s.performTurnOp p o = s.setCore p (c.settle o.id (.word r.2) (o.issue + 15)) ∧ c.ls = r.1.ls ∧
        c.writes = (s.core p).writes ∧ ∀ k, c.ctx k = (s.core p).ctx k) ∧
    ∀ e v, (s.core p).stopsAt o.ctx o.op (laddrOf o.a) o.b 0 = some (e, v) →
      let t := s.performTurnOp p o
      (t.core p).ls = (s.core p).ls ∧ (∀ w ∈ (t.core p).writes, w.id = o.id → w.due ≠ none) ∧
      (t.ctx p o.ctx).late = (s.ctx p o.ctx).late ++ [⟨.first o.slot o.addr, causeOf e, v, s.now⟩] := by
  refine ⟨fun hs => ?_, fun e v hs => ?_⟩
  · obtain ⟨c, hc, hkept⟩ := (s.core p).ownAccess_atomic p o.ctx h ⟨o.a, o.b, o.c.setWidth 256, 0⟩
    rw [setWidth_vec_word o.c] at hc hkept
    exact ⟨c, s.performTurnOp_performed p h hs hc, hkept⟩
  · intro t
    have ht : t = s.lateFirst p o e v := s.performTurnOp_stopped p h hs
    rw [ht]
    exact s.lateFirst_keeps p o e v
/-- ACAS at 64 bits (R151). -/
theorem acas_word (c : Core) (d a b : SReg) (x : Nat) (v cmp : DWord) :
    (c.atomic (.acas d a b false) x v cmp).2 = c.word x ∧
    (c.atomic (.acas d a b false) x v cmp).1.word x = (if c.word x = cmp then v else c.word x) ∧
    (c.word x ≠ cmp → (c.atomic (.acas d a b false) x v cmp).1 = c) := by
  have hf : c.acasFails (.acas d a b false) x cmp = (c.word x != cmp) := rfl
  by_cases h : c.word x = cmp
  · obtain ⟨hold, hnew⟩ := c.atomic_word (v := v) rfl (hf.trans (by simp [h]))
    exact ⟨hold, hnew, fun hne => absurd h hne⟩
  · have hc := c.atomic_fails (v := v) (hf.trans (by simp [h]))
    exact ⟨rfl, by rw [hc, if_neg h], fun _ => hc⟩
/-- ACAS at 32 bits (R151). -/
theorem acas_word32 (c : Core) (d a b : SReg) (x : Nat) (v cmp : DWord) :
    memRead (c.atomic (.acas d a b true) x v cmp).1.ls x 4 =
      (if c.word32 x = cmp.setWidth 32 then v.setWidth 32 else c.word32 x : Word).toNat ∧
    (c.word32 x ≠ cmp.setWidth 32 → (c.atomic (.acas d a b true) x v cmp).1 = c) := by
  have hf : c.acasFails (.acas d a b true) x cmp = (c.word32 x != cmp.setWidth 32) := rfl
  by_cases h : c.word32 x = cmp.setWidth 32
  · exact ⟨c.atomic_word32 rfl (hf.trans (by simp [h])), fun hne => absurd h hne⟩
  · have hc := c.atomic_fails (v := v) (hf.trans (by simp [h]))
    exact ⟨by rw [hc, if_neg h, c.toNat_word32], fun _ => hc⟩
/-- AFADD (R96, R151). -/
theorem afadd_word32 (c : Core) (d a b : SReg) (bf : Bool) (x : Nat) (v cmp : DWord) :
    (c.atomic (.afadd d a b bf) x v cmp).2 = (c.word32 x).setWidth 64 ∧
    memRead (c.atomic (.afadd d a b bf) x v cmp).1.ls x 4 =
      (BitVec.ofNat 32 (if bf then fieldSum ffBf16 (c.word32 x).toNat (v.setWidth 32).toNat 0 16 +
        65536 * fieldSum ffBf16 (c.word32 x).toNat (v.setWidth 32).toNat 16 16
        else fieldSum ffF32 (c.word32 x).toNat (v.setWidth 32).toNat 0 32)).toNat := by
  rw [← afaddVal_eq]
  exact ⟨rfl, c.atomic_word32 rfl rfl⟩

/-- Settles O35: an atomic is held at its issue, performed or trapped at the end of its turn, and its new word and old value are the table's. -/
theorem localAtomics : Obligations.LocalAtomics := by
  refine ⟨fun s d a b w mx u bf op => ⟨?_, fun p o h => atomic_performed s p h⟩, fun c d a b at_ v cmp op mx u => ?_⟩
  · iterate 6 rw [List.forall_mem_cons]
    exact ⟨atomic_held rfl rfl rfl rfl nofun, atomic_held rfl rfl rfl rfl fun _ => setWidth_vec_word (s.rx d),
      atomic_held rfl rfl rfl rfl nofun, atomic_held rfl rfl rfl rfl nofun, atomic_held rfl rfl rfl rfl nofun,
      atomic_held rfl rfl rfl rfl nofun, List.forall_mem_nil _⟩
  · have hw {i : Instr} (hs : accessSize i = 8) (hf : c.acasFails i at_ cmp = false) := c.atomic_word (v := v) hs hf
    have hh {i : Instr} (hs : accessSize i = 4) (hf : c.acasFails i at_ cmp = false) := c.atomic_word32 (v := v) hs hf
    obtain ⟨hold, hnew, hkeep⟩ := acas_word c d a b at_ v cmp
    obtain ⟨hnew', hkeep'⟩ := acas_word32 c d a b at_ v cmp
    refine ⟨hw rfl rfl, ⟨rfl, hh rfl rfl⟩, ⟨hold, hnew⟩, ⟨rfl, hnew'⟩, hkeep, hkeep', hw rfl rfl, ⟨rfl, hh rfl rfl⟩, hw rfl rfl,
      ⟨rfl, hh rfl rfl⟩, ⟨_, hw rfl rfl, atomicVal_aminmax ..⟩, ⟨_, ⟨rfl, hh rfl rfl⟩, atomicVal_aminmax ..⟩,
      fun bf => afadd_word32 c d a b bf at_ v cmp, fun bf w i hi x hx => c.atomic_other (accessSize_atomic ?_) hx⟩
    simp only [List.mem_cons, List.not_mem_nil, or_false] at hi
    rcases hi with rfl | rfl | rfl | rfl | rfl | rfl <;> rfl
end Sys2Proof.Proofs
